-- ==== Sys2Proof/Word.lean ====
section
/-! DEFINITION. The word types of the CX8, a 32-bit value with its poison bit, sparse maps, and the fields of an
instruction word (R3, R45, R228 to R231). -/

namespace Sys2Proof

abbrev Byte := BitVec 8
abbrev Word := BitVec 32
abbrev DWord := BitVec 64

/-- A 32-bit value of a register or of a local array with its poison bit (R45). -/
structure RVal where
  v : Word
  p : Bool
  deriving DecidableEq, Repr

/-- The value every zero-filled register or word holds: 0, poison clear. -/
def RVal.zero : RVal := { v := 0, p := false }

/-- A 64-bit value read from a register pair, with the OR of its poison bits (R57, R231). -/
structure WVal where
  v : DWord
  p : Bool
  deriving DecidableEq, Repr

/-- Sparse data by key: keys strictly rising, and no entry equal to what an unlisted key reads as. -/
abbrev SMap (α : Type) := List (Nat × α)

/-- The fields of one instruction (R229, R230): the register numbers are the 8-bit ones of R230, `md` is MOD, and in a
form without W1 it holds the base MOD of the instruction (R235). -/
structure Form where
  len : BitVec 2
  gp : BitVec 3
  gn : Bool
  dst : BitVec 8
  sa : BitVec 8
  sb : BitVec 8
  sc : BitVec 8
  kca : Bool
  kcb : Bool
  kcc : Bool
  dk : Bool
  hold : BitVec 2
  md : BitVec 11
  aux : BitVec 32
  lit : BitVec 64
  deriving DecidableEq, Repr

/-- The words of an instruction (R228); words beyond its length are 0. -/
structure Words where
  w0 : BitVec 32
  w1 : BitVec 32
  w2 : BitVec 32
  l0 : BitVec 32
  l1 : BitVec 32
  deriving DecidableEq, Repr

end Sys2Proof
end

