-- ==== Sys2Proof/Syntax.lean ====
section
/-! DEFINITION. The steps of the CX8: one constructor for each row of the opcode table. The first 170 are the
instructions of R241, each with its decoded fields; the others are happenings of the engines, the schedulers, the
host, the fabric and the power logic (the table's further rows), with what tells them apart. -/

namespace Sys2Proof

/-- The steps of the device. An instruction acts for the strand that issues it; a happening names what it befalls. -/
inductive Instr where
  /-- NOP (R247). -/
  | nop (f : Form)
  /-- EXIT (R248). -/
  | exit (f : Form)
  /-- YIELD (R249). -/
  | yield (f : Form)
  /-- SLEEP (R250). -/
  | sleep (f : Form)
  /-- NOPRE (R251). -/
  | nopre (f : Form)
  /-- PREOK (R251). -/
  | preok (f : Form)
  /-- BRA (R252). -/
  | bra (f : Form)
  /-- BRI (R253). -/
  | bri (f : Form)
  /-- CALL (R78). -/
  | call (f : Form)
  /-- CALLI (R78). -/
  | calli (f : Form)
  /-- RET (R79). -/
  | ret (f : Form)
  /-- UNWIND (R80). -/
  | unwind (f : Form)
  /-- TRAP (R255). -/
  | trap (f : Form)
  /-- ERET (R256). -/
  | eret (f : Form)
  /-- MFS (R257). -/
  | mfs (f : Form)
  /-- MTS (R258). -/
  | mts (f : Form)
  /-- LAUNCH (R259). -/
  | launch (f : Form)
  /-- WAITW (R261). -/
  | waitw (f : Form)
  /-- IPF (R262). -/
  | ipf (f : Form)
  /-- IPIN (R262). -/
  | ipin (f : Form)
  /-- IUNPIN (R262). -/
  | iunpin (f : Form)
  /-- FENCEI (R264). -/
  | fencei (f : Form)
  /-- BAR (R265). -/
  | bar (f : Form)
  /-- GBAR (R266). -/
  | gbar (f : Form)
  /-- BTEST (R267). -/
  | btest (f : Form)
  /-- PHASE (R268). -/
  | phase (f : Form)
  /-- WAIT (R270). -/
  | wait (f : Form)
  /-- WAITT (R271). -/
  | waitt (f : Form)
  /-- SDRAIN (R272). -/
  | sdrain (f : Form)
  /-- FRD (R273). -/
  | frd (f : Form)
  /-- FWR (R273). -/
  | fwr (f : Form)
  /-- FINFO (R274). -/
  | finfo (f : Form)
  /-- IADD (R280). -/
  | iadd (f : Form)
  /-- ISUB (R280). -/
  | isub (f : Form)
  /-- IMIN (R280). -/
  | imin (f : Form)
  /-- IMAX (R280). -/
  | imax (f : Form)
  /-- IABS (R280). -/
  | iabs (f : Form)
  /-- INEG (R280). -/
  | ineg (f : Form)
  /-- ISAD (R280). -/
  | isad (f : Form)
  /-- IMUL (R280). -/
  | imul (f : Form)
  /-- IMULH (R280). -/
  | imulh (f : Form)
  /-- IMAD (R280). -/
  | imad (f : Form)
  /-- IDIV (R280). -/
  | idiv (f : Form)
  /-- IREM (R280). -/
  | irem (f : Form)
  /-- IMULW (R280). -/
  | imulw (f : Form)
  /-- AND (R281). -/
  | and (f : Form)
  /-- OR (R281). -/
  | or (f : Form)
  /-- XOR (R281). -/
  | xor (f : Form)
  /-- ANDN (R281). -/
  | andn (f : Form)
  /-- NOT (R281). -/
  | not (f : Form)
  /-- BLUT (R282). -/
  | blut (f : Form)
  /-- SHL (R281). -/
  | shl (f : Form)
  /-- SHR (R281). -/
  | shr (f : Form)
  /-- SAR (R281). -/
  | sar (f : Form)
  /-- ROTL (R281). -/
  | rotl (f : Form)
  /-- ROTR (R281). -/
  | rotr (f : Form)
  /-- FSHL (R281). -/
  | fshl (f : Form)
  /-- FSHR (R281). -/
  | fshr (f : Form)
  /-- CLZ (R283). -/
  | clz (f : Form)
  /-- CTZ (R283). -/
  | ctz (f : Form)
  /-- POPC (R283). -/
  | popc (f : Form)
  /-- BREV (R283). -/
  | brev (f : Form)
  /-- BFE (R284). -/
  | bfe (f : Form)
  /-- BFI (R284). -/
  | bfi (f : Form)
  /-- BSWZ (R285). -/
  | bswz (f : Form)
  /-- ICMP (R286). -/
  | icmp (f : Form)
  /-- ISEL (R287). -/
  | isel (f : Form)
  /-- PAND (R288). -/
  | pand (f : Form)
  /-- POR (R288). -/
  | por (f : Form)
  /-- PXOR (R288). -/
  | pxor (f : Form)
  /-- PNOT (R288). -/
  | pnot (f : Form)
  /-- PMOV (R288). -/
  | pmov (f : Form)
  /-- PCHK (R289). -/
  | pchk (f : Form)
  /-- MOV (R290). -/
  | mov (f : Form)
  /-- MOVI (R290). -/
  | movi (f : Form)
  /-- MOVK (R290). -/
  | movk (f : Form)
  /-- LEA (R290). -/
  | lea (f : Form)
  /-- CVTI (R291). -/
  | cvti (f : Form)
  /-- GPC (R290). -/
  | gpc (f : Form)
  /-- FADD (R292). -/
  | fadd (f : Form)
  /-- FSUB (R292). -/
  | fsub (f : Form)
  /-- FMUL (R292). -/
  | fmul (f : Form)
  /-- FFMA (R292). -/
  | ffma (f : Form)
  /-- FMIN (R212). -/
  | fmin (f : Form)
  /-- FMAX (R212). -/
  | fmax (f : Form)
  /-- FCMP (R293). -/
  | fcmp (f : Form)
  /-- FSEL (R293). -/
  | fsel (f : Form)
  /-- FRCP (R294). -/
  | frcp (f : Form)
  /-- FRSQ (R294). -/
  | frsq (f : Form)
  /-- FSQRT (R292). -/
  | fsqrt (f : Form)
  /-- FEXP2 (R294). -/
  | fexp2 (f : Form)
  /-- FLOG2 (R294). -/
  | flog2 (f : Form)
  /-- FSIN (R294). -/
  | fsin (f : Form)
  /-- FCOS (R294). -/
  | fcos (f : Form)
  /-- FTANH (R294). -/
  | ftanh (f : Form)
  /-- CVTF (R297). -/
  | cvtf (f : Form)
  /-- CVTFI (R297). -/
  | cvtfi (f : Form)
  /-- CVTIF (R297). -/
  | cvtif (f : Form)
  /-- FRND (R292). -/
  | frnd (f : Form)
  /-- FCLASS (R296). -/
  | fclass (f : Form)
  /-- FDIV (R292). -/
  | fdiv (f : Form)
  /-- HPADD (R298). -/
  | hpadd (f : Form)
  /-- HPMUL (R298). -/
  | hpmul (f : Form)
  /-- HPFMA (R298). -/
  | hpfma (f : Form)
  /-- BPADD (R298). -/
  | bpadd (f : Form)
  /-- BPMUL (R298). -/
  | bpmul (f : Form)
  /-- BPFMA (R298). -/
  | bpfma (f : Form)
  /-- HPMIN (R298). -/
  | hpmin (f : Form)
  /-- HPMAX (R298). -/
  | hpmax (f : Form)
  /-- QADD4 (R215). -/
  | qadd4 (f : Form)
  /-- QMUL4 (R215). -/
  | qmul4 (f : Form)
  /-- QCVT (R300). -/
  | qcvt (f : Form)
  /-- DOT4 (R301). -/
  | dot4 (f : Form)
  /-- DOT8 (R301). -/
  | dot8 (f : Form)
  /-- PACK (R302). -/
  | pack (f : Form)
  /-- UNPACK (R303). -/
  | unpack (f : Form)
  /-- LGET (R305). -/
  | lget (f : Form)
  /-- LROT (R305). -/
  | lrot (f : Form)
  /-- LSLIDE (R305). -/
  | lslide (f : Form)
  /-- LSWAP (R305). -/
  | lswap (f : Form)
  /-- LMASK (R306). -/
  | lmask (f : Form)
  /-- QUORUM (R306). -/
  | quorum (f : Form)
  /-- LCOMB (R307). -/
  | lcomb (f : Form)
  /-- LDUP (R306). -/
  | ldup (f : Form)
  /-- LD (R316). -/
  | ld (f : Form)
  /-- LDB (R321). -/
  | ldb (f : Form)
  /-- LDS (R316). -/
  | lds (f : Form)
  /-- LDR (R316). -/
  | ldr (f : Form)
  /-- LDK (R317). -/
  | ldk (f : Form)
  /-- ST (R318). -/
  | st (f : Form)
  /-- STB (R321). -/
  | stb (f : Form)
  /-- STS (R318). -/
  | sts (f : Form)
  /-- STR (R318). -/
  | str (f : Form)
  /-- ATOM (R323). -/
  | atom (f : Form)
  /-- ACAS (R323). -/
  | acas (f : Form)
  /-- AFADD (R324). -/
  | afadd (f : Form)
  /-- ATOMS (R325). -/
  | atoms (f : Form)
  /-- ACASS (R325). -/
  | acass (f : Form)
  /-- RED (R326). -/
  | red (f : Form)
  /-- CPA (R327). -/
  | cpa (f : Form)
  /-- RGNSET (R328). -/
  | rgnset (f : Form)
  /-- RGNCLR (R329). -/
  | rgnclr (f : Form)
  /-- RGNFL (R330). -/
  | rgnfl (f : Form)
  /-- CHKW (R331). -/
  | chkw (f : Form)
  /-- CHKT (R331). -/
  | chkt (f : Form)
  /-- TSET (R332). -/
  | tset (f : Form)
  /-- TGET (R332). -/
  | tget (f : Form)
  /-- PBAR (R333). -/
  | pbar (f : Form)
  /-- TCFG (R337). -/
  | tcfg (f : Form)
  /-- TLD (R338). -/
  | tld (f : Form)
  /-- TST (R338). -/
  | tst (f : Form)
  /-- TZERO (R339). -/
  | tzero (f : Form)
  /-- MMA (R342). -/
  | mma (f : Form)
  /-- MMAS (R343). -/
  | mmas (f : Form)
  /-- MTRN (R344). -/
  | mtrn (f : Form)
  /-- TMOV (R340). -/
  | tmov (f : Form)
  /-- UNITE (R347). -/
  | unite (f : Form)
  /-- FIND (R348). -/
  | find (f : Form)
  /-- DSIZE (R349). -/
  | dsize (f : Form)
  /-- RELABEL (R352). -/
  | relabel (f : Form)
  /-- DSNAP (R350). -/
  | dsnap (f : Form)
  /-- DUNDO (R350). -/
  | dundo (f : Form)
  /-- DINIT (R351). -/
  | dinit (f : Form)
  /-- TRIAL (R354). -/
  | trial (f : Form)
  /-- TRET (R355). -/
  | tret (f : Form)
  /-- XLD (R355). -/
  | xld (f : Form)
  /-- SIGINS (R356). -/
  | sigins (f : Form)
  /-- SIGCLR (R357). -/
  | sigclr (f : Form)
  /-- RNG (R358). -/
  | rng (f : Form)
  /-- FOLD (R359). -/
  | fold (f : Form)
  /-- MREQ_CREATE (R406). -/
  | mreqCreate (addr : Nat)
  /-- MREQ_DESTROY (R407). -/
  | mreqDestroy (addr : Nat)
  /-- SCHED_STEP (R34). -/
  | schedStep (die : Nat)
  /-- PREEMPT_SAVE (R39). -/
  | preemptSave (gang examples : Nat)
  /-- RESUME_RESTORE (R39). -/
  | resumeRestore (gang : Nat)
  /-- DRAIN_DONE (R40). -/
  | drainDone (gang : Nat)
  /-- PHASE_PUBLISH (R27). -/
  | phasePublish (core lines : Nat)
  /-- PHASE_MESSAGE (R173). -/
  | phaseMessage (msg : Nat)
  /-- DOMAIN_FLOOR_MESSAGE (R34). -/
  | domainFloorMessage (dev compl dgroup : Nat) (queued : Bool) (floor : Option (BitVec 32))
  /-- SPARGE_QUIESCENCE (R83). -/
  | spargeQuiescence (core : Nat)
  /-- SPARGE_STARVATION (R83). -/
  | spargeStarvation (core : Nat)
  /-- TRAP_ENTRY (R363). -/
  | trapEntry (core slot : Nat)
  /-- GBAR_ARRIVAL (R266). -/
  | gbarArrival (msg : Nat)
  /-- STORE_CHECK (R133). -/
  | storeCheck (core : Nat)
  /-- STORE_FAULT_DELIVER (R135). -/
  | storeFaultDeliver (core slot : Nat)
  /-- VARLAT_COMPLETE (R60). -/
  | varlatComplete (core op : Nat) (lanes : BitVec 32) (regs : BitVec 4) (land : Bool)
  /-- PAGE_WALK_DONE (R102). -/
  | pageWalkDone (walk : Nat)
  /-- ANS_REPLAY (R141). -/
  | ansReplay (die walk : Nat)
  /-- ANS_REFUSE (R141). -/
  | ansRefuse (die walk : Nat)
  /-- TILE_JOB_DONE (R168); `bad`: elements of D whose group mismatched twice (R367). -/
  | tileJobDone (core job : Nat) (bad : List Nat)
  /-- CPA_COPY_DONE (R169). -/
  | cpaCopyDone (core op : Nat) (lanes : BitVec 32)
  /-- CHUNK_ARRIVE (R148). -/
  | chunkArrive (core region chunk : Nat)
  /-- COPYOUT_ACK (R149). -/
  | copyoutAck (core region : Nat)
  /-- RELABEL_DONE (R352). -/
  | relabelDone (core job : Nat)
  /-- STR_ARRIVE (R196). -/
  | strArrive (msg : Nat)
  /-- LDR_ARRIVE (R114). -/
  | ldrArrive (core op : Nat) (lanes : BitVec 32)
  /-- WAITW_RETEST (R261). -/
  | waitwRetest (core slot lane : Nat)
  /-- SLEEP_EXPIRE (R250). -/
  | sleepExpire (core slot : Nat)
  /-- AGE_EXPIRE (R177). -/
  | ageExpire (core slot : Nat)
  /-- NOPRE_EXPIRE (R178). -/
  | nopreExpire (core slot : Nat)
  /-- TRIAL_COMPLETE (R354); `bad`: a lane, an example and the number of words it executed before one that mismatched twice
  (R367). -/
  | trialComplete (core slot : Nat) (bad : List (Nat × Nat × Nat))
  /-- TRIAL_ABANDON (R21). -/
  | trialAbandon (core slot : Nat)
  /-- SCRUB_PASS_START (R124). -/
  | scrubPassStart (cls unit : Nat)
  /-- KILN_SCRUB_READ (R125). -/
  | kilnScrubRead (cls unit addr : Nat) (err : BitVec 2)
  /-- BUCKET_DRAIN_TICK (R180). -/
  | bucketDrainTick (cls unit : Nat)
  /-- BUCKET_WINDOW_CLOSE (R180). -/
  | bucketWindowClose (cls unit : Nat)
  /-- REMAP (R371). -/
  | remap (cls unit row : Nat)
  /-- CONTAINMENT_SCAN (R162). -/
  | containmentScan (upsets : List (Nat × Nat × Nat × Nat))
  /-- FIELD_TEST_DUE (R372). -/
  | fieldTestDue (die cluster : Nat)
  /-- FIELD_TEST (R372). -/
  | fieldTest (die cluster : Nat)
  /-- FIELD_TEST_END (R372). -/
  | fieldTestEnd (die cluster : Nat) (failing : List (Nat × Nat × Nat))
  /-- POWER_LOSS_FLUSH (R122). -/
  | powerLossFlush (keep : Nat)
  /-- CLOCK_ADJUST (R412). -/
  | clockAdjust (pnow tj : Nat)
  /-- REMOTE_TIMEOUT (R409). -/
  | remoteTimeout (req : Nat)
  /-- BOOT (R410). -/
  | boot (dev : BitVec 20)
  /-- WAKE_ZERO (R126). -/
  | wakeZero (core : Nat)
  /-- INV_REQUEST (R103). -/
  | invRequest (ctl : BitVec 32)
  /-- INV_DONE (R103). -/
  | invDone
  /-- HFQ_BASE_WRITE (R139). -/
  | hfqBaseWrite (die : Nat) (val : BitVec 64)
  /-- STATUS_READ (R403). -/
  | statusRead
  /-- CTRL_PAGE_WRITE (R403). -/
  | ctrlPageWrite (off : Nat) (val : BitVec 64)
  /-- BAR2_READ (R402). -/
  | bar2Read (off n : Nat)
  /-- BAR2_WRITE (R402). -/
  | bar2Write (off : Nat) (bytes : List Byte)
  /-- TAG_VIEW_READ (R404). -/
  | tagViewRead (off : Nat)
  /-- TAG_VIEW_WRITE (R404). -/
  | tagViewWrite (off : Nat) (val : Byte)
  /-- GET_VERSION (R411). -/
  | getVersion
  /-- GET_CAPABILITIES (R411). -/
  | getCapabilities
  /-- NEGOTIATE_ALGORITHMS (R411). -/
  | negotiateAlgorithms
  /-- GET_DIGESTS (R411). -/
  | getDigests
  /-- GET_CERTIFICATE (R411). -/
  | getCertificate
  /-- CHALLENGE (R411). -/
  | challenge (nonce : Nat)
  /-- GET_MEASUREMENTS (R411). -/
  | getMeasurements (nonce : Nat)
  /-- NON_INSTRUCTION (R243). -/
  | nonInstruction (w0 : BitVec 32)
  /-- FETCH_FAULT (R228). -/
  | fetchFault (cause : BitVec 8) (addr : BitVec 64)
  /-- EMPTY_ROUND (R12). -/
  | emptyRound
  /-- HFQ_CONS_WRITE (R139). -/
  | hfqConsWrite (die : Nat) (val : BitVec 32)
  /-- MSIX_UNMASK (R401). -/
  | msixUnmask (vector : Nat)
  /-- LINK_RETRAINING (R400). -/
  | linkRetraining
  /-- FABRIC_PORT_LOSS (R408). -/
  | fabricPortLoss (port : Nat)
  /-- REMOTE_ACCESS_ARRIVE (R192): a write of bytes, or an update of n bytes by an operation of R322 (0 to 6; 7 ACAS, 8
  AFADD) with its type and operands, or a read of n bytes. -/
  | remoteAccessArrive (pa : Nat) (write : Option (List Byte)) (n : Nat) (atom : Option (Nat × BitVec 4 × BitVec 64 × BitVec 64))
  deriving DecidableEq, Repr

end Sys2Proof
end

