-- ==== Sys2Proof/WellFormed.lean ====
section
/-! DEFINITION. Which decoded instructions are well-formed: the checks of R242 steps 3 and 4 that need no state
(R231, R232, R233, R235, R237 to R240 and the entries of the instruction chapters). -/

namespace Sys2Proof

/-! ### The fields and subfields of a decoded instruction -/

/-- The form has W1 and W2 (LEN 1, 3; R228). -/
def Form.ext (f : Form) : Bool := f.len.getLsbD 0
/-- The form has a literal (LEN 2, 3; R228). -/
def Form.hasLit (f : Form) : Bool := f.len.getLsbD 1
/-- TYPE, MOD[3:0] (R235). -/
def Form.ty (f : Form) : BitVec 4 := f.md.extractLsb' 0 4
/-- RND, MOD[5:4] (R235). -/
def Form.rnd (f : Form) : BitVec 2 := f.md.extractLsb' 4 2
/-- MOD[5:4] as a bare field. -/
def Form.m54 (f : Form) : BitVec 2 := f.md.extractLsb' 4 2
/-- SAT, MOD[6] (R235). -/
def Form.sat (f : Form) : Bool := f.md.getLsbD 6
/-- MOD[6:4], the condition or operation of the entries that redefine it. -/
def Form.m64 (f : Form) : BitVec 3 := f.md.extractLsb' 4 3
/-- MOD[10:7]. -/
def Form.m107 (f : Form) : BitVec 4 := f.md.extractLsb' 7 4
/-- SCOPE, MOD[9:7] (R192). -/
def Form.scope (f : Form) : BitVec 3 := f.md.extractLsb' 7 3
/-- DIR, MOD[10] (R190). -/
def Form.dir (f : Form) : Bool := f.md.getLsbD 10
/-- The source type of a conversion, AUX[3:0] (R291, R297, R300). -/
def Form.srcTy (f : Form) : BitVec 4 := f.aux.extractLsb' 0 4
/-- MOD bits from n up are zero. -/
abbrev Form.hiZero (f : Form) (n : Nat) : Prop := f.md.toNat < 2 ^ n
/-- The operation of RELABEL, AUX[7:6] (R352). -/
def Form.relabelOp (f : Form) : BitVec 2 := f.aux.extractLsb' 6 2

/-- Registers a type code takes (R276): a pair for s64 and u64. -/
def wTy (t : BitVec 4) : Nat := if t = 2 ∨ t = 3 then 2 else 1
/-- Registers the TYPE of the form takes. -/
def Form.w64 (f : Form) : Nat := wTy f.ty
/-- Registers of a memory access of majors 0x30, 0x31 by its width (R235, R311). -/
def Form.memW (f : Form) : Nat := if f.ty = 5 then 2 else if f.ty = 6 then 4 else 1
/-- Width in bytes of a memory access of majors 0x30, 0x31 (R235). -/
def Form.memBytes (f : Form) : Nat :=
  if f.ty = 9 ∨ f.ty = 10 ∨ f.ty = 13 then 1
  else if f.ty = 11 ∨ f.ty = 12 ∨ f.ty = 14 then 2
  else if f.ty = 5 then 8 else if f.ty = 6 then 16 else 4

abbrev isIntTy (t : BitVec 4) : Prop := t.toNat < 4 ∨ (9 ≤ t.toNat ∧ t.toNat ≤ 12)
abbrev isFloatTy (t : BitVec 4) : Prop := 4 ≤ t.toNat ∧ t.toNat ≤ 8
abbrev tyIn (f : Form) (l : List Nat) : Prop := f.ty.toNat ∈ l

/-! ### How an entry uses its fields -/

/-- The use of a register field: unused (must be zero), a value register of w words (`kc`: the field's uniform flag is
allowed), a fixed uniform register of w words, a pair that must be flagged uniform (RNG), or a number below a limit. -/
inductive Use where
  | zero
  | val (w : Nat) (kc : Bool)
  | knum (w : Nat)
  | kval (w : Nat)
  | num (limit : Nat)
  deriving DecidableEq, Repr

/-- The use of LIT: none, a 32-bit source (R237), any 64 bits, or a code address (R238). -/
inductive LitUse where
  | none | w32 | any | addr48
  deriving DecidableEq, Repr

/-- What an entry gives for the fields of its instruction. -/
structure Spec where
  lens : List Nat
  dst : Use
  sa : Use
  sb : Use
  sc : Use
  aux : Bool
  md : Bool
  lit : LitUse
  extra : Bool
  deriving DecidableEq, Repr

/-- The register number and flag meet the field's use, beyond what the frame decides (R231, R232, R46). -/
def Use.ok (u : Use) (n : BitVec 8) (k : Bool) : Bool :=
  match u with
  | .zero => n = 0 && !k
  | .val w kc => if k then kc && decide (n.toNat + w ≤ 64) else true
  | .knum w => !k && decide (n.toNat + w ≤ 64)
  | .kval w => k && decide (n.toNat + w ≤ 64)
  | .num l => !k && decide (n.toNat < l)

def LitUse.ok (u : LitUse) (l : BitVec 64) : Bool :=
  match u with
  | .none => false
  | .any => true
  | .w32 => l.extractLsb' 32 32 = 0#32 || (l.extractLsb' 32 32 = 0xFFFFFFFF#32 && l.getLsbD 31)
  | .addr48 => l.extractLsb' 48 16 = 0#16 && l.extractLsb' 0 2 = 0#2

/-- The field is a source that is read, in a lane or uniform, so HOLD may name it (R58, R232). -/
def Use.isVal (u : Use) : Bool :=
  match u with
  | .val _ _ => true
  | .knum _ => true
  | .kval _ => true
  | _ => false

/-- Third source: SC in extended forms, DST in the others (R234). -/
def Form.c (f : Form) : BitVec 8 := if f.ext then f.sc else f.dst

/-- Every static check of R242 steps 3 and 4 holds. With a literal, SB must be zero and LIT takes its place (R237). -/
def Spec.ok (sp : Spec) (f : Form) : Bool :=
  sp.lens.contains f.len.toNat &&
  sp.dst.ok f.dst f.dk &&
  sp.sa.ok f.sa f.kca &&
  (if f.hasLit then Use.zero.ok f.sb f.kcb && sp.lit.ok f.lit else sp.sb.ok f.sb f.kcb) &&
  (if f.ext then sp.sc.ok f.sc f.kcc else true) &&
  sp.aux &&
  sp.md &&
  !(f.gp = 7 && f.gn) &&
  (f.hold = 0 || (f.hold = 1 && sp.sa.isVal) || (f.hold = 2 && (sp.sb.isVal || (f.hasLit && sp.lit != .addr48))) ||
    (f.hold = 3 && sp.sc.isVal)) &&
  sp.extra

/-- The fields that the form's words do not hold are zero (R230: a base form reads them as if W1 were zero). -/
def Form.canon (f : Form) : Bool :=
  (f.ext || (decide (f.dst.toNat < 64) && decide (f.sa.toNat < 64) && decide (f.sb.toNat < 64) && f.sc = 0 && !f.kca && !f.kcb &&
    !f.kcc && !f.dk && f.hold = 0 && !f.gn && f.aux = 0)) &&
  (f.hasLit || f.lit = 0)

/-! ### The shapes of R239 -/

/-- Shape X with no field used; an entry names its own. -/
def shX (f : Form) : Spec :=
  { lens := [], dst := .zero, sa := .zero, sb := .zero, sc := .zero, aux := f.aux = 0, md := f.md = 0, lit := .none,
    extra := true }
def shZ (f : Form) : Spec := { shX f with lens := [0, 1] }
/-- Shape U, a destination of wd registers and a source of wa. -/
def shU (wd wa : Nat) (f : Form) (md : Bool) : Spec :=
  { shX f with lens := [0, 1], dst := .val wd true, sa := .val wa true, md := md }
/-- Shape B: the destination and first source take w registers, the second source wb. -/
def shB (w wb : Nat) (f : Form) (md : Bool) : Spec :=
  { shX f with lens := [0, 1, 2, 3], dst := .val w true, sa := .val w true, sb := .val wb true, md := md, lit := if wb = 2 then .any else .w32 }
/-- Shape T: shape B with a third source. -/
def shT (w wb : Nat) (f : Form) (md : Bool) : Spec := { shB w wb f md with sc := .val w true }
/-- Shape L: a destination of the access width, an address of wa registers. -/
def shL (wa : Nat) (f : Form) (md : Bool) : Spec :=
  { shX f with lens := [0, 1], dst := .val f.memW false, sa := .val wa true, aux := true, md := md }
/-- Shape S: data of the access width in SB or LIT; b128 has no literal (R311). -/
def shS (wa : Nat) (f : Form) (md : Bool) : Spec :=
  { shX f with lens := [0, 1, 2, 3], sa := .val wa true, sb := .val f.memW true, aux := true, md := md, lit := if f.ty = 6 then .none else if f.ty = 5 then .any else .w32 }
/-- Shape A (R322). -/
def shA (wa : Nat) (f : Form) (md : Bool) : Spec :=
  { shX f with lens := [1, 3], dst := .val f.w64 false, sa := .val wa true, sb := .val f.w64 true, aux := true, md := md && !f.dir && f.scope.toNat < 6, lit := if f.w64 = 2 then .any else .w32 }
/-- The conversions of shape U with LEN 1 (R297, R300): the source type stands in AUX[3:0]. -/
def shCvt (wd wa : Nat) (f : Form) (md : Bool) : Spec :=
  { shX f with lens := [1], dst := .val wd true, sa := .val wa true, aux := f.aux.toNat < 16, md := md }
/-- BRA (R238). -/
def braSpec (f : Form) : Spec :=
  if f.len = 0 then { shX f with lens := [0], dst := .num 64, sa := .num 64, sb := .num 64 }
  else if f.len = 1 then { shX f with lens := [1], aux := true }
  else { shX f with lens := [2, 3], lit := .addr48 }
/-- IPF, IPIN, IUNPIN (R262). -/
def shIpf (f : Form) : Spec :=
  { shX f with lens := [0, 1], sa := .val 2 true, aux := f.aux.toNat ≤ 1048576 }

/-! ### Modifier and AUX conditions of the entries -/

/-- TYPE 0 to 3, no RND, SAT as the entry allows (R277, R280). -/
def intMd (f : Form) (sat : Bool) : Bool := f.ty.toNat < 4 && f.m54 = 0 && f.m107 = 0 && (sat || !f.sat)
/-- TYPE 4 to 6 with RND (R292). -/
def floatMd (f : Form) : Bool := 4 ≤ f.ty.toNat && f.ty.toNat ≤ 6 && f.m107 = 0 && !f.sat
/-- TYPE of a memory access, DIR where allowed (R235, R312). -/
def memMd (f : Form) (dir : Bool) : Bool :=
  (f.ty.toNat ∈ [0, 1, 15, 9, 10, 13, 11, 12, 14, 5, 6]) && f.m64 = 0 && f.scope = 0 && (dir || !f.dir)
/-- SCOPE alone (R345). -/
def scopeMd (f : Form) : Bool := f.md &&& 0x47F = 0 && f.scope.toNat < 6
/-- MOD of MMA and MMAS (R342). -/
def mmaMd (f : Form) : Bool := f.md.toNat < 32 && (f.md &&& 7).toNat < 6 && f.md.toNat / 8 < 3
/-- AUX holds a uniform base below the limit whose w registers stay below k64 (R240). -/
def kBase (f : Form) (limit w : Nat) : Bool := f.aux.toNat < limit && f.aux.toNat % 64 + w ≤ 64
/-- AUX of FRD and FWR (R273). -/
def frameAux (f : Form) : Bool := f.aux &&& 0xFFFF00C0 = 0
/-- AUX of PACK (R302). -/
def packAux (f : Form) : Bool :=
  f.aux.toNat < 32 && 5 ≤ f.srcTy.toNat && f.srcTy.toNat ≤ 14 &&
    (f.aux.toNat < 16 || f.srcTy = 9 || f.srcTy = 10 || f.srcTy = 13)
/-- Width in bits of an element of UNPACK's source (R303). -/
def unpackWs (f : Form) : Nat := if f.aux.getLsbD 4 then 4 else if f.srcTy = 9 ∨ f.srcTy = 10 then 8 else 16
/-- Width in bits of an integer type code. -/
def intTyBits (t : BitVec 4) : Nat :=
  if t = 9 ∨ t = 10 then 8 else if t = 11 ∨ t = 12 then 16 else if t = 2 ∨ t = 3 then 64 else 32
/-- An integer type code is signed (R235). -/
def intTySigned (t : BitVec 4) : Bool := t = 0 || t = 2 || t = 9 || t = 11
/-- Registers UNPACK writes (R303). -/
def unpackN (f : Form) : Nat := 32 / unpackWs f * intTyBits f.ty / 32
def unpackOk (f : Form) : Bool :=
  9 ≤ f.srcTy.toNat && f.srcTy.toNat ≤ 12 && (!f.aux.getLsbD 4 || f.srcTy = 9 || f.srcTy = 10) &&
    (f.ty.toNat < 2 || (9 ≤ f.ty.toNat && f.ty.toNat ≤ 12)) && unpackWs f < intTyBits f.ty &&
    intTySigned f.ty = intTySigned f.srcTy
/-- Registers QCVT reads and writes, and the pairs of types it takes (R300). -/
def qcvtSrc (f : Form) : Nat := if f.srcTy = 4 then 4 else if f.srcTy = 5 ∨ f.srcTy = 6 then 2 else 1
def qcvtDst (f : Form) : Nat := if f.ty = 4 then 4 else if f.ty = 5 ∨ f.ty = 6 then 2 else 1
def qcvtOk (f : Form) : Bool :=
  ((4 ≤ f.srcTy.toNat && f.srcTy.toNat ≤ 6) && (f.ty = 7 || f.ty = 8)) ||
    ((f.srcTy = 7 || f.srcTy = 8) && (4 ≤ f.ty.toNat && f.ty.toNat ≤ 6)) ||
    (f.srcTy = 7 && f.ty = 8) || (f.srcTy = 8 && f.ty = 7)
/-- SB of BTEST: barrier in [3:0], or gang barrier in [1:0] with [3:2] zero (R267). -/
def btestSb (f : Form) : Bool := !f.sb.getLsbD 4 || (!f.sb.getLsbD 3 && !f.sb.getLsbD 2)

/-- Base MOD of a major (R241). -/
def baseMdOf (mj : Nat) : BitVec 11 :=
  if mj = 0x18 ∨ mj = 0x19 ∨ mj = 0x1A then 4 else if mj = 0x30 ∨ mj = 0x31 then 0xF else 0

/-- What the spec gives each instruction for its fields (R239, R240, and the entries of the chapters); happenings have no word. -/
def Instr.spec : Instr → Option Spec
  | .nop f => some (shZ f)
  | .exit f => some (shZ f)
  | .yield f => some (shZ f)
  | .sleep f => some ({ shX f with lens := [0], sa := .num 64, sb := .num 64 })
  | .nopre f => some (shZ f)
  | .preok f => some (shZ f)
  | .bra f => some (braSpec f)
  | .bri f => some ({ shX f with lens := [0, 1], sa := .val 2 true })
  | .call f => some ({ shX f with lens := [3], dst := .num 256, sa := .num 256, aux := f.aux.toNat < 8192, lit := .addr48 })
  | .calli f => some ({ shX f with lens := [1], dst := .num 256, sa := .num 256, sb := .val 2 true, aux := f.aux.toNat < 8192, extra := f.hold = 0 })
  | .ret f => some ({ shX f with lens := [0] })
  | .unwind f => some ({ shX f with lens := [0], sa := .num 64 })
  | .trap f => some ({ shX f with lens := [0], sa := .num 64, sb := .num 64 })
  | .eret f => some ({ shX f with lens := [0], extra := f.gp = 7 })
  | .mfs f => some (if f.ext then { shX f with lens := [0, 1], dst := .val 1 true, aux := f.aux.toNat < 1024 }
    else { shX f with lens := [0, 1], dst := .val 1 true, sa := .num 16, sb := .num 64 })
  | .mts f => some (if f.ext then { shX f with lens := [0, 1], sa := .val 1 true, aux := f.aux.toNat < 1024 }
    else { shX f with lens := [0, 1], sa := .val 1 true, dst := .num 16, sb := .num 64 })
  | .launch f => some ({ shX f with lens := [1], dst := .val 1 true, sa := .val 2 true, aux := f.aux.toNat < 128 })
  | .waitw f => some ({ shX f with lens := [1], sa := .val 2 true, sb := .val (if f.ty.toNat < 2 then 1 else 2) true, aux := true, md := f.ty.toNat < 4 ∧ f.m64.toNat < 7 ∧ f.m107 = 0 })
  | .ipf f => some (shIpf f)
  | .ipin f => some (shIpf f)
  | .iunpin f => some (shIpf f)
  | .fencei f => some (shZ f)
  | .bar f => some ({ shX f with lens := [0], sa := .num 16, sb := .num 64 })
  | .gbar f => some ({ shX f with lens := [0], sa := .num 4 })
  | .btest f => some ({ shX f with lens := [0, 1], dst := .num 8, sa := .val 1 true, sb := .num 32, md := f.md.toNat < 2, extra := btestSb f })
  | .phase f => some ({ shX f with lens := [0, 1], md := f.md = 0 ∨ f.md = 0x280 })
  | .wait f => some (if f.ext then { shX f with lens := [0, 1], aux := f.aux.toNat < 2 ^ 24 }
    else { shX f with lens := [0, 1], dst := .num 64, sa := .num 64, sb := .num 64 })
  | .waitt f => some ({ shX f with lens := [0], sa := .num 4, dst := .num 4, sb := .num 64 })
  | .sdrain f => some (shZ f)
  | .frd f => some ({ shX f with lens := [1], dst := .val 1 true, sb := .val 1 true, aux := frameAux f })
  | .fwr f => some ({ shX f with lens := [1], sa := .val 1 true, sb := .val 1 true, aux := frameAux f })
  | .finfo f => some ({ shX f with lens := [0], dst := .val 1 true })
  | .iadd f => some (shB f.w64 f.w64 f (intMd f true))
  | .isub f => some (shB f.w64 f.w64 f (intMd f true))
  | .imin f => some (shB f.w64 f.w64 f (intMd f false))
  | .imax f => some (shB f.w64 f.w64 f (intMd f false))
  | .iabs f => some (shU f.w64 f.w64 f (tyIn f [0, 2] ∧ f.m54 = 0 ∧ f.m107 = 0))
  | .ineg f => some (shU f.w64 f.w64 f (tyIn f [0, 2] ∧ f.m54 = 0 ∧ f.m107 = 0))
  | .isad f => some (shT f.w64 f.w64 f (intMd f true))
  | .imul f => some (shB f.w64 f.w64 f (intMd f true))
  | .imulh f => some (shB f.w64 f.w64 f (intMd f false))
  | .imad f => some (shT f.w64 f.w64 f (intMd f true))
  | .idiv f => some (shB f.w64 f.w64 f (intMd f true))
  | .irem f => some (shB f.w64 f.w64 f (intMd f false))
  | .imulw f => some ({ shB 1 1 f (tyIn f [0, 1] ∧ f.hiZero 4) with dst := .val 2 true })
  | .and f => some (shB f.w64 f.w64 f (tyIn f [0, 1, 2, 3, 15] ∧ f.hiZero 4))
  | .or f => some (shB f.w64 f.w64 f (tyIn f [0, 1, 2, 3, 15] ∧ f.hiZero 4))
  | .xor f => some (shB f.w64 f.w64 f (tyIn f [0, 1, 2, 3, 15] ∧ f.hiZero 4))
  | .andn f => some (shB f.w64 f.w64 f (tyIn f [0, 1, 2, 3, 15] ∧ f.hiZero 4))
  | .not f => some (shU f.w64 f.w64 f (tyIn f [0, 1, 2, 3, 15] ∧ f.hiZero 4))
  | .blut f => some ({ shT 1 1 f (tyIn f [0, 1, 15] ∧ f.hiZero 4) with lens := [1, 3], aux := f.aux.toNat < 256 })
  | .shl f => some (shB f.w64 1 f (tyIn f [0, 1, 2, 3, 15] ∧ f.hiZero 4))
  | .shr f => some (shB f.w64 1 f (tyIn f [0, 1, 2, 3, 15] ∧ f.hiZero 4))
  | .sar f => some (shB f.w64 1 f (tyIn f [0, 1, 2, 3, 15] ∧ f.hiZero 4))
  | .rotl f => some (shB f.w64 1 f (tyIn f [0, 1, 2, 3, 15] ∧ f.hiZero 4))
  | .rotr f => some (shB f.w64 1 f (tyIn f [0, 1, 2, 3, 15] ∧ f.hiZero 4))
  | .fshl f => some (shT 1 1 f (tyIn f [0, 1, 15] ∧ f.hiZero 4))
  | .fshr f => some (shT 1 1 f (tyIn f [0, 1, 15] ∧ f.hiZero 4))
  | .clz f => some ({ shU 1 f.w64 f (tyIn f [0, 1, 2, 3, 15] ∧ f.hiZero 4) with dst := .val 1 true })
  | .ctz f => some ({ shU 1 f.w64 f (tyIn f [0, 1, 2, 3, 15] ∧ f.hiZero 4) with dst := .val 1 true })
  | .popc f => some ({ shU 1 f.w64 f (tyIn f [0, 1, 2, 3, 15] ∧ f.hiZero 4) with dst := .val 1 true })
  | .brev f => some (shU f.w64 f.w64 f (tyIn f [0, 1, 2, 3, 15] ∧ f.hiZero 4))
  | .bfe f => some (shB 1 1 f (tyIn f [0, 1] ∧ f.hiZero 4))
  | .bfi f => some (shT 1 1 f (tyIn f [0, 1, 15] ∧ f.hiZero 4))
  | .bswz f => some (shB 1 1 f (f.md = 0))
  | .icmp f => some ({ shB f.w64 f.w64 f (tyIn f [0, 1, 2, 3] ∧ f.m64.toNat < 6 ∧ f.m107 = 0) with dst := .num 8 })
  | .isel f => some (shB f.w64 f.w64 f (tyIn f [0, 1, 2, 3] ∧ f.hiZero 4))
  | .pand f => some ({ shX f with lens := [0, 1], dst := .num 8, sa := .num 8, sb := .num 8 })
  | .por f => some ({ shX f with lens := [0, 1], dst := .num 8, sa := .num 8, sb := .num 8 })
  | .pxor f => some ({ shX f with lens := [0, 1], dst := .num 8, sa := .num 8, sb := .num 8 })
  | .pnot f => some ({ shX f with lens := [0, 1], dst := .num 8, sa := .num 8 })
  | .pmov f => some ({ shX f with lens := [0, 1], dst := .num 8, sa := .num 8 })
  | .pchk f => some ({ shX f with lens := [0, 1], dst := .num 8, sa := .val 1 true })
  | .mov f => some (shU f.w64 f.w64 f (tyIn f [0, 1, 15, 2, 3] ∧ f.hiZero 4))
  | .movi f => some (if f.hasLit then { shX f with lens := [0, 1, 2], dst := .val 2 true, lit := .any }
    else if f.ext then { shX f with lens := [0, 1, 2], dst := .val 1 true, aux := true }
    else { shX f with lens := [0, 1, 2], dst := .val 1 true, sa := .num 64, sb := .num 64 })
  | .movk f => some (if f.hasLit then { shX f with lens := [0, 2], dst := .num 64, lit := .w32 }
    else { shX f with lens := [0, 2], dst := .num 64, sa := .val 1 true })
  | .lea f => some ({ shX f with lens := [0, 1], dst := .val 2 true, sa := .val 2 true, sb := .val 1 true, aux := f.aux.toNat < 8, md := f.md.toNat < 2 })
  | .cvti f => some ({ shX f with lens := [1], dst := .val f.w64 true, sa := .val (wTy f.srcTy) true, aux := f.aux.toNat < 16 ∧ isIntTy f.srcTy, md := isIntTy f.ty ∧ f.hiZero 4 })
  | .gpc f => some ({ shX f with lens := [0], dst := .val 2 true })
  | .fadd f => some (shB 1 1 f (floatMd f))
  | .fsub f => some (shB 1 1 f (floatMd f))
  | .fmul f => some (shB 1 1 f (floatMd f))
  | .ffma f => some (shT 1 1 f (floatMd f))
  | .fmin f => some (shB 1 1 f (floatMd f ∧ f.rnd = 0))
  | .fmax f => some (shB 1 1 f (floatMd f ∧ f.rnd = 0))
  | .fcmp f => some ({ shB 1 1 f (tyIn f [4, 5, 6] ∧ f.m64.toNat < 6 ∧ f.m107 = 0) with dst := .num 8 })
  | .fsel f => some (shB 1 1 f (f.md = 4))
  | .frcp f => some (shU 1 1 f (floatMd f ∧ f.rnd = 0))
  | .frsq f => some (shU 1 1 f (floatMd f ∧ f.rnd = 0))
  | .fsqrt f => some (shU 1 1 f (floatMd f))
  | .fexp2 f => some (shU 1 1 f (floatMd f ∧ f.rnd = 0))
  | .flog2 f => some (shU 1 1 f (floatMd f ∧ f.rnd = 0))
  | .fsin f => some (shU 1 1 f (floatMd f ∧ f.rnd = 0))
  | .fcos f => some (shU 1 1 f (floatMd f ∧ f.rnd = 0))
  | .ftanh f => some (shU 1 1 f (floatMd f ∧ f.rnd = 0))
  | .cvtf f => some (shCvt 1 1 f (isFloatTy f.srcTy ∧ isFloatTy f.ty ∧ f.ty ≠ f.srcTy ∧ f.m107 = 0 ∧ (f.sat → f.ty = 7 ∨ f.ty = 8)))
  | .cvtfi f => some (shCvt f.w64 1 f (isFloatTy f.srcTy ∧ isIntTy f.ty ∧ f.m107 = 0 ∧ ¬ f.sat))
  | .cvtif f => some (shCvt 1 (wTy f.srcTy) f (isIntTy f.srcTy ∧ isFloatTy f.ty ∧ f.m107 = 0 ∧ ¬ f.sat))
  | .frnd f => some (shU 1 1 f (floatMd f))
  | .fclass f => some (shU 1 1 f (tyIn f [4, 5, 6, 7, 8] ∧ f.hiZero 4))
  | .fdiv f => some (shB 1 1 f (floatMd f))
  | .hpadd f => some (shB 1 1 f (f.md &&& 0x7CF = 0))
  | .hpmul f => some (shB 1 1 f (f.md &&& 0x7CF = 0))
  | .hpfma f => some (shT 1 1 f (f.md &&& 0x7CF = 0))
  | .bpadd f => some (shB 1 1 f (f.md &&& 0x7CF = 0))
  | .bpmul f => some (shB 1 1 f (f.md &&& 0x7CF = 0))
  | .bpfma f => some (shT 1 1 f (f.md &&& 0x7CF = 0))
  | .hpmin f => some (shB 1 1 f (f.md = 0))
  | .hpmax f => some (shB 1 1 f (f.md = 0))
  | .qadd4 f => some (shB 1 1 f (f.md = 0 ∨ f.md = 0x40))
  | .qmul4 f => some (shB 1 1 f (f.md = 0 ∨ f.md = 0x40))
  | .qcvt f => some (shCvt (qcvtDst f) (qcvtSrc f) f (qcvtOk f ∧ f.m107 = 0 ∧ (f.sat → f.ty = 7)))
  | .dot4 f => some (shT 1 1 f (f.md &&& 0x7BC = 0))
  | .dot8 f => some (shT 1 1 f (f.md &&& 0x7BC = 0))
  | .pack f => some ({ shB 1 1 f (f.md = 0) with lens := [1, 3], aux := packAux f })
  | .unpack f => some ({ shX f with lens := [1], dst := .val (unpackN f) true, sa := .val 1 true, aux := f.aux.toNat < 32, md := unpackOk f ∧ f.hiZero 4 })
  | .lget f => some (shB f.w64 1 f (tyIn f [0, 1, 15, 2, 3] ∧ f.hiZero 4))
  | .lrot f => some (shB f.w64 1 f (tyIn f [0, 1, 15, 2, 3] ∧ f.hiZero 4))
  | .lslide f => some (shB f.w64 1 f (tyIn f [0, 1, 15, 2, 3] ∧ f.hiZero 4))
  | .lswap f => some (shB f.w64 1 f (tyIn f [0, 1, 15, 2, 3] ∧ f.hiZero 4))
  | .lmask f => some ({ shX f with lens := [0, 1], dst := .val 1 true, sa := .num 8 })
  | .quorum f => some ({ shX f with lens := [0, 1], dst := .num 8, sa := .num 8, md := f.md.toNat < 4 })
  | .lcomb f => some (shU 1 1 f (tyIn f [0, 1] ∧ f.m64.toNat < 6 ∧ f.m107 = 0))
  | .ldup f => some ({ shX f with lens := [0, 1], dst := .num 8, sa := .val f.w64 true, md := tyIn f [0, 1, 15, 2, 3] ∧ f.m64.toNat < 2 ∧ f.m107 = 0 })
  | .ld f => some (shL 2 f (memMd f true))
  | .ldb f => some ({ shX f with lens := [1], dst := .val f.memW false, sa := .knum 4, sb := .val 1 true, aux := true, md := memMd f true })
  | .lds f => some (shL 1 f (memMd f false))
  | .ldr f => some (shL 1 f (memMd f false))
  | .ldk f => some ({ shL 2 f (memMd f true) with dst := .knum f.memW })
  | .st f => some (shS 2 f (memMd f true))
  | .stb f => some ({ shX f with lens := [1], sa := .knum 4, sb := .val 1 true, sc := .val f.memW true, aux := true, md := memMd f true })
  | .sts f => some (shS 1 f (memMd f false))
  | .str f => some (shS 1 f (memMd f false))
  | .atom f => some (shA 2 f (tyIn f [0, 1, 2, 3] ∧ f.m64.toNat < 7))
  | .acas f => some ({ shA 2 f (tyIn f [0, 1, 2, 3] ∧ f.m64 = 0) with sc := .val f.w64 true })
  | .afadd f => some (shA 2 f (tyIn f [4, 5, 6] ∧ f.m64 = 0))
  | .atoms f => some (shA 1 f (tyIn f [0, 1, 2, 3] ∧ f.m64.toNat < 7 ∧ f.scope = 0))
  | .acass f => some ({ shA 1 f (tyIn f [0, 1, 2, 3] ∧ f.m64 = 0 ∧ f.scope = 0) with sc := .val f.w64 true })
  | .red f => some ({ shA 2 f (tyIn f [0, 1, 2, 3] ∧ f.m64.toNat < 7) with dst := .zero })
  | .cpa f => some ({ shX f with lens := [1], dst := .val 1 false, sa := .val 2 true, sb := .val 1 true, md := f.md.toNat < 4 })
  | .rgnset f => some ({ shX f with lens := [1], sa := .val 2 true, aux := f.aux.toNat < 32 })
  | .rgnclr f => some ({ shX f with lens := [1], aux := f.aux.toNat < 32 })
  | .rgnfl f => some ({ shX f with lens := [1], aux := f.aux.toNat < 32 })
  | .chkw f => some ({ shX f with lens := [1], sb := .val 1 true, aux := f.aux.toNat < 512 })
  | .chkt f => some ({ shX f with lens := [1], dst := .num 8, sb := .val 1 true, aux := f.aux.toNat < 512 })
  | .tset f => some ({ shX f with lens := [1], sa := .val 2 true, sb := .val 1 true, aux := true })
  | .tget f => some ({ shX f with lens := [1], dst := .val 1 false, sa := .val 2 true, aux := true })
  | .pbar f => some (shZ f)
  | .tcfg f => some (if f.hasLit then { shX f with lens := [0, 1, 2], dst := .num 16, lit := .w32 }
    else { shX f with lens := [0, 1, 2], dst := .num 16, sa := .val 1 true })
  | .tld f => some ({ shX f with lens := [1], dst := .num 16, sa := .val (if f.md = 1 then 1 else 2) true, sb := .val 1 true, aux := true, md := f.md.toNat < 2 })
  | .tst f => some ({ shX f with lens := [1], sc := .num 16, sa := .val (if f.md = 1 then 1 else 2) true, sb := .val 1 true, aux := true, md := f.md.toNat < 2 })
  | .tzero f => some ({ shX f with lens := [0], dst := .num 16 })
  | .mma f => some ({ shX f with lens := [0, 1], dst := .num 16, sa := .num 16, sb := .num 16, md := mmaMd f })
  | .mmas f => some ({ shX f with lens := [1], dst := .num 16, sa := .val 1 false, sb := .val 1 false, aux := f.aux.toNat < 4096, md := mmaMd f })
  | .mtrn f => some ({ shX f with lens := [0, 1], dst := .num 16, sa := .num 16, sb := .num 16, md := f.md &&& 0x7BE = 0 })
  | .tmov f => some (if f.md = 1 then { shX f with lens := [1], dst := .num 16, sa := .val 1 true, aux := f.aux.toNat < 65536, md := true }
    else { shX f with lens := [1], dst := .val 1 true, sa := .num 16, aux := f.aux.toNat < 65536 })
  | .unite f => some ({ shX f with lens := [1], dst := .num 8, sa := .val 1 true, sb := .val 1 true, aux := kBase f 64 4, md := scopeMd f })
  | .find f => some ({ shX f with lens := [1], dst := .val 1 true, sa := .val 1 true, aux := kBase f 64 4, md := scopeMd f })
  | .dsize f => some ({ shX f with lens := [1], dst := .val 1 true, sa := .val 1 true, aux := kBase f 64 4, md := scopeMd f })
  | .relabel f => some ({ shX f with lens := [1], sa := if f.relabelOp = 3 then .zero else .val 2 true, sb := .val 2 true, sc := if f.aux.getLsbD 8 then .val 2 true else .zero, aux := kBase f 512 4, md := f.md.toNat < 2 })
  | .dsnap f => some ({ shX f with lens := [1], dst := .val 2 true, aux := kBase f 64 4, md := scopeMd f })
  | .dundo f => some ({ shX f with lens := [1], sa := .val 2 true, aux := kBase f 64 4, md := scopeMd f })
  | .dinit f => some ({ shX f with lens := [1], sa := .val 1 true, sb := .val 1 true, aux := kBase f 64 4, md := scopeMd f })
  | .trial f => some ({ shX f with lens := [1], dst := .val 2 true, aux := kBase f 64 4 })
  | .tret f => some ({ shX f with lens := [0], sa := .val 1 true })
  | .xld f => some ({ shX f with lens := [0], dst := .val 1 true, sa := .val 1 true })
  | .sigins f => some ({ shX f with lens := [1], dst := .num 8, sa := .val 2 true, aux := kBase f 64 (if f.scope = 3 then 3 else 1), md := f.md &&& 0x47E = 0 ∧ (f.scope = 0 ∨ f.scope = 3) })
  | .sigclr f => some ({ shX f with lens := [1], aux := kBase f 64 (if f.scope = 3 then 3 else 1), md := f.md = 0 ∨ f.md = 0x180 })
  | .rng f => some ({ shX f with lens := [1], dst := .val 2 false, sa := .val 2 true, sb := .kval 2 })
  | .fold f => some ({ shX f with lens := [0, 1], dst := .val 2 false, sa := .val 1 true, sb := .val 1 true })
  | _ => none

/-- MAJ and MIN of an instruction (R241). -/
def Instr.opcode : Instr → Option (BitVec 6 × BitVec 3)
  | .nop _ => some (0x00, 0)
  | .exit _ => some (0x00, 1)
  | .yield _ => some (0x00, 2)
  | .sleep _ => some (0x00, 3)
  | .nopre _ => some (0x00, 4)
  | .preok _ => some (0x00, 5)
  | .bra _ => some (0x01, 0)
  | .bri _ => some (0x01, 1)
  | .call _ => some (0x01, 2)
  | .calli _ => some (0x01, 3)
  | .ret _ => some (0x01, 4)
  | .unwind _ => some (0x01, 5)
  | .trap _ => some (0x01, 6)
  | .eret _ => some (0x01, 7)
  | .mfs _ => some (0x02, 0)
  | .mts _ => some (0x02, 1)
  | .launch _ => some (0x02, 2)
  | .waitw _ => some (0x02, 3)
  | .ipf _ => some (0x02, 4)
  | .ipin _ => some (0x02, 5)
  | .iunpin _ => some (0x02, 6)
  | .fencei _ => some (0x02, 7)
  | .bar _ => some (0x03, 0)
  | .gbar _ => some (0x03, 1)
  | .btest _ => some (0x03, 2)
  | .phase _ => some (0x03, 3)
  | .wait _ => some (0x03, 4)
  | .waitt _ => some (0x03, 5)
  | .sdrain _ => some (0x03, 6)
  | .frd _ => some (0x04, 0)
  | .fwr _ => some (0x04, 1)
  | .finfo _ => some (0x04, 2)
  | .iadd _ => some (0x08, 0)
  | .isub _ => some (0x08, 1)
  | .imin _ => some (0x08, 2)
  | .imax _ => some (0x08, 3)
  | .iabs _ => some (0x08, 4)
  | .ineg _ => some (0x08, 5)
  | .isad _ => some (0x08, 6)
  | .imul _ => some (0x09, 0)
  | .imulh _ => some (0x09, 1)
  | .imad _ => some (0x09, 2)
  | .idiv _ => some (0x09, 3)
  | .irem _ => some (0x09, 4)
  | .imulw _ => some (0x09, 5)
  | .and _ => some (0x0A, 0)
  | .or _ => some (0x0A, 1)
  | .xor _ => some (0x0A, 2)
  | .andn _ => some (0x0A, 3)
  | .not _ => some (0x0A, 4)
  | .blut _ => some (0x0A, 5)
  | .shl _ => some (0x0B, 0)
  | .shr _ => some (0x0B, 1)
  | .sar _ => some (0x0B, 2)
  | .rotl _ => some (0x0B, 3)
  | .rotr _ => some (0x0B, 4)
  | .fshl _ => some (0x0B, 5)
  | .fshr _ => some (0x0B, 6)
  | .clz _ => some (0x0C, 0)
  | .ctz _ => some (0x0C, 1)
  | .popc _ => some (0x0C, 2)
  | .brev _ => some (0x0C, 3)
  | .bfe _ => some (0x0C, 4)
  | .bfi _ => some (0x0C, 5)
  | .bswz _ => some (0x0C, 6)
  | .icmp _ => some (0x0D, 0)
  | .isel _ => some (0x0D, 1)
  | .pand _ => some (0x0D, 2)
  | .por _ => some (0x0D, 3)
  | .pxor _ => some (0x0D, 4)
  | .pnot _ => some (0x0D, 5)
  | .pmov _ => some (0x0D, 6)
  | .pchk _ => some (0x0D, 7)
  | .mov _ => some (0x0E, 0)
  | .movi _ => some (0x0E, 1)
  | .movk _ => some (0x0E, 2)
  | .lea _ => some (0x0E, 3)
  | .cvti _ => some (0x0E, 4)
  | .gpc _ => some (0x0E, 5)
  | .fadd _ => some (0x18, 0)
  | .fsub _ => some (0x18, 1)
  | .fmul _ => some (0x18, 2)
  | .ffma _ => some (0x18, 3)
  | .fmin _ => some (0x18, 4)
  | .fmax _ => some (0x18, 5)
  | .fcmp _ => some (0x18, 6)
  | .fsel _ => some (0x18, 7)
  | .frcp _ => some (0x19, 0)
  | .frsq _ => some (0x19, 1)
  | .fsqrt _ => some (0x19, 2)
  | .fexp2 _ => some (0x19, 3)
  | .flog2 _ => some (0x19, 4)
  | .fsin _ => some (0x19, 5)
  | .fcos _ => some (0x19, 6)
  | .ftanh _ => some (0x19, 7)
  | .cvtf _ => some (0x1A, 0)
  | .cvtfi _ => some (0x1A, 1)
  | .cvtif _ => some (0x1A, 2)
  | .frnd _ => some (0x1A, 3)
  | .fclass _ => some (0x1A, 4)
  | .fdiv _ => some (0x1A, 5)
  | .hpadd _ => some (0x1B, 0)
  | .hpmul _ => some (0x1B, 1)
  | .hpfma _ => some (0x1B, 2)
  | .bpadd _ => some (0x1B, 3)
  | .bpmul _ => some (0x1B, 4)
  | .bpfma _ => some (0x1B, 5)
  | .hpmin _ => some (0x1B, 6)
  | .hpmax _ => some (0x1B, 7)
  | .qadd4 _ => some (0x24, 0)
  | .qmul4 _ => some (0x24, 1)
  | .qcvt _ => some (0x24, 2)
  | .dot4 _ => some (0x24, 3)
  | .dot8 _ => some (0x24, 4)
  | .pack _ => some (0x24, 5)
  | .unpack _ => some (0x24, 6)
  | .lget _ => some (0x28, 0)
  | .lrot _ => some (0x28, 1)
  | .lslide _ => some (0x28, 2)
  | .lswap _ => some (0x28, 3)
  | .lmask _ => some (0x28, 4)
  | .quorum _ => some (0x28, 5)
  | .lcomb _ => some (0x28, 6)
  | .ldup _ => some (0x28, 7)
  | .ld _ => some (0x30, 0)
  | .ldb _ => some (0x30, 1)
  | .lds _ => some (0x30, 2)
  | .ldr _ => some (0x30, 3)
  | .ldk _ => some (0x30, 4)
  | .st _ => some (0x31, 0)
  | .stb _ => some (0x31, 1)
  | .sts _ => some (0x31, 2)
  | .str _ => some (0x31, 3)
  | .atom _ => some (0x32, 0)
  | .acas _ => some (0x32, 1)
  | .afadd _ => some (0x32, 2)
  | .atoms _ => some (0x32, 3)
  | .acass _ => some (0x32, 4)
  | .red _ => some (0x32, 5)
  | .cpa _ => some (0x33, 0)
  | .rgnset _ => some (0x33, 1)
  | .rgnclr _ => some (0x33, 2)
  | .rgnfl _ => some (0x33, 3)
  | .chkw _ => some (0x33, 4)
  | .chkt _ => some (0x33, 5)
  | .tset _ => some (0x34, 0)
  | .tget _ => some (0x34, 1)
  | .pbar _ => some (0x34, 2)
  | .tcfg _ => some (0x3C, 0)
  | .tld _ => some (0x3C, 1)
  | .tst _ => some (0x3C, 2)
  | .tzero _ => some (0x3C, 3)
  | .mma _ => some (0x3C, 4)
  | .mmas _ => some (0x3C, 5)
  | .mtrn _ => some (0x3C, 6)
  | .tmov _ => some (0x3C, 7)
  | .unite _ => some (0x3D, 0)
  | .find _ => some (0x3D, 1)
  | .dsize _ => some (0x3D, 2)
  | .relabel _ => some (0x3D, 3)
  | .dsnap _ => some (0x3D, 4)
  | .dundo _ => some (0x3D, 5)
  | .dinit _ => some (0x3D, 6)
  | .trial _ => some (0x3E, 0)
  | .tret _ => some (0x3E, 1)
  | .xld _ => some (0x3E, 2)
  | .sigins _ => some (0x3E, 3)
  | .sigclr _ => some (0x3E, 4)
  | .rng _ => some (0x3E, 5)
  | .fold _ => some (0x3E, 6)
  | _ => none

/-- The decoded fields of an instruction. -/
def Instr.form : Instr → Option Form
  | .nop f => some f
  | .exit f => some f
  | .yield f => some f
  | .sleep f => some f
  | .nopre f => some f
  | .preok f => some f
  | .bra f => some f
  | .bri f => some f
  | .call f => some f
  | .calli f => some f
  | .ret f => some f
  | .unwind f => some f
  | .trap f => some f
  | .eret f => some f
  | .mfs f => some f
  | .mts f => some f
  | .launch f => some f
  | .waitw f => some f
  | .ipf f => some f
  | .ipin f => some f
  | .iunpin f => some f
  | .fencei f => some f
  | .bar f => some f
  | .gbar f => some f
  | .btest f => some f
  | .phase f => some f
  | .wait f => some f
  | .waitt f => some f
  | .sdrain f => some f
  | .frd f => some f
  | .fwr f => some f
  | .finfo f => some f
  | .iadd f => some f
  | .isub f => some f
  | .imin f => some f
  | .imax f => some f
  | .iabs f => some f
  | .ineg f => some f
  | .isad f => some f
  | .imul f => some f
  | .imulh f => some f
  | .imad f => some f
  | .idiv f => some f
  | .irem f => some f
  | .imulw f => some f
  | .and f => some f
  | .or f => some f
  | .xor f => some f
  | .andn f => some f
  | .not f => some f
  | .blut f => some f
  | .shl f => some f
  | .shr f => some f
  | .sar f => some f
  | .rotl f => some f
  | .rotr f => some f
  | .fshl f => some f
  | .fshr f => some f
  | .clz f => some f
  | .ctz f => some f
  | .popc f => some f
  | .brev f => some f
  | .bfe f => some f
  | .bfi f => some f
  | .bswz f => some f
  | .icmp f => some f
  | .isel f => some f
  | .pand f => some f
  | .por f => some f
  | .pxor f => some f
  | .pnot f => some f
  | .pmov f => some f
  | .pchk f => some f
  | .mov f => some f
  | .movi f => some f
  | .movk f => some f
  | .lea f => some f
  | .cvti f => some f
  | .gpc f => some f
  | .fadd f => some f
  | .fsub f => some f
  | .fmul f => some f
  | .ffma f => some f
  | .fmin f => some f
  | .fmax f => some f
  | .fcmp f => some f
  | .fsel f => some f
  | .frcp f => some f
  | .frsq f => some f
  | .fsqrt f => some f
  | .fexp2 f => some f
  | .flog2 f => some f
  | .fsin f => some f
  | .fcos f => some f
  | .ftanh f => some f
  | .cvtf f => some f
  | .cvtfi f => some f
  | .cvtif f => some f
  | .frnd f => some f
  | .fclass f => some f
  | .fdiv f => some f
  | .hpadd f => some f
  | .hpmul f => some f
  | .hpfma f => some f
  | .bpadd f => some f
  | .bpmul f => some f
  | .bpfma f => some f
  | .hpmin f => some f
  | .hpmax f => some f
  | .qadd4 f => some f
  | .qmul4 f => some f
  | .qcvt f => some f
  | .dot4 f => some f
  | .dot8 f => some f
  | .pack f => some f
  | .unpack f => some f
  | .lget f => some f
  | .lrot f => some f
  | .lslide f => some f
  | .lswap f => some f
  | .lmask f => some f
  | .quorum f => some f
  | .lcomb f => some f
  | .ldup f => some f
  | .ld f => some f
  | .ldb f => some f
  | .lds f => some f
  | .ldr f => some f
  | .ldk f => some f
  | .st f => some f
  | .stb f => some f
  | .sts f => some f
  | .str f => some f
  | .atom f => some f
  | .acas f => some f
  | .afadd f => some f
  | .atoms f => some f
  | .acass f => some f
  | .red f => some f
  | .cpa f => some f
  | .rgnset f => some f
  | .rgnclr f => some f
  | .rgnfl f => some f
  | .chkw f => some f
  | .chkt f => some f
  | .tset f => some f
  | .tget f => some f
  | .pbar f => some f
  | .tcfg f => some f
  | .tld f => some f
  | .tst f => some f
  | .tzero f => some f
  | .mma f => some f
  | .mmas f => some f
  | .mtrn f => some f
  | .tmov f => some f
  | .unite f => some f
  | .find f => some f
  | .dsize f => some f
  | .relabel f => some f
  | .dsnap f => some f
  | .dundo f => some f
  | .dinit f => some f
  | .trial f => some f
  | .tret f => some f
  | .xld f => some f
  | .sigins f => some f
  | .sigclr f => some f
  | .rng f => some f
  | .fold f => some f
  | _ => none

/-- The instruction a MAJ and a MIN name (R241); an unassigned MAJ or MIN names none. -/
def ofOpcode (mj : Nat) (mn : Nat) (f : Form) : Option Instr :=
  match mj, mn with
  | 0x00, 0 => some (.nop f)
  | 0x00, 1 => some (.exit f)
  | 0x00, 2 => some (.yield f)
  | 0x00, 3 => some (.sleep f)
  | 0x00, 4 => some (.nopre f)
  | 0x00, 5 => some (.preok f)
  | 0x01, 0 => some (.bra f)
  | 0x01, 1 => some (.bri f)
  | 0x01, 2 => some (.call f)
  | 0x01, 3 => some (.calli f)
  | 0x01, 4 => some (.ret f)
  | 0x01, 5 => some (.unwind f)
  | 0x01, 6 => some (.trap f)
  | 0x01, 7 => some (.eret f)
  | 0x02, 0 => some (.mfs f)
  | 0x02, 1 => some (.mts f)
  | 0x02, 2 => some (.launch f)
  | 0x02, 3 => some (.waitw f)
  | 0x02, 4 => some (.ipf f)
  | 0x02, 5 => some (.ipin f)
  | 0x02, 6 => some (.iunpin f)
  | 0x02, 7 => some (.fencei f)
  | 0x03, 0 => some (.bar f)
  | 0x03, 1 => some (.gbar f)
  | 0x03, 2 => some (.btest f)
  | 0x03, 3 => some (.phase f)
  | 0x03, 4 => some (.wait f)
  | 0x03, 5 => some (.waitt f)
  | 0x03, 6 => some (.sdrain f)
  | 0x04, 0 => some (.frd f)
  | 0x04, 1 => some (.fwr f)
  | 0x04, 2 => some (.finfo f)
  | 0x08, 0 => some (.iadd f)
  | 0x08, 1 => some (.isub f)
  | 0x08, 2 => some (.imin f)
  | 0x08, 3 => some (.imax f)
  | 0x08, 4 => some (.iabs f)
  | 0x08, 5 => some (.ineg f)
  | 0x08, 6 => some (.isad f)
  | 0x09, 0 => some (.imul f)
  | 0x09, 1 => some (.imulh f)
  | 0x09, 2 => some (.imad f)
  | 0x09, 3 => some (.idiv f)
  | 0x09, 4 => some (.irem f)
  | 0x09, 5 => some (.imulw f)
  | 0x0A, 0 => some (.and f)
  | 0x0A, 1 => some (.or f)
  | 0x0A, 2 => some (.xor f)
  | 0x0A, 3 => some (.andn f)
  | 0x0A, 4 => some (.not f)
  | 0x0A, 5 => some (.blut f)
  | 0x0B, 0 => some (.shl f)
  | 0x0B, 1 => some (.shr f)
  | 0x0B, 2 => some (.sar f)
  | 0x0B, 3 => some (.rotl f)
  | 0x0B, 4 => some (.rotr f)
  | 0x0B, 5 => some (.fshl f)
  | 0x0B, 6 => some (.fshr f)
  | 0x0C, 0 => some (.clz f)
  | 0x0C, 1 => some (.ctz f)
  | 0x0C, 2 => some (.popc f)
  | 0x0C, 3 => some (.brev f)
  | 0x0C, 4 => some (.bfe f)
  | 0x0C, 5 => some (.bfi f)
  | 0x0C, 6 => some (.bswz f)
  | 0x0D, 0 => some (.icmp f)
  | 0x0D, 1 => some (.isel f)
  | 0x0D, 2 => some (.pand f)
  | 0x0D, 3 => some (.por f)
  | 0x0D, 4 => some (.pxor f)
  | 0x0D, 5 => some (.pnot f)
  | 0x0D, 6 => some (.pmov f)
  | 0x0D, 7 => some (.pchk f)
  | 0x0E, 0 => some (.mov f)
  | 0x0E, 1 => some (.movi f)
  | 0x0E, 2 => some (.movk f)
  | 0x0E, 3 => some (.lea f)
  | 0x0E, 4 => some (.cvti f)
  | 0x0E, 5 => some (.gpc f)
  | 0x18, 0 => some (.fadd f)
  | 0x18, 1 => some (.fsub f)
  | 0x18, 2 => some (.fmul f)
  | 0x18, 3 => some (.ffma f)
  | 0x18, 4 => some (.fmin f)
  | 0x18, 5 => some (.fmax f)
  | 0x18, 6 => some (.fcmp f)
  | 0x18, 7 => some (.fsel f)
  | 0x19, 0 => some (.frcp f)
  | 0x19, 1 => some (.frsq f)
  | 0x19, 2 => some (.fsqrt f)
  | 0x19, 3 => some (.fexp2 f)
  | 0x19, 4 => some (.flog2 f)
  | 0x19, 5 => some (.fsin f)
  | 0x19, 6 => some (.fcos f)
  | 0x19, 7 => some (.ftanh f)
  | 0x1A, 0 => some (.cvtf f)
  | 0x1A, 1 => some (.cvtfi f)
  | 0x1A, 2 => some (.cvtif f)
  | 0x1A, 3 => some (.frnd f)
  | 0x1A, 4 => some (.fclass f)
  | 0x1A, 5 => some (.fdiv f)
  | 0x1B, 0 => some (.hpadd f)
  | 0x1B, 1 => some (.hpmul f)
  | 0x1B, 2 => some (.hpfma f)
  | 0x1B, 3 => some (.bpadd f)
  | 0x1B, 4 => some (.bpmul f)
  | 0x1B, 5 => some (.bpfma f)
  | 0x1B, 6 => some (.hpmin f)
  | 0x1B, 7 => some (.hpmax f)
  | 0x24, 0 => some (.qadd4 f)
  | 0x24, 1 => some (.qmul4 f)
  | 0x24, 2 => some (.qcvt f)
  | 0x24, 3 => some (.dot4 f)
  | 0x24, 4 => some (.dot8 f)
  | 0x24, 5 => some (.pack f)
  | 0x24, 6 => some (.unpack f)
  | 0x28, 0 => some (.lget f)
  | 0x28, 1 => some (.lrot f)
  | 0x28, 2 => some (.lslide f)
  | 0x28, 3 => some (.lswap f)
  | 0x28, 4 => some (.lmask f)
  | 0x28, 5 => some (.quorum f)
  | 0x28, 6 => some (.lcomb f)
  | 0x28, 7 => some (.ldup f)
  | 0x30, 0 => some (.ld f)
  | 0x30, 1 => some (.ldb f)
  | 0x30, 2 => some (.lds f)
  | 0x30, 3 => some (.ldr f)
  | 0x30, 4 => some (.ldk f)
  | 0x31, 0 => some (.st f)
  | 0x31, 1 => some (.stb f)
  | 0x31, 2 => some (.sts f)
  | 0x31, 3 => some (.str f)
  | 0x32, 0 => some (.atom f)
  | 0x32, 1 => some (.acas f)
  | 0x32, 2 => some (.afadd f)
  | 0x32, 3 => some (.atoms f)
  | 0x32, 4 => some (.acass f)
  | 0x32, 5 => some (.red f)
  | 0x33, 0 => some (.cpa f)
  | 0x33, 1 => some (.rgnset f)
  | 0x33, 2 => some (.rgnclr f)
  | 0x33, 3 => some (.rgnfl f)
  | 0x33, 4 => some (.chkw f)
  | 0x33, 5 => some (.chkt f)
  | 0x34, 0 => some (.tset f)
  | 0x34, 1 => some (.tget f)
  | 0x34, 2 => some (.pbar f)
  | 0x3C, 0 => some (.tcfg f)
  | 0x3C, 1 => some (.tld f)
  | 0x3C, 2 => some (.tst f)
  | 0x3C, 3 => some (.tzero f)
  | 0x3C, 4 => some (.mma f)
  | 0x3C, 5 => some (.mmas f)
  | 0x3C, 6 => some (.mtrn f)
  | 0x3C, 7 => some (.tmov f)
  | 0x3D, 0 => some (.unite f)
  | 0x3D, 1 => some (.find f)
  | 0x3D, 2 => some (.dsize f)
  | 0x3D, 3 => some (.relabel f)
  | 0x3D, 4 => some (.dsnap f)
  | 0x3D, 5 => some (.dundo f)
  | 0x3D, 6 => some (.dinit f)
  | 0x3E, 0 => some (.trial f)
  | 0x3E, 1 => some (.tret f)
  | 0x3E, 2 => some (.xld f)
  | 0x3E, 3 => some (.sigins f)
  | 0x3E, 4 => some (.sigclr f)
  | 0x3E, 5 => some (.rng f)
  | 0x3E, 6 => some (.fold f)
  | _, _ => none

/-- A well-formed instruction: every check of R242 steps 3 and 4 that no state decides holds. A happening is
well-formed: it has no word. -/
def Instr.wf (i : Instr) : Bool :=
  match i.spec, i.form with
  | some sp, some f => sp.ok f && f.canon && f.md.toNat == (if f.ext then f.md.toNat else (i.opcode.elim 0 fun o => (baseMdOf o.1.toNat)).toNat)
  | _, _ => true

end Sys2Proof
end

