-- ==== Sys2Proof/Decode.lean ====
section
/-! DEFINITION. Decoding of fetched words (R228 to R242, steps 2 to 4 of R242), the encoder from the same tables, and
the form in which the opcode table gives a word. -/

namespace Sys2Proof

/-- Why words are no instruction, in the order of R242. -/
inductive DecodeErr where
  | unassigned
  | badLength
  | badField
  deriving DecidableEq, Repr

/-- MAJ, MIN and LEN of a first word (R229). -/
def majOf (w0 : BitVec 32) : Nat := (w0.extractLsb' 2 6).toNat
def minOf (w0 : BitVec 32) : Nat := (w0.extractLsb' 8 3).toNat
def lenOf (w0 : BitVec 32) : BitVec 2 := w0.extractLsb' 0 2

/-- Words of an instruction by LEN (R228). -/
def wordsOfLen (l : BitVec 2) : Nat := if l = 0 then 1 else if l = 3 then 5 else 3

/-- Bytes of an instruction (R52). -/
def Form.bytes (f : Form) : Nat := 4 * wordsOfLen f.len

/-- The low word of a source. -/
def WVal.lo (a : WVal) : Word := a.v.extractLsb' 0 32

/-- One bit as a vector, and back. -/
def bit (b : Bool) : BitVec 1 := BitVec.ofBool b

/-- The fields of an extended form (R229, R230). -/
def extForm (w : Words) (lit : BitVec 64) : Form :=
  { len := lenOf w.w0, gp := w.w0.extractLsb' 29 3, gn := w.w1.getLsbD 14,
    dst := w.w1.extractLsb' 0 2 ++ w.w0.extractLsb' 11 6,
    sa := w.w1.extractLsb' 2 2 ++ w.w0.extractLsb' 17 6,
    sb := w.w1.extractLsb' 4 2 ++ w.w0.extractLsb' 23 6,
    sc := w.w1.extractLsb' 6 8, kca := w.w1.getLsbD 15, kcb := w.w1.getLsbD 16, kcc := w.w1.getLsbD 17,
    dk := w.w1.getLsbD 18, hold := w.w1.extractLsb' 19 2, md := w.w1.extractLsb' 21 11, aux := w.w2, lit := lit }

/-- The fields of a form without W1, which reads them as if W1 were zero but for MOD (R230, R235). -/
def baseForm (w : Words) (lit : BitVec 64) : Form :=
  { len := lenOf w.w0, gp := w.w0.extractLsb' 29 3, gn := false,
    dst := 0#2 ++ w.w0.extractLsb' 11 6, sa := 0#2 ++ w.w0.extractLsb' 17 6, sb := 0#2 ++ w.w0.extractLsb' 23 6,
    sc := 0, kca := false, kcb := false, kcc := false, dk := false, hold := 0, md := baseMdOf (majOf w.w0), aux := 0,
    lit := lit }

/-- The fields of fetched words. -/
def formOf (w : Words) : Form :=
  let lit := if (lenOf w.w0).getLsbD 1 then w.l1 ++ w.l0 else 0
  if (lenOf w.w0).getLsbD 0 then extForm w lit else baseForm w lit

/-- Steps 2 to 4 of R242, but for the checks that the frame decides (R46). -/
def decode (w : Words) : Except DecodeErr Instr :=
  match ofOpcode (majOf w.w0) (minOf w.w0) (formOf w) with
  | none => .error .unassigned
  | some i =>
    match i.spec with
    | none => .error .unassigned
    | some sp =>
      if sp.lens.contains (lenOf w.w0).toNat then (if i.wf then .ok i else .error .badField) else .error .badLength

/-- The words of fields under a MAJ and a MIN (R229, R230). -/
def encodeForm (o : BitVec 6 × BitVec 3) (f : Form) : Words :=
  { w0 := f.gp ++ f.sb.extractLsb' 0 6 ++ f.sa.extractLsb' 0 6 ++ f.dst.extractLsb' 0 6 ++ o.2 ++ o.1 ++ f.len,
    w1 := if f.ext then f.md ++ f.hold ++ bit f.dk ++ bit f.kcc ++ bit f.kcb ++ bit f.kca ++ bit f.gn ++ f.sc ++
        f.sb.extractLsb' 6 2 ++ f.sa.extractLsb' 6 2 ++ f.dst.extractLsb' 6 2 else 0,
    w2 := if f.ext then f.aux else 0,
    l0 := if f.hasLit then f.lit.extractLsb' 0 32 else 0,
    l1 := if f.hasLit then f.lit.extractLsb' 32 32 else 0 }

/-- The words of an instruction; a happening has none. -/
def encode (i : Instr) : Option Words :=
  match i.opcode, i.form with
  | some o, some f => some (encodeForm o f)
  | _, _ => none

/-- The words in the order they stand in memory, W0 first, as LEN gives (R228). Words past its length are not read. -/
def Words.ofList (ws : List (BitVec 32)) : Words :=
  let w (n : Nat) : BitVec 32 := ws.getD n 0
  let l := lenOf (w 0)
  if l = 0 then { w0 := w 0, w1 := 0, w2 := 0, l0 := 0, l1 := 0 }
  else if l = 1 then { w0 := w 0, w1 := w 1, w2 := w 2, l0 := 0, l1 := 0 }
  else if l = 2 then { w0 := w 0, w1 := 0, w2 := 0, l0 := w 1, l1 := w 2 }
  else { w0 := w 0, w1 := w 1, w2 := w 2, l0 := w 3, l1 := w 4 }

/-- The words as they stand in memory. -/
def Words.toList (w : Words) : List (BitVec 32) :=
  let l := lenOf w.w0
  if l = 0 then [w.w0] else if l = 1 then [w.w0, w.w1, w.w2] else if l = 2 then [w.w0, w.l0, w.l1]
  else [w.w0, w.w1, w.w2, w.l0, w.l1]

/-- The bytes of a word, lowest address first (R228: little-endian). -/
def wordBytes (w : BitVec 32) : List Byte :=
  [w.extractLsb' 0 8, w.extractLsb' 8 8, w.extractLsb' 16 8, w.extractLsb' 24 8]

/-- The value of bytes, lowest address first. -/
def leNat : List Byte → Nat
  | [] => 0
  | b :: l => b.toNat + 256 * leNat l

/-- The five words that the opcode table's numbering gives, bits above nbits zero. -/
def tableWords (nbits w : Nat) : List (BitVec 32) :=
  let v := w % 2 ^ nbits
  [BitVec.ofNat 32 v, BitVec.ofNat 32 (v / 2 ^ 32), BitVec.ofNat 32 (v / 2 ^ 64), BitVec.ofNat 32 (v / 2 ^ 96),
    BitVec.ofNat 32 (v / 2 ^ 128)]

/-- The instruction the decoder reads from a word as spec/opcode_table.json numbers its bits. -/
def decodeTableWord (nbits w : Nat) : Option Instr :=
  match decode (Words.ofList (tableWords nbits w)) with
  | .ok i => some i
  | .error _ => none

end Sys2Proof
end

