-- ==== Sys2Proof/Machine/Map.lean ====
section
/-! DEFINITION. Operations on the two map forms of the state: sparse maps with a default (`SMap`), and lists by key. -/

namespace Sys2Proof.Machine

/-- The value at a key: the default d where the map lists nothing. -/
def sget {α : Type} (d : α) : SMap α → Nat → α
  | [], _ => d
  | (a, v) :: t, k => if a = k then v else if k < a then d else sget d t k

/-- The map without a key. -/
def serase {α : Type} : SMap α → Nat → SMap α
  | [], _ => []
  | (a, v) :: t, k => if a = k then t else if k < a then (a, v) :: t else (a, v) :: serase t k

/-- The map with a key at a value, keys rising. -/
def sput {α : Type} : SMap α → Nat → α → SMap α
  | [], k, x => [(k, x)]
  | (a, v) :: t, k, x => if a = k then (k, x) :: t else if k < a then (k, x) :: (a, v) :: t else (a, v) :: sput t k x

/-- The map with a key at a value; writing the default removes the entry, so that equal maps are equal data. -/
def sset {α : Type} [DecidableEq α] (d : α) (m : SMap α) (k : Nat) (x : α) : SMap α :=
  if x = d then serase m k else sput m k x

/-- Every key is above a bound, keys rise strictly, and no entry equals the default. -/
def swfFrom {α : Type} [DecidableEq α] (d : α) : Nat → SMap α → Bool
  | _, [] => true
  | lo, (a, v) :: t => decide (lo ≤ a) && decide (v ≠ d) && swfFrom d (a + 1) t

/-- The canonical form of a sparse map. -/
def swf {α : Type} [DecidableEq α] (d : α) (m : SMap α) : Bool := swfFrom d 0 m

/-- The canonical form of memory: addresses strictly rising, no entry equal to 0, which an unlisted address reads as. -/
def Memory.wf (m : SMap Byte) : Bool := swf 0 m

/-- The value listed at a key. -/
def aget {α : Type} : List (Nat × α) → Nat → Option α
  | [], _ => none
  | (a, v) :: t, k => if a = k then some v else aget t k

/-- The list with a key at a value, its place kept, keys in order otherwise. -/
def aput {α : Type} : List (Nat × α) → Nat → α → List (Nat × α)
  | [], k, x => [(k, x)]
  | (a, v) :: t, k, x => if a = k then (k, x) :: t else if k < a then (k, x) :: (a, v) :: t else (a, v) :: aput t k x

/-- The list without a key. -/
def adel {α : Type} : List (Nat × α) → Nat → List (Nat × α)
  | [], _ => []
  | (a, v) :: t, k => if a = k then t else (a, v) :: adel t k

/-- The list with the value at a key changed; unchanged where the key is not listed. -/
def amod {α : Type} (l : List (Nat × α)) (k : Nat) (f : α → α) : List (Nat × α) :=
  match aget l k with
  | some v => aput l k (f v)
  | none => l

/-- The list without the n-th of the elements that a test admits. -/
def dropNth {α : Type} (p : α → Bool) : Nat → List α → List α
  | _, [] => []
  | n, a :: t => if p a then (match n with | 0 => t | k + 1 => a :: dropNth p k t) else a :: dropNth p n t

/-- n bytes of a map from an address. -/
def readBytes (m : SMap Byte) (a : Nat) : Nat → List Byte
  | 0 => []
  | n + 1 => sget 0 m a :: readBytes m (a + 1) n

/-- Bytes written from an address. -/
def writeBytes (m : SMap Byte) (a : Nat) : List Byte → SMap Byte
  | [] => m
  | b :: l => writeBytes (sset 0 m a b) (a + 1) l

/-- n bytes of a value, lowest address first. -/
def natBytes (v : Nat) : Nat → List Byte
  | 0 => []
  | n + 1 => BitVec.ofNat 8 v :: natBytes (v / 256) n

/-- The value of bytes, lowest address first. -/
def bytesNat : List Byte → Nat
  | [] => 0
  | b :: l => b.toNat + 256 * bytesNat l

/-- The lowest numbers below n that a test admits, at most c of them. -/
def firstFree (p : Nat → Bool) (c n : Nat) : List Nat := ((List.range n).filter p).take c

/-- The lowest number below n that a test admits. -/
def lowest (p : Nat → Bool) (n : Nat) : Option Nat := (List.range n).find? p

/-- Bit l of a lane mask. -/
def inMask (m : Word) (l : Nat) : Bool := m.getLsbD l

/-- The mask of lanes that a test admits. -/
def maskOf (p : Nat → Bool) : Word :=
  BitVec.ofNat 32 ((List.range 32).foldl (fun a l => if p l then a + 2 ^ l else a) 0)

/-- The lanes of a mask, in ascending order. -/
def lanesOf (m : Word) : List Nat := (List.range 32).filter (inMask m)

end Sys2Proof.Machine
end

