-- ==== Sys2Proof/Config.lean ====
section
/-! DEFINITION. What the part fixes, and the free values: constants with no body for what the spec leaves open. -/

namespace Sys2Proof.Config

/-- Bits of an approximate function (0 FRCP, 1 FRSQ, 2 FEXP2, 3 FLOG2, 4 FSIN, 5 FCOS, 6 FTANH) of an f32 input
(R218): one value for an input, open within the bounds of R294 outside the exact cases of R295. -/
opaque approx : Nat → BitVec 32 → BitVec 32
/-- A byte, poison bit, memory tag and atomic result read from a remote device (R408): not in this device's state. -/
opaque remoteByte : Nat → Byte
opaque remotePoison : Nat → Bool
opaque remoteTag : Nat → BitVec 4
/-- A read of a remote device that no request stands for goes unanswered (R409, log 73). -/
opaque remoteLate : Nat → Bool
/-- At fuel 0 a trial's candidate ends its example with outcome 1 (R171) before its word is looked at (R355): the rules differ
(log 63). -/
opaque fuelFirst : Bool
/-- Which writes of the Cask queues a power-loss flush that the heat fires makes durable (R121, R412). -/
opaque survive : Nat → Nat
/-- A gang ticket drawn from the hardware random source (R24). -/
opaque ticket : Nat → Word
/-- Word n of the payload of the answer to an SPDM request with a nonce (R411). -/
opaque spdm : Nat → Nat → DWord

/-- Field k of a fault record that names no lane, where the spec states no value (R131, R32); and the entry k of a full TLB or
instruction cache that a new one replaces (log 58). -/
opaque unstated : Nat → Nat → Nat
/-- The bank of an SRAM array that holds a row, where the spec gives the array no banks (R370, log 69). -/
opaque sramBank : Nat → Nat

/-- Granules of the general pool (R72). -/
def poolSize : Nat := 496
/-- Depth of a launch queue (R128). -/
def queueDepth : Nat := 256
/-- Entries of the store queue (R128). -/
def sqDepth : Nat := 32
/-- Entries of the store-fault record queue (R128). -/
def sfDepth : Nat := 8
/-- Lines a core may hold (R109). -/
def heldMax : Nat := 8192
/-- Entries of the range-lock table (R144). -/
def rangeLocks : Nat := 16
/-- Entries of a core's TLB, of a die's, and those of a die's that may hold 8 GiB pages (R101). -/
def l1Tlb : Nat := 384
def l2Tlb : Nat := 16384
def l2Huge : Nat := 2048
/-- Lines of a core's instruction cache (R1). -/
def icLines : Nat := 2048
/-- Page walkers of a die (R102). -/
def walkers : Nat := 64
/-- Entries of a host fault queue (R139). -/
def hfqDepth : Nat := 4096
/-- The no-pre-emption, trial and starvation limit in cycles (R21, R83, R178). -/
def limit64k : Nat := 65536

end Sys2Proof.Config
end

