-- ==== Sys2Proof/Machine/State.lean ====
section
/-! DEFINITION. The state of the CX8 device, as plain data, and its state after reset. Cores that hold no workgroup,
free strand slots, EMPTY regions and empty queues are not listed. -/

namespace Sys2Proof.Machine

/-! ### Why a step can stop -/

/-- What stops a step. No fault of the spec is among them: those are next states. -/
inductive Fault where
  /-- Raised by the meaning of an instruction when `State.cur` names no strand that issues (log 10): an instruction
  acts for a strand. Safe: the step never runs one so. -/
  | noIssuer
  deriving DecidableEq, Repr

/-- What the model refuses. -/
inductive Refusal where
  /-- The arm of an instruction with no meaning yet, by its mnemonic. Safe: nothing follows from it. -/
  | notModelled (mnemonic : String)
  deriving DecidableEq, Repr

/-! ### Small types -/

/-- The causes of R361 that a lane can raise or a record can name. -/
inductive Cause where
  | illegal | priv | misalign | addrForm | pageAbsent | xnFetch | tagLd | tagSt | roSt | boundLd | boundSt | rangeLock
  | gangTicket | phaseFull | poisonUse | pipeErr | frameDepth | nopreExpired | swtrap
  deriving DecidableEq, Repr

/-- The actions of R67. -/
inductive Action where
  | kill | trap | halt
  deriving DecidableEq, Repr

/-- The classes of outstanding-operation counters (R168), and the copy tags (R169). -/
inductive Cls where
  | ld | st | cp | tl
  | tag (t : Nat)
  deriving DecidableEq, Repr

/-- A leaf page-table entry (R98), decoded. -/
structure Pte where
  dev : Nat
  frame : Nat
  size : Nat
  cache : BitVec 2
  rem : Bool
  priv : Bool
  tag : Bool
  nv : Bool
  xn : Bool
  ro : Bool
  deriving DecidableEq, Repr

/-- A run of n bytes at a physical address (or, with REM, in the remote device's space), with its page's entry and the
pointer of its first byte. -/
structure Span where
  ptr : DWord
  pa : Nat
  n : Nat
  e : Pte
  deriving DecidableEq, Repr

/-- What a PARKED lane waits for (R12). -/
inductive Wait where
  | bar (b : Nat)
  | gbar (g : Nat)
  | waitw (ptr : DWord) (v : DWord) (ty : BitVec 4) (cond : BitVec 3) (w0 : Word)
  | chkw (region : Nat) (word : Nat) (mask : Word)
  deriving DecidableEq, Repr

/-- The lane states of R12. FAULT_PARKED keeps the pointer and the first word that a refusal records (R141). -/
inductive LaneState where
  | ready
  | parked (w : Wait)
  | yielded
  | faultParked (walk : Nat) (ptr : DWord) (w0 : Word)
  | exited
  deriving DecidableEq, Repr

/-- A lane: R12, R45, R52, R65, R363. -/
structure Lane where
  pcv : BitVec 48
  st : LaneState
  p : BitVec 7
  pp : BitVec 7
  fpflags : BitVec 9
  fuel : BitVec 16
  epc : BitVec 48
  eaddr : DWord
  epred : BitVec 7
  epoison : BitVec 7
  sst : LaneState
  deriving DecidableEq, Repr

/-- A frame of the chain with its link-stack entry (R73 to R75): registers keyed 32 × number + lane. `fid` is the
model's name of the frame, by which an outstanding write finds it (R63). -/
structure Frame where
  fid : Nat
  gran : Nat
  phys : List Nat
  res : Bool
  regs : SMap RVal
  rcnt : Nat
  rbase : Nat
  raddr : BitVec 48
  deriving DecidableEq, Repr

/-- The handler binding, its frame and bank, and the strand's handler registers (R50, R65, R88). -/
structure Handler where
  fid : Nat
  idx : Nat
  regs : SMap RVal
  k : SMap RVal
  emask : Word
  ecause : Word
  eword : Word
  deriving DecidableEq, Repr

/-- The strand states of R17; FREE is an absent slot. PARKED_WHOLE keeps whether it was AT_PHASE (R85) and since
when it waits for its reload (R81). -/
inductive SState where
  | running | blocked | inHandler | inTrial | atPhase
  | parkedWhole (back : Bool) (since : Nat)
  deriving DecidableEq, Repr

/-- Why a strand issues nothing although it has READY lanes (R105, R148, R246). `walks`: walks with the lanes that
wait on each, with their pointers; `chunk`: a missing chunk, with the waiting lanes' pointers; `retry`: the instruction stalls
at issue until the next cycle; `drop`: a SIGINS.drop whose answers have not all landed; `remote`: writes of a remote device
not yet acknowledged (R332, R357); `emul`: bytes of misaligned lanes that the supervisor still serves (R368). -/
inductive HoldK where
  | sleep (left : Nat)
  | wait (ld st cp tl : Nat)
  | waitt (t n : Nat)
  | sdrain (seq : Nat)
  | walks (l : List (Nat × List (Nat × DWord))) (w0 : Word)
  | chunk (region c : Nat) (ptrs : List (Nat × DWord)) (w0 : Word)
  | rgnclr (region : Nat)
  | drop (op : Nat)
  | remote (ids : List Nat)
  | emul (op : Nat)
  | retry
  deriving DecidableEq, Repr

/-- A hold, and the lanes that advance by `len` bytes when it ends. -/
structure Hold where
  k : HoldK
  mask : Word
  len : Nat
  deriving DecidableEq, Repr

/-- A BLOCKED request (R81, R82): its demand, when it blocked, and for a call the instruction and its lanes with the targets
that the issue found (R78, R366). -/
structure Block where
  demand : Nat
  since : Nat
  call : Option (Form × List (Nat × BitVec 48))
  deriving DecidableEq, Repr

/-- A fault of one lane: cause, address, DETAIL (R137). -/
structure LFault where
  lane : Nat
  cause : Cause
  addr : DWord
  detail : Word
  deriving DecidableEq, Repr

/-- A trap that waits for a handler frame (R88). -/
structure TrapPend where
  cause : Cause
  mask : Word
  word : Word
  ilen : Nat
  impr : Bool
  addrs : List (Nat × DWord)
  since : Nat
  deriving DecidableEq, Repr

/-- What is due to a strand at a boundary (R134, R39): a store-fault record, or NOPRE_EXPIRED. -/
inductive Due where
  | store (cause : Cause) (pc : BitVec 48) (w0 : Word) (lanes : List LFault) (seq : Nat)
  | nopre
  deriving DecidableEq, Repr

/-- A lane of a trial: its next example, signature, and fuel. -/
structure TLane where
  lane : Nat
  next : Nat
  sig : DWord
  fuel : BitVec 16
  deriving DecidableEq, Repr

/-- A trial in progress (R20, R21, R354); `dk`: its signature goes to a uniform pair (R49); `bad`: lane, example and word of the
results whose second mismatch is to come (R367). -/
structure Trial where
  port : Nat
  dst : Nat
  dk : Bool
  nex : Nat
  fuel : Nat
  slot : Nat
  words : Nat
  etab : Nat
  seed : DWord
  p : List (Nat × BitVec 7 × BitVec 7)
  lanes : List TLane
  since : Nat
  bad : List (Nat × Nat × Nat)
  deriving DecidableEq, Repr

/-- An issued, unretired operation in the strand's order (R168, R169). -/
structure Out where
  cls : Cls
  id : Nat
  done : Bool
  deriving DecidableEq, Repr

/-- A strand: R17, R18, R41, R48, R73, R168 to R178. `sid` is the model's name of the strand; `bnd`: it has reached a boundary with a
fault due (R135); `latch`: a high word for each lane (R64); `last`: one more than the clock of its last issue, 0 before the
first (log 56); `barN`: the SB of the last BAR of each barrier (R265). -/
structure Strand where
  sid : Nat
  st : SState
  lanes : List Lane
  k : SMap RVal
  frames : List Frame
  handler : Option Handler
  prio : Nat
  eff : Nat
  age : Nat
  npc : Nat
  nopre : Bool
  out : List Out
  hold : Option Hold
  sigstat : Bool
  latch : Option (Nat × List Word)
  block : Option Block
  trapPend : Option TrapPend
  due : List Due
  trial : Option Trial
  spill : Nat
  seq : Nat
  last : Nat
  barN : List (Nat × Nat)
  arrived : Option Nat
  dur : Bool
  phMask : Word
  phLen : Nat
  stopped : Bool
  bnd : Bool
  deriving DecidableEq, Repr

/-- The states of a bound region (R147). -/
inductive RState where
  | absent | filling | present | flushing
  deriving DecidableEq, Repr

/-- A region entry that is not EMPTY (R145). `order`: chunks still to fetch, in order; `flush`: RGNFL operations to
serve; `binder`: the slot that R148 names; `first`: one more than the clock, the slot and the chunk of the first touch (R166). -/
structure Region where
  src : DWord
  wbase : Nat
  nchk : Nat
  ew : BitVec 2
  trn : Bool
  wr : Bool
  nofill : Bool
  st : RState
  cols : Nat
  rows : Nat
  planes : Nat
  sstride : Nat
  pstride : Nat
  bitmap : BitVec 512
  poison : Bool
  fault : Bool
  cause : BitVec 8
  binder : Nat
  preset : Bool
  order : List Nat
  first : Nat × Nat × Nat
  flush : List (Nat × Nat)
  deriving DecidableEq, Repr

/-- A range-lock entry (R150): space 0 local, 1 tile file, 2 global virtual. -/
structure REnt where
  space : Nat
  write : Bool
  chunked : Option Nat
  base : Nat
  len : Nat
  tmask : BitVec 16
  twmask : BitVec 16
  deriving DecidableEq, Repr

/-- Where a result lands (R60, R63): `h` names the handler frame in force at issue; `flags`: sticky flags are set. -/
inductive Dest where
  | none
  | v (fid reg n : Nat)
  | k (reg n : Nat) (h : Option Nat)
  | pred (n : Nat) (h : Option Nat)
  | flags
  deriving DecidableEq, Repr

/-- What an engine job of a core does (R151), with the operands it took at issue; of a RELABEL, the next element, whether a walk
was damaged, and the first failure, refused or not (R352). -/
inductive JobK where
  | tldG (tile : Nat) (tc : Word) (rows : List (List Span))
  | tldL (tile : Nat) (tc : Word) (rows : List (Nat × Nat))
  | tstG (tile : Nat) (tc : Word) (rows : List (List Span))
  | tstL (tile : Nat) (tc : Word) (rows : List (Nat × Nat))
  | tzero (tile : Nat)
  | mma (d a b : Nat) (td ta tb : Word) (md : BitVec 11) (quarters : List Nat)
  | mmas (d a b : Nat) (td ta tb : Word) (md : BitVec 11) (quarters : List Nat) (selA selB : Nat) (sa sb : List RVal)
  | mtrn (d a b : Nat) (td ta tb : Word) (md : BitVec 11) (quarters : List Nat)
  | tmovR (tile : Nat) (tc : Word) (e : Nat) (dest : Dest) (mask : Word)
  | tmovT (tile : Nat) (tc : Word) (e : Nat) (vals : List (Nat × RVal))
  | relabel (kf : List Word) (op : Nat) (sgn : Bool) (val out : DWord) (cls : Option DWord) (next : Nat) (pois : Bool)
    (fault : Option (Cause × DWord × Word × Bool))
  | fill (region : Nat)
  | copyout (region op : Nat)
  | trial (port : Nat)
  deriving DecidableEq, Repr

/-- An engine job registered in the range-lock table; `pc` the address of the instruction that started it. `at_`: the element
and the page that it waits for, `refused`: those of them that the host has refused (R345, R352); `sent`: its writes are made, and
those of a remote device wait for acknowledgement. -/
structure Job where
  id : Nat
  slot : Nat
  sid : Nat
  pc : BitVec 48
  ents : List REnt
  k : JobK
  sent : Bool
  raced : Bool
  wait : Option Nat
  at_ : Nat × Nat
  refused : List (Nat × Nat)
  deriving DecidableEq, Repr

/-- A barrier (R174): `all` when EXP counts all live strands, `who` the slots that arrived. -/
structure Bar where
  arr : Nat
  exp : Nat
  gen : BitVec 16
  all : Bool
  who : List Nat
  deriving DecidableEq, Repr

/-- One lane of a store-queue entry (R133): the bytes with the poison of each 32-bit word they come from (R314), the Cask
segment it joined, the page, and a bound verdict (R321). -/
structure SLane where
  lane : Nat
  ptr : DWord
  pa : Nat
  e : Pte
  data : List Byte
  pw : List Bool
  seg : Nat
  bound : Option Word
  deriving DecidableEq, Repr

/-- A store-queue entry (R133). -/
structure SEntry where
  id : Nat
  slot : Nat
  sid : Nat
  pc : BitVec 48
  w0 : Word
  seq : Nat
  dir : Bool
  str : Bool
  lanes : List SLane
  deriving DecidableEq, Repr

/-- Bytes of a held line that one Cask segment wrote (segment 0 off NV pages): mask, bytes, poison of each granule; the
pointer, lane, slot and address of the store that wrote last (R409). -/
structure Dirty where
  seg : Nat
  mask : BitVec 64
  data : List Byte
  p0 : Bool
  p1 : Bool
  ptr : DWord
  lane : Nat
  slot : Nat
  pc : BitVec 48
  deriving DecidableEq, Repr

/-- A held line of a core (R109, R117, R185): `read` its snapshot (64 bytes, tags, poison of its granules), `want` a
line counted whose fill has not been performed, `cnt` counted for a store; `wp` the words that an error of the L1 struck (R365). -/
structure HLine where
  read : Option (List Byte × BitVec 4 × BitVec 4 × Bool × Bool)
  want : Bool
  cnt : Bool
  nv : Bool
  dirty : List Dirty
  wp : BitVec 16
  deriving DecidableEq, Repr

/-- A variable-latency operation (R60, R168). `value`: a value taken at issue. `forest`: the descriptor words. -/
inductive OpK where
  | load (held : Bool) (ty : BitVec 4)
  | value
  | ldr (ty : BitVec 4)
  | atom (op : Nat) (ty : BitVec 4)
  | acas (ty : BitVec 4)
  | afadd (ty : BitVec 4)
  | store
  | str
  | unite (kf : List Word)
  | find (kf : List Word)
  | dsize (kf : List Word)
  | dsnap (kf : List Word)
  | dundo (kf : List Word)
  | dinit (kf : List Word)
  | sigins (base : DWord) (n : Nat)
  deriving DecidableEq, Repr

/-- One lane of an operation: its address, operands with their poison, the performed result, which registers landed. -/
structure OLane where
  lane : Nat
  ptr : DWord
  pa : Nat
  e : Pte
  b : WVal
  c : WVal
  data : List Byte
  done : Bool
  vals : List RVal
  landed : BitVec 4
  deriving DecidableEq, Repr

/-- An outstanding operation of a core. `at_`: the lane and the page that it waits for, `refused`: those of them that the host
has refused (R345). -/
structure Op where
  id : Nat
  slot : Nat
  sid : Nat
  pc : BitVec 48
  w0 : Word
  k : OpK
  dest : Dest
  seq : Nat
  dur : Bool
  wait : Option Nat
  at_ : Nat × Nat
  refused : List (Nat × Nat)
  lanes : List OLane
  deriving DecidableEq, Repr

/-- One lane of a CPA (R327); `put`: the destination bytes that are written (R199), `pw`: the words that it has written poisoned bytes
to. -/
structure CLane where
  lane : Nat
  dst : Nat
  spans : List Span
  put : BitVec 32
  pw : BitVec 8
  done : Bool
  deriving DecidableEq, Repr

/-- An outstanding CPA. -/
structure Cpa where
  id : Nat
  slot : Nat
  sid : Nat
  tag : Nat
  lanes : List CLane
  deriving DecidableEq, Repr

/-- Where a workgroup stands in R27: running; every live strand arrived and the lead test not passed; publishing;
its final PHASE completed. -/
inductive PState where
  | running
  | leadWait (final dur stalled : Bool)
  | publishing (final dur : Bool)
  | ended
  deriving DecidableEq, Repr

/-- An entry of LEADV (R173): the member and its phase, or unconstraining. -/
structure Lead where
  gang : Nat
  wg : Nat
  val : Option Word
  deriving DecidableEq, Repr

/-- A core that holds a workgroup. `gid` is the model's name of the gang. `pend`: granules of freed frames whose
outstanding writes have not landed (R63). `saveIdx`: the save index of a SAVED workgroup (R32). `loc`, `lpois`: scratchpad and code bank by local address and word.
`tiles`: word 4096 × tile + index. `served`: the request that Sparge frees granules for, by slot and time, `victims` the slots
it spilled whole for it, and `marked` those it stops at their next boundary (R84); `ported`, `lastKey`: the ports that had their
round in this cycle, as a set, and the place of the last in the order of the cycle (R41); `sysNext`: writes of %trapctl and %trapvec in this cycle, by register and port,
which govern from the next cycle (R70, R258). -/
structure Core where
  gid : Nat
  wg : Nat
  strands : List (Nat × Strand)
  resv : Nat
  pend : List (Nat × List Nat)
  loc : SMap Byte
  lpois : SMap Bool
  tiles : SMap RVal
  tc : SMap Word
  regions : List (Nat × Region)
  jobs : List Job
  bars : List (Nat × Bar)
  gbars : List (Nat × Bar)
  sq : List SEntry
  held : List (Nat × HLine)
  ic : List (Nat × (List Byte × Bool × Bool))
  pins : List Nat
  seg : Nat
  segOpen : Bool
  phase : Word
  durPhase : Option Word
  leadv : List Lead
  pst : PState
  trapctl : Word
  sysNext : List (Nat × Nat × Word)
  trapvec : BitVec 48
  ops : List Op
  cpas : List Cpa
  quiet : Nat
  served : Option (Nat × Nat)
  marked : List Nat
  victims : List Nat
  ported : Nat
  lastKey : Nat
  saveIdx : Nat
  deriving DecidableEq, Repr

/-- The context states of R10; `ending` from step 1 of R407 on, with whether the context was HALTED. -/
inductive CState where
  | live | halted | stopped
  | ending (halted : Bool)
  deriving DecidableEq, Repr

/-- A context (R9, R10, R406). -/
structure Ctx where
  num : Nat
  st : CState
  ptroot : Nat
  privbase : Nat
  fqaddr : DWord
  fqlog : Nat
  priocap : Nat
  prot : Bool
  trapctl : Word
  qmask : BitVec 128
  kdtbase : DWord
  kdtcnt : Nat
  dgroup : Word
  seq : Word
  deriving DecidableEq, Repr

/-- A queued launch record (R130, R33): its bytes, its capped priority, the next gang index to hand out, and the presets
that its check found (R165). -/
structure QRec where
  rid : Nat
  ctx : Nat
  raw : List Byte
  prio : Nat
  next : Nat
  checked : Bool
  waitWalk : Option Nat
  tc : SMap Word
  regions : List (Nat × Region)
  deriving DecidableEq, Repr

/-- The gang states of R23; PENDING is a queued record's, RETIRED an absent gang's. -/
inductive GState where
  | placed | saving | saved | draining
  deriving DecidableEq, Repr

/-- A gang. `cores` by workgroup (of a SAVED gang, those it is to be restored on); `saved` the workgroups of a SAVED gang;
`order` of its PREEMPT_SAVE; `target` the cluster of a migration; `since` when its save was requested. -/
structure Gang where
  gid : Nat
  rid : Nat
  ctx : Nat
  index : Nat
  raw : List Byte
  prio : Nat
  st : GState
  ticket : Word
  die : Nat
  cores : List Nat
  ended : List Nat
  saved : List Core
  order : Nat
  target : Option Nat
  since : Nat
  deriving DecidableEq, Repr

/-- A page walk (R102, R139 to R141): `walking`, or absent with its entry to be written, or absent and answered by
nobody yet. `entry`: the WALK that its entry names. -/
inductive WState where
  | walking | owed | posted
  deriving DecidableEq, Repr

structure Walk where
  id : Nat
  entry : Nat
  die : Nat
  ctx : Nat
  page : Nat
  wr : Bool
  fetch : Bool
  atomic : Bool
  privr : Bool
  sched : Bool
  malformed : Bool
  level : Nat
  st : WState
  deriving DecidableEq, Repr

/-- A TLB entry (R101): the page of a context as a walk of a die found it. -/
structure TlbE where
  die : Nat
  ctx : Nat
  base : Nat
  e : Pte
  deriving DecidableEq, Repr

/-- A message in flight between cores (R173, R196, R266). -/
inductive Msg where
  | phase (gid wg : Nat) (fromGang fromWg : Nat) (val : Option Word)
  | gbar (core : Nat) (ticket : Word) (g wg : Nat)
  | str (core : Nat) (ticket : Word) (off : Nat) (data : List Byte) (pw : List Bool) (src op lane : Nat)
  deriving DecidableEq, Repr

/-- The control page (R403); HFQ_PROD and HFQ_CONS stand in the containment tables. `reqVa`, `reqCtx`, `reqAll`: the
invalidation that GO started. -/
structure Ctl where
  ready : Bool
  aperr : Bool
  stopped : Bool
  apbase : Nat
  tagv : Bool
  hfqBase : List Nat
  ansKind : List Bool
  invVa : DWord
  invCtx : BitVec 16
  invAll : Bool
  invGo : Bool
  reqVa : DWord
  reqCtx : BitVec 16
  reqAll : Bool
  plimit : Nat
  pnow : Nat
  tjmax : Nat
  deriving DecidableEq, Repr

/-- A leaky bucket (R179): when its window opened, when it last drained, the counts of each row in the window (R370), and the
row of a REMAP that is due (R371). -/
structure Bucket where
  cls : Nat
  unit : Nat
  level : Nat
  win : Option DWord
  drained : DWord
  rows : List (Nat × Nat)
  due : Option Nat
  deriving DecidableEq, Repr

/-- A management event (R142). -/
structure MEv where
  code : Nat
  cls : Nat
  unit : Nat
  count : Nat
  clock : DWord
  deriving DecidableEq, Repr

/-- A containment table in its three copies (R162). -/
structure CTab where
  c0 : SMap DWord
  c1 : SMap DWord
  c2 : SMap DWord
  deriving DecidableEq, Repr

/-- An NV write performed and not yet durable (R118 to R121): the line, its bytes, tags and poison before the write;
`seg`: the core's segment, or none for a non-segment write; `owner`: the gang and workgroup that issued it. -/
structure NvW where
  line : Nat
  old : List Byte
  tag0 : BitVec 4
  tag1 : BitVec 4
  p0 : Bool
  p1 : Bool
  core : Nat
  seg : Option Nat
  owner : Option (Nat × Nat)
  deriving DecidableEq, Repr

/-- A Kiln pass of one memory (R124): the granules or lines it has read, and whether it has ended. -/
structure Kiln where
  cls : Nat
  unit : Nat
  start : DWord
  corr : Nat
  unc : Nat
  seen : List Nat
  ended : Bool
  deriving DecidableEq, Repr

/-- An in-field test (R372): due, or under way. -/
structure FTest where
  cluster : Nat
  running : Bool
  start : DWord
  deriving DecidableEq, Repr

/-- A report of another device about a launch (R34, R35). -/
structure Floor where
  dev : Nat
  compl : Nat
  dgroup : Nat
  queued : Bool
  floor : Option Word
  deriving DecidableEq, Repr

/-- A request sent to a remote device and not answered (R408, R409): what it writes, for which slot and instruction; `ask`:
it reads as well, and is answered when its lane is performed; `dest`: the register that a TGET has written from it (R332). -/
structure RReq where
  id : Nat
  dev : Nat
  pa : Nat
  ctx : Nat
  core : Nat
  ptr : DWord
  lane : Nat
  slot : Nat
  pc : BitVec 48
  op : Option (Nat × Nat)
  ask : Bool
  data : List Byte
  dest : Dest
  deriving DecidableEq, Repr

/-- What the host or the management port read (R402 to R404, R411). -/
inductive HostAns where
  | word (v : DWord)
  | bytes (l : List Byte)
  | spdm (code : Nat) (payload : List DWord)
  | msix (vector : Nat)
  deriving DecidableEq, Repr

/-- The events of R44. -/
inductive EvName where
  | contextCreate | contextHalt | contextDestroy | containmentStop | launchEnqueue | gangPlace | strandCreate
  | frameAlloc | frameFree | spargeSpill | spargeReload | trapEntry | trapReturn | laneKill | strandExit | pageReplay
  | barrierDone | phasePublish | leadStall | rangeRegister | rangeRelease | chunkArrive | preemptSave | resumeRestore
  | gangDrain | drainDone | protectZero | wakeZero | scrubPass | bucketMark | remap | fieldTest | powerLossFlush
  | remoteTimeout
  deriving DecidableEq, Repr

/-- An event that fired, with what it names. -/
structure Ev where
  name : EvName
  a : Nat
  b : Nat
  deriving DecidableEq, Repr

/-- The power and containment state (R122, R373, R410). -/
inductive Power where
  | run | stopped | flushed
  deriving DecidableEq, Repr

/-- The strand that issues, the address, the lanes there, the first word and length, and the lanes whose datapath
results mismatch once and twice (R14, R367). -/
structure Cur where
  core : Nat
  slot : Nat
  pc : BitVec 48
  mask : Word
  w0 : Word
  ilen : Nat
  mm1 : Word
  mm2 : Word
  deriving DecidableEq, Repr

/-- What befalls the device from outside the table of happenings: acts of the management firmware and of the host, and errors
that strike it (log 57).
`firmware` takes the n oldest events (R128, R142); `bucketSet` programs a class (R179); `scrubPeriod`, `testPeriod` in hours
(R124, R372); `plimit` (R403); `debugUnlock` (R411); `msixMask` (R401); `bar0Read` of an offset (R402); `eccRead`: the demand
read that comes next meets an error in the granule (R107); `lineErr` in a line that the L2 holds, corrected or the line clean, or
`lost`; `regErr` in a register of the frame that a strand names (`frame` 0) or of a frame of its chain (from 1), `locErr` in a local word,
`tileErr` in a tile word, `heldErr` in a word of a held line, `icErr` in a line of the instruction cache
(R365), each uncorrectable or not; `mismatch` once in a lane, `trialMiss` twice in an example and word of a trial's lane (R367); `l2Line`: the L2
takes a line in, or lets it go (R94, R108); `copyBytes`: some bytes of a copy arrive before it ends (R199, R420); `contStrike` while a containment entry is written (R373);
`scrubEnd`: the pass of a memory has read it all (R124). -/
inductive Input where
  | firmware (n : Nat)
  | bucketSet (cls : Nat) (drain : BitVec 8) (m1 m2 win : BitVec 16)
  | scrubPeriod (h : Nat)
  | testPeriod (h : Nat)
  | plimit (watts : Nat)
  | debugUnlock
  | msixMask (v : Nat)
  | bar0Read (off : Nat)
  | eccRead (pa : Nat) (unc : Bool)
  | lineErr (line : Nat) (lost : Bool)
  | regErr (core slot frame reg lane : Nat) (unc : Bool)
  | locErr (core word : Nat) (unc : Bool)
  | tileErr (core word : Nat) (unc : Bool)
  | heldErr (core key word : Nat) (unc : Bool)
  | icErr (core key : Nat) (unc : Bool)
  | mismatch (core slot lane : Nat)
  | trialMiss (core slot lane ex word : Nat)
  | l2Line (line : Nat) (held : Bool)
  | copyBytes (core op : Nat) (lanes bytes : BitVec 32)
  | contStrike (tab : Nat)
  | scrubEnd (cls unit : Nat)
  deriving DecidableEq, Repr

/-- The order in which happenings befall (log 1): a port's round, a clock, an event, an input, or
the access of a strand that a chunk has let go on (R148, R166). -/
inductive Happening where
  | issue (core port : Nat) (mm1 mm2 : Word)
  | cycle
  | event (i : Instr)
  | input (i : Input)
  | touch (core slot : Nat)
  deriving DecidableEq, Repr

/-- The state of the device. `l1`: a core's own TLB (R101); `dbg`: the debug port was unlocked since boot (R411). `mem`, `tags`, `gpois`: memory by physical address, tags and poison by 32-byte granule; `nvLog`:
Cask writes not yet durable, oldest first; `l2`: lines that the L2 holds, each dirty or not, whose contents `mem` shows, and `behind` the
granules that memory has lost behind them (R94, R125); `queues` by queue number; `segs`: the open Cask segment of a core (R119); `cont`:
the tables of R161 in three copies; `mreqs`: management requests; `masked`, `pendMsix`: MSI-X masks and pending bits; `mgmt`,
`lost`: the event queue of R142; `buckets`, `bcfg`: R179; `withdrawn`, `spares`: R371; `ftest` to `testSoon`: R372; `ports`:
fabric ports that are up; `floors`: R34; `remote`: R408; `rr`, `want`: where the schedulers stand (R34, R38). The model's own:
`agenda` what befalls next, `cur` the issue in progress, `turn` whose turn it is, `nextId` names, `freeCnt` counts free
values, `hostOut` what the host has read, `log` the events that fired. -/
structure State where
  mem : SMap Byte
  tags : SMap (BitVec 4)
  gpois : SMap Bool
  nvLog : List NvW
  l2 : List (Nat × Bool)
  behind : List Nat
  tlbs : List TlbE
  l1 : List (Nat × List TlbE)
  walks : List Walk
  ctxs : List (Nat × Ctx)
  queues : List (Nat × List QRec)
  gangs : List (Nat × Gang)
  cores : List (Nat × Core)
  segs : SMap Nat
  ctl : Ctl
  cont : List CTab
  mreqs : List Nat
  masked : List Nat
  pendMsix : List Nat
  mgmt : List MEv
  lost : Word
  buckets : List Bucket
  bcfg : List (Nat × Nat × Nat × Nat)
  withdrawn : List Nat
  spares : SMap Nat
  kiln : List Kiln
  scrubHours : Nat
  ftest : List FTest
  testHours : Nat
  tested : SMap DWord
  testSoon : List Nat
  clock : DWord
  dev : BitVec 20
  cap0 : DWord
  cap1 : DWord
  mhz : Nat
  ports : List Nat
  dbg : Bool
  power : Power
  msgs : List (Nat × Msg)
  floors : List Floor
  remote : List RReq
  rr : SMap Nat
  want : List (Nat × Nat)
  agenda : List Happening
  cur : Option Cur
  turn : Nat
  nextId : Nat
  freeCnt : Nat
  hostOut : List HostAns
  log : List Ev
  deriving DecidableEq, Repr

/-- A containment table with nothing recorded. -/
def CTab.empty : CTab := { c0 := [], c1 := [], c2 := [] }

/-- The control page after reset (R403). -/
def Ctl.reset : Ctl :=
  { ready := false, aperr := false, stopped := false, apbase := 0, tagv := false, hfqBase := [0, 0],
    ansKind := [false, false], invVa := 0, invCtx := 0, invAll := false, invGo := false, reqVa := 0, reqCtx := 0, reqAll := false, plimit := 1500, pnow := 0,
    tjmax := 0 }

/-- DRAIN, MARK1, MARK2 and WINDOW of classes 1 to 7, as the management cores leave them by default (R179). -/
def bucketDefaults : List (Nat × Nat × Nat × Nat) :=
  [(16, 4, 8, 1024), (16, 4, 8, 1024), (16, 8, 32, 1024), (4, 16, 64, 4096), (4, 16, 64, 4096), (16, 4, 8, 1024), (0, 1, 0xFFFF, 0)]

/-- The device at power-on: memory zero, every table empty, no context, STATUS 0; BOOT (R410) then makes it ready. Values
the spec does not give are those of log 2. -/
def State.reset : State :=
  { mem := [], tags := [], gpois := [], nvLog := [], l2 := [], behind := [], tlbs := [], l1 := [], walks := [], ctxs := [], queues := [], gangs := [],
    cores := [], segs := [], ctl := Ctl.reset,
    cont := [CTab.empty, CTab.empty, CTab.empty, CTab.empty, CTab.empty, CTab.empty],
    mreqs := [], masked := List.range 8, pendMsix := [], mgmt := [], lost := 0, buckets := [], bcfg := bucketDefaults, withdrawn := [], spares := [],
    kiln := [], scrubHours := 24, ftest := [], testHours := 24, tested := [], testSoon := [], clock := 0, dev := 0, cap0 := 0x7F, cap1 := 0,
    mhz := 1700, ports := (List.range 24), dbg := false, power := .run, msgs := [], floors := [], remote := [], rr := [], want := [],
    agenda := [], cur := none, turn := 0, nextId := 0, freeCnt := 0, hostOut := [], log := [] }

end Sys2Proof.Machine
end

