-- ==== Sys2Proof/Machine/Mem.lean ====
section
/-! DEFINITION. Physical space and its homes: ranges (R97), home reads and writes with poison (R107, R314), tags (R104),
the Cask persistence log (R118 to R120), the control page as read (R403), containment votes (R162). -/

namespace Sys2Proof.Machine

/-! ### Physical ranges (R97) -/

def dramTop : Nat := 0x30000000000
def devTop : Nat := 0x30000010000
def caskBase : Nat := 0x80000000000
def restartTop : Nat := 0x80000010000
def physTop : Nat := 0x100000000000

/-- LPDDR 6. -/
def isDram (pa : Nat) : Bool := decide (pa < dramTop)
/-- The device window. -/
def isDev (pa : Nat) : Bool := decide (dramTop ≤ pa) && decide (pa < devTop)
/-- The Cask tier. -/
def isCask (pa : Nat) : Bool := decide (caskBase ≤ pa) && decide (pa < physTop)
/-- The range R97 reserves. -/
def isReserved (pa : Nat) : Bool := decide (devTop ≤ pa) && decide (pa < caskBase)
/-- The die a physical address is homed on (R97, R108). -/
def dieOfPa (pa : Nat) : Nat := if isDram pa then (if pa < 0x18000000000 then 0 else 1) else if pa < 0xC0000000000 then 0 else 1

/-! ### Containment tables (R162) -/

/-- The voted value of an entry: the value of two agreeing copies, if any two agree. -/
def CTab.vote (t : CTab) (k : Nat) : Option DWord :=
  let a := sget 0 t.c0 k
  let b := sget 0 t.c1 k
  let c := sget 0 t.c2 k
  if a = b ∨ a = c then some a else if b = c then some b else none

/-- An entry written in all three copies. -/
def CTab.write (t : CTab) (k : Nat) (v : DWord) : CTab :=
  { c0 := sset 0 t.c0 k v, c1 := sset 0 t.c1 k v, c2 := sset 0 t.c2 k v }

def contTab (s : State) (n : Nat) : CTab := s.cont.getD n CTab.empty
/-- The voted value of an entry of containment table n; the first copy's where no two agree (CONTAINMENT_SCAN acts on that). -/
def contGet (s : State) (n k : Nat) : DWord := ((contTab s n).vote k).getD (sget 0 (contTab s n).c0 k)
def contSet (s : State) (n k : Nat) (v : DWord) : State :=
  { s with cont := s.cont.set n ((contTab s n).write k v) }

/-- HFQ_PROD and HFQ_CONS of a die, among the fault queues' control words (R139, R162). -/
def hfqProd (s : State) (d : Nat) : Word := (contGet s 5 (2 * d)).extractLsb' 0 32
def hfqCons (s : State) (d : Nat) : Word := (contGet s 5 (2 * d + 1)).extractLsb' 0 32

/-! ### The control page (R403) -/

/-- STATUS. -/
def statusWord (s : State) : Word :=
  BitVec.ofNat 32 ((if s.ctl.ready then 1 else 0) + (if s.ctl.aperr then 2 else 0) + (if s.ctl.stopped then 4 else 0))

/-- INV_CTL. -/
def invCtlWord (s : State) : Word :=
  BitVec.ofNat 32 (s.ctl.invCtx.toNat + (if s.ctl.invAll then 65536 else 0) + (if s.ctl.invGo then 2 ^ 31 else 0))

/-- The 32-bit word of the control page at an offset; offsets not listed, and write-only fields, read 0. -/
def ctlWord (s : State) (off : Nat) : Word :=
  if off = 0x0 then statusWord s
  else if off = 0x8 then BitVec.ofNat 32 s.ctl.apbase
  else if off = 0xC then BitVec.ofNat 32 (s.ctl.apbase / 2 ^ 32)
  else if off = 0x40 then BitVec.ofNat 32 (if s.ctl.tagv then 1 else 0)
  else if off = 0x10 then hfqProd s 0
  else if off = 0x14 then hfqCons s 0
  else if off = 0x18 then BitVec.ofNat 32 (s.ctl.hfqBase.getD 0 0)
  else if off = 0x1C then BitVec.ofNat 32 (s.ctl.hfqBase.getD 0 0 / 2 ^ 32)
  else if off = 0x30 then hfqProd s 1
  else if off = 0x34 then hfqCons s 1
  else if off = 0x38 then BitVec.ofNat 32 (s.ctl.hfqBase.getD 1 0)
  else if off = 0x3C then BitVec.ofNat 32 (s.ctl.hfqBase.getD 1 0 / 2 ^ 32)
  else if off = 0x80 then s.ctl.invVa.extractLsb' 0 32
  else if off = 0x84 then s.ctl.invVa.extractLsb' 32 32
  else if off = 0x88 then invCtlWord s
  else if off = 0x200 then BitVec.ofNat 32 s.ctl.plimit
  else if off = 0x204 then BitVec.ofNat 32 s.ctl.pnow
  else if off = 0x208 then BitVec.ofNat 32 s.ctl.tjmax
  else 0

/-- A byte of the control page. -/
def ctlByte (s : State) (off : Nat) : Byte := (ctlWord s (off / 4 * 4)).extractLsb' (8 * (off % 4)) 8

/-! ### Home reads and writes -/

/-- The number under which the log of Cask writes lists a write that no core makes. -/
def noCore : Nat := 4096


/-- A byte at its local home. -/
def homeByte (s : State) (pa : Nat) : Byte := if isDev pa then ctlByte s (pa - dramTop) else sget 0 s.mem pa

/-- n bytes at their home; of a REM page, free values (R408). -/
def homeBytes (s : State) (e : Pte) (pa n : Nat) : List Byte :=
  (List.range n).map fun i => if e.rem then Config.remoteByte (s.freeCnt * 2 ^ 64 + e.dev * 2 ^ 44 + pa + i) else homeByte s (pa + i)

/-- The granules that n bytes at pa overlap. -/
def granules (pa n : Nat) : List Nat := if n = 0 then [] else (List.range ((pa + n - 1) / 32 - pa / 32 + 1)).map (pa / 32 + ·)

/-- Some granule that the bytes overlap is poisoned at its home. -/
def homePois (s : State) (e : Pte) (pa n : Nat) : Bool :=
  (granules pa n).any fun g => if e.rem then Config.remotePoison (s.freeCnt * 2 ^ 64 + e.dev * 2 ^ 44 + g) else sget false s.gpois g

/-- The memory tag of a granule at its home. -/
def homeTag (s : State) (e : Pte) (g : Nat) : BitVec 4 :=
  if e.rem then Config.remoteTag (s.freeCnt * 2 ^ 64 + e.dev * 2 ^ 44 + g) else sget 0 s.tags g

/-- The physical frame of a poisoned granule enters its die's poison record, up to 8,192 entries (R365). -/
def recordPoison (s : State) (g : Nat) : State :=
  let t := 3 + dieOfPa (32 * g)
  let n := (contGet s t 0).toNat
  if n < 8192 then contSet (contSet s t (n + 1) (BitVec.ofNat 64 (32 * g / 65536))) t 0 (BitVec.ofNat 64 (n + 1))
  else contSet s t 0 (BitVec.ofNat 64 (n + 1))

/-- The poison of the granules that a write covers: set by poisoned data, cleared by a clean write of all 32 bytes. -/
def poisonWrite (s : State) (pa n : Nat) (pois : Bool) : State :=
  (granules pa n).foldl (fun s g =>
    if pois then
      (if sget false s.gpois g then s else recordPoison { s with gpois := sset false s.gpois g true } g)
    else if pa ≤ 32 * g ∧ 32 * g + 32 ≤ pa + n then { s with gpois := sset false s.gpois g false, behind := s.behind.filter (· ≠ g) }
    else s) s

/-- The bytes of a line, its tags and poison, as they stand at its home. -/
def lineAt (s : State) (line : Nat) : NvW :=
  { line := line, old := readBytes s.mem (64 * line) 64, tag0 := sget 0 s.tags (2 * line), tag1 := sget 0 s.tags (2 * line + 1),
    p0 := sget false s.gpois (2 * line), p1 := sget false s.gpois (2 * line + 1), core := 0, seg := none, owner := none }

/-- A line that the L2 holds is written: it is dirty there (R94, R125). -/
def l2Dirty (s : State) (line : Nat) : State := { s with l2 := s.l2.map fun p => if p.1 = line then (line, true) else p }

/-- A write to a Cask line enters the log of writes not yet durable, with what the line held (R118 to R121); one to LPDDR 6 leaves the
line dirty in the L2, where a line of Cask never is (R118). -/
def nvNote (s : State) (pa core : Nat) (seg : Option Nat) : State :=
  if isCask pa then
    { s with nvLog := s.nvLog ++ [{ lineAt s (pa / 64) with core := core, seg := seg, owner := (aget s.cores core).map fun x => (x.gid, x.wg) }] }
  else l2Dirty s (pa / 64)

/-- A 64-bit number with one half replaced. -/
def putHalf (old : Nat) (hi : Bool) (v : Word) : Nat :=
  if hi then old % 2 ^ 32 + v.toNat * 2 ^ 32 else old / 2 ^ 32 * 2 ^ 32 + v.toNat

/-- The management cores serve requests (R410, R413). -/
def mgmtServes (s : State) : Bool := s.ctl.ready && !s.ctl.stopped && s.power = .run

/-- The host's answers are heard unless containment is lost (R373). -/
def hears (s : State) : Bool := !s.ctl.stopped

/-- A write of INV_CTL (R403): its fields take the value; a write of GO starts the request that the fields then name, and is
ignored while GO reads 1. -/
def invWrite (s : State) (ctl : Word) : State :=
  let c := { s.ctl with invCtx := ctl.extractLsb' 0 16, invAll := ctl.getLsbD 16 }
  { s with ctl := if s.ctl.invGo || !ctl.getLsbD 31 then c
      else { c with invGo := true, reqVa := c.invVa, reqCtx := c.invCtx, reqAll := c.invAll } }

/-- ANS_KIND of a die. -/
def kindWrite (s : State) (die : Nat) (v : Word) : State :=
  { s with ctl := { s.ctl with ansKind := s.ctl.ansKind.set die (v.getLsbD 31) } }

/-- INV_VA. A request under way keeps the address that it started with. -/
def invVaWrite (s : State) (v : DWord) : State := { s with ctl := { s.ctl with invVa := v } }

/-- A request enters MREQ's list when the management cores accept it (R406, R410, R413). -/
def mreqWrite (s : State) (v : DWord) : State := if mgmtServes s then { s with mreqs := s.mreqs ++ [v.toNat] } else s

/-- HFQ_BASE of a die. -/
def hfqBasePut (s : State) (die : Nat) (v : DWord) : State :=
  if die < 2 then { s with ctl := { s.ctl with hfqBase := s.ctl.hfqBase.set die v.toNat } } else s

/-- HFQ_CONS of a die, in its three copies (R162). -/
def hfqConsPut (s : State) (die : Nat) (v : Word) : State := if die < 2 then contSet s 5 (2 * die + 1) (v.setWidth 64) else s

/-- A word of the control page written (R403): what its fields take. A 32-bit write of a 64-bit field replaces a half of it. -/
def ctlPut (s : State) (off : Nat) (w : Word) : State :=
  let base (d : Nat) : Nat := s.ctl.hfqBase.getD d 0
  let lo : Word := s.ctl.invVa.extractLsb' 0 32
  let hi : Word := s.ctl.invVa.extractLsb' 32 32
  if off = 0x8 then { s with ctl := { s.ctl with apbase := putHalf s.ctl.apbase false w } }
  else if off = 0xC then { s with ctl := { s.ctl with apbase := putHalf s.ctl.apbase true w } }
  else if off = 0x40 then kindWrite { s with ctl := { s.ctl with tagv := w.getLsbD 0 } } 1 w
  else if off = 0x14 then hfqConsPut s 0 w
  else if off = 0x34 then hfqConsPut s 1 w
  else if off = 0x18 then hfqBasePut s 0 (BitVec.ofNat 64 (putHalf (base 0) false w))
  else if off = 0x1C then hfqBasePut s 0 (BitVec.ofNat 64 (putHalf (base 0) true w))
  else if off = 0x38 then hfqBasePut s 1 (BitVec.ofNat 64 (putHalf (base 1) false w))
  else if off = 0x3C then hfqBasePut s 1 (BitVec.ofNat 64 (putHalf (base 1) true w))
  else if off = 0x20 then kindWrite s 0 w
  else if off = 0x80 then invVaWrite s (hi ++ w)
  else if off = 0x84 then invVaWrite s (w ++ lo)
  else if off = 0x88 then invWrite s w
  else if off = 0x100 then mreqWrite s (w.setWidth 64)
  else if off = 0x200 then { s with ctl := { s.ctl with plimit := w.toNat % 65536 } }
  else s

/-- The happening that a word written to ANS_WALK is: an answer of the kind that ANS_KIND now holds (R403). -/
def ansEvent (s : State) (off : Nat) (w : Word) : Option Instr :=
  let ans (d : Nat) : Instr := if s.ctl.ansKind.getD d false then .ansRefuse d w.toNat else .ansReplay d w.toNat
  if off = 0x24 then some (ans 0) else if off = 0x44 then some (ans 1) else none

/-- The happening is an answer of the host. -/
def isAnswer (h : Happening) : Bool := match h with
  | .event (.ansRefuse _ _) => true
  | .event (.ansReplay _ _) => true
  | _ => false

/-- A word that a store or atomic of a core writes to the control page. Its field takes it at once (R194, R403); an answer to a walk
befalls after those ahead of it, before anything else. -/
def devWord (s : State) (off : Nat) (w : Word) : State :=
  match ansEvent s off w with
  | some i => { s with agenda := s.agenda.takeWhile isAnswer ++ .event i :: s.agenda.dropWhile isAnswer }
  | none => ctlPut s off w

/-- A 64-bit field that a single 64-bit write fills whole: MREQ takes its address so (R193, R403). -/
def devDword (s : State) (off : Nat) (v : DWord) : State :=
  if off = 0x100 then mreqWrite s v
  else devWord (devWord s off (v.extractLsb' 0 32)) (off + 4) (v.extractLsb' 32 32)

/-- A write to the control page reaches it as a host write does (R97, R403): by 64 bits where it fills them, else by 32. -/
def devWrite (s : State) (pa : Nat) (data : List Byte) : State :=
  let off := pa - dramTop
  if data.length ≤ 4 then devWord s off (BitVec.ofNat 32 (bytesNat data))
  else (List.range ((data.length + 7) / 8)).foldl (fun s i => devDword s (off + 8 * i) (BitVec.ofNat 64 (bytesNat ((data.drop (8 * i)).take 8)))) s

/-- Bytes of one line performed at their local home. -/
def homeWrite (s : State) (pa : Nat) (data : List Byte) (pois : Bool) (core : Nat) (seg : Option Nat) : State :=
  if isDev pa then devWrite s pa data
  else
    let s := nvNote s pa core seg
    poisonWrite { s with mem := writeBytes s.mem pa data } pa data.length pois

/-- A tag written at its home (R200); the tag of a device window is none. -/
def homeSetTag (s : State) (g : Nat) (t : BitVec 4) (core : Nat) : State :=
  if isDev (32 * g) then s else let s := nvNote s (32 * g) core none; { s with tags := sset 0 s.tags g t }

/-- A 64-bit word at its home with its poison. -/
def homeWord64 (s : State) (pa : Nat) : DWord × Bool :=
  (BitVec.ofNat 64 (bytesNat (readBytes s.mem pa 8)), (granules pa 8).any (sget false s.gpois))

/-! ### Page tables (R98, R99, R160) -/

/-- Bytes of a page by SIZE. -/
def pageBytes (size : Nat) : Nat :=
  if size = 0 then 0x10000 else if size = 1 then 0x200000 else if size = 2 then 0x20000000 else 0x200000000

/-- A leaf entry decoded. -/
def pteOf (w : DWord) : Pte :=
  { dev := (w.extractLsb' 44 20).toNat, frame := (w.extractLsb' 16 28).toNat, size := (w.extractLsb' 8 2).toNat,
    cache := w.extractLsb' 10 2, rem := w.getLsbD 7, priv := w.getLsbD 6, tag := w.getLsbD 5, nv := w.getLsbD 4,
    xn := w.getLsbD 3, ro := w.getLsbD 2 }

/-- A leaf entry that R99 calls malformed, on the device `dev`. -/
def leafBad (dev : Nat) (w : DWord) : Bool :=
  let e := pteOf w
  let lo := e.frame * 65536
  let hi := lo + pageBytes e.size
  w.extractLsb' 12 4 != 0 || e.cache == 3 || decide (lo % pageBytes e.size ≠ 0) || (!e.rem && decide (e.dev ≠ 0)) ||
    (e.rem && decide (e.dev = dev)) || (e.nv && e.rem) || (e.nv != isCask lo) ||
    (!e.priv && decide (lo < restartTop) && decide (caskBase < hi)) ||
    (isDev lo && e.tag) || (decide (lo < caskBase) && decide (devTop < hi)) || isReserved lo

/-- What a walk finds: a page, or where it stopped. -/
inductive WRes where
  | present (e : Pte) (base : Nat)
  | absent (level : Nat) (malformed : Bool)
  deriving DecidableEq, Repr

/-- The levels of R160: number, lowest VA bit, index bits, the leaf SIZE allowed (4: none), bytes of the next table. -/
def walkLevels : List (Nat × Nat × Nat × Nat × Nat) :=
  [(0, 44, 12, 4, 16384), (1, 33, 11, 3, 128), (2, 29, 4, 2, 2048), (3, 21, 8, 1, 256), (4, 16, 5, 0, 0)]

/-- The walk from a table through the levels left. -/
def walkFrom (s : State) (va : Nat) : Nat → List (Nat × Nat × Nat × Nat × Nat) → WRes
  | _, [] => .absent 4 true
  | tab, (lv, sh, bits, leaf, nextSz) :: rest =>
    let r := homeWord64 s (tab + 8 * (va / 2 ^ sh % 2 ^ bits))
    let w := r.1
    if r.2 then .absent lv true
    else if !w.getLsbD 0 then .absent lv false
    else if w.getLsbD 1 then
      (if (pteOf w).size ≠ leaf ∨ leafBad s.dev.toNat w then .absent lv true
       else .present (pteOf w) (va / pageBytes leaf * pageBytes leaf))
    else
      let nxt := (w.extractLsb' 7 37).toNat * 128
      if lv = 4 ∨ w.extractLsb' 44 20 ≠ 0 ∨ w.extractLsb' 2 5 ≠ 0 ∨ nextSz = 0 ∨ nxt % nextSz ≠ 0 ∨ !isDram nxt then .absent lv true
      else walkFrom s va nxt rest

/-- A walk of a context's tables. -/
def walkTables (s : State) (ptroot va : Nat) : WRes := walkFrom s va ptroot walkLevels

/-- The TLB entry of a die for an address of a context (R101). -/
def tlbFind (s : State) (die ctx va : Nat) : Option Pte :=
  match s.tlbs.find? (fun t => t.die = die && t.ctx = ctx && decide (t.base ≤ va) && decide (va < t.base + pageBytes t.e.size)) with
  | some t => some t.e
  | none => none

/-- A TLB's entries with room for a new one: while those that `p` admits are `limit`, one of them goes, which the spec leaves
open (log 58). -/
def tlbRoom (p : TlbE → Bool) (limit pick : Nat) (l : List TlbE) : List TlbE :=
  let n := (l.filter p).length
  if limit ≤ n then dropNth p (pick % n) l else l

/-- The entries of a die's TLB, those of 8 GiB pages among them. -/
def ofDie (die : Nat) (t : TlbE) : Bool := t.die = die
def hugeOf (die : Nat) (t : TlbE) : Bool := t.die = die && t.e.size = 3

/-- A page a walk found enters the die's TLB (R101). -/
def tlbFill (s : State) (die ctx base : Nat) (e : Pte) : State :=
  let pick := Config.unstated s.freeCnt 20
  let l := if e.size = 3 then tlbRoom (hugeOf die) Config.l2Huge pick s.tlbs else s.tlbs
  { s with tlbs := { die := die, ctx := ctx, base := base, e := e } :: tlbRoom (ofDie die) Config.l2Tlb pick l, freeCnt := s.freeCnt + 1 }

/-- The entries of a core's own TLB. -/
def l1Of (s : State) (c : Nat) : List TlbE := (aget s.l1 c).getD []

/-- A page enters a core's own TLB (R101, R102). -/
def l1Fill (s : State) (c ctx base : Nat) (e : Pte) : State :=
  let l := tlbRoom (fun _ => true) Config.l1Tlb (Config.unstated s.freeCnt 21) (l1Of s c)
  { s with l1 := aput s.l1 c ({ die := c / 128, ctx := ctx, base := base, e := e } :: l), freeCnt := s.freeCnt + 1 }

/-- The page of an address of a context as a core translates it: its own TLB first, then its die's (R101). -/
def tlbCore (s : State) (c ctx va : Nat) : Option Pte :=
  match (l1Of s c).find? (fun t => t.ctx = ctx && decide (t.base ≤ va) && decide (va < t.base + pageBytes t.e.size)) with
  | some t => some t.e
  | none => tlbFind s (c / 128) ctx va

/-- The physical address of a virtual one on a page. -/
def paOf (e : Pte) (va : Nat) : Nat := e.frame * 65536 + va % pageBytes e.size

/-- The page of an address as the management cores, the schedulers and a prefetch reach it, and Sparge and the save path once their walks
are over: through the TLB of a die, else through the tables, in one step (log 8). -/
def pageNow (s : State) (die : Nat) (c : Ctx) (va : Nat) : WRes :=
  match tlbFind s die c.num va with
  | some e => .present e (va / pageBytes e.size * pageBytes e.size)
  | none => walkTables s c.ptroot va

/-- The walk of such an access leaves a page that it found in the die's TLB (R101, R102). -/
def tlbTouch (s : State) (die : Nat) (c : Ctx) (va : Nat) : State :=
  if (tlbFind s die c.num va).isSome then s
  else
    match walkTables s c.ptroot va with
    | .present e base => tlbFill s die c.num base e
    | .absent _ _ => s

/-- The 56-bit virtual address and the tag of a pointer (R95). -/
def ptrVa (p : DWord) : Nat := (p.extractLsb' 0 56).toNat
def ptrTag (p : DWord) : BitVec 4 := p.extractLsb' 56 4
def ptrForm (p : DWord) : Bool := p.extractLsb' 60 4 = 0
/-- The pointer at an offset: bits [63:56] stay (R310). -/
def ptrAdd (p : DWord) (off : Int) : DWord :=
  p.extractLsb' 56 8 ++ BitVec.ofInt 56 ((ptrVa p : Int) + off)

/-- The tag check of R104: pointer tag T against memory tag M. -/
def tagOk (t m : BitVec 4) : Bool := m = t || m = 0

end Sys2Proof.Machine
end

