-- ==== Sys2Proof/Machine/Ops.lean ====
section
/-! DEFINITION. The named operations over registers, strands, lanes and counters; events, records and buckets; the exit
of lanes and strands; taking a fault, entering a handler and returning from it. -/

namespace Sys2Proof.Machine

/-! ### Cores, strands, lanes -/

/-- A list with the element at a place changed. -/
def lmod {α : Type} : List α → Nat → (α → α) → List α
  | [], _, _ => []
  | a :: t, 0, f => f a :: t
  | a :: t, n + 1, f => a :: lmod t n f

/-- A vector with bit n at b. -/
def setBit {w : Nat} (x : BitVec w) (n : Nat) (b : Bool) : BitVec w :=
  if b then x ||| (1#w <<< n) else x &&& ~~~(1#w <<< n)

def getCore (s : State) (c : Nat) : Option Core := aget s.cores c
def setCore (s : State) (c : Nat) (x : Core) : State := { s with cores := aput s.cores c x }
def modCore (s : State) (c : Nat) (f : Core → Core) : State := { s with cores := amod s.cores c f }
def getStrand (s : State) (c sl : Nat) : Option Strand := (getCore s c).bind fun x => aget x.strands sl
def modStrand (s : State) (c sl : Nat) (f : Strand → Strand) : State :=
  modCore s c fun x => { x with strands := amod x.strands sl f }

/-- The die and the cluster of a core (R66). -/
def dieOf (c : Nat) : Nat := c / 128
def clusterOf (c : Nat) : Nat := c / 4

def gangOf (s : State) (x : Core) : Option Gang := aget s.gangs x.gid
/-- The context that owns a core's workgroup. -/
def ctxOf (s : State) (x : Core) : Option Ctx := (gangOf s x).bind fun g => aget s.ctxs g.ctx
def modCtx (s : State) (n : Nat) (f : Ctx → Ctx) : State := { s with ctxs := amod s.ctxs n f }
def modGang (s : State) (g : Nat) (f : Gang → Gang) : State := { s with gangs := amod s.gangs g f }

/-- A fresh name. -/
def fresh (s : State) : Nat × State := (s.nextId, { s with nextId := s.nextId + 1 })

/-- An event fires (R44). -/
def fire (s : State) (n : EvName) (a b : Nat) : State := { s with log := { name := n, a := a, b := b } :: s.log }

/-! ### Fields of a launch record (R130) -/

/-- n bytes of a record at an offset, as a number. -/
def recField (raw : List Byte) (off n : Nat) : Nat := bytesNat ((raw.drop off).take n)
def recEntry (raw : List Byte) : BitVec 48 := BitVec.ofNat 48 (recField raw 0 6)
def recGangs (raw : List Byte) : Nat := recField raw 24 4
def recWpg (raw : List Byte) : Nat := recField raw 28 1
def recSpw (raw : List Byte) : Nat := recField raw 29 1
def recBase (raw : List Byte) : Nat := recField raw 30 1
def recPrio (raw : List Byte) : Nat := recField raw 31 1
/-- The scratchpad demand, rounded up to a multiple of 512. -/
def recScr (raw : List Byte) : Nat := (recField raw 32 4 + 511) / 512 * 512
def recLead (raw : List Byte) : Nat := recField raw 36 1 % 16
def recSpan (raw : List Byte) : Bool := recField raw 37 1 % 2 = 1
def recWkind (raw : List Byte) : Nat := recField raw 37 1 / 2 % 4
def recWaddr (raw : List Byte) : DWord := BitVec.ofNat 64 (recField raw 40 8)
def recWval (raw : List Byte) : DWord := BitVec.ofNat 64 (recField raw 48 8)
def recCompl (raw : List Byte) : DWord := BitVec.ofNat 64 (recField raw 56 8)
def recArg (raw : List Byte) : DWord := BitVec.ofNat 64 (recField raw 64 8)

/-- The scratchpad demand of the workgroup a core holds. -/
def scrOf (s : State) (x : Core) : Nat := ((gangOf s x).map fun g => recScr g.raw).getD 0

/-! ### Registers (R45 to R51) -/

/-- Register r of lane l in a frame's registers. -/
def rget (regs : SMap RVal) (r l : Nat) : RVal := sget RVal.zero regs (32 * r + l)
def rset (regs : SMap RVal) (r l : Nat) (v : RVal) : SMap RVal := sset RVal.zero regs (32 * r + l) v

/-- The registers the strand's names refer to: its handler frame, or its current frame (R88). -/
def curRegs (st : Strand) : SMap RVal :=
  match st.handler with
  | some h => h.regs
  | none => (st.frames.head?.map (·.regs)).getD []

/-- Granules of the frame the strand's names refer to. -/
def curGran (st : Strand) : Nat :=
  match st.handler with
  | some _ => 4
  | none => (st.frames.head?.map (·.gran)).getD 0

/-- The model's name of that frame. -/
def curFid (st : Strand) : Nat :=
  match st.handler with
  | some h => h.fid
  | none => (st.frames.head?.map (·.fid)).getD 0

def readV (st : Strand) (r l : Nat) : RVal := rget (curRegs st) r l

/-- A write of the frame named fid, resident or spilled, or of the handler frame; lost when the frame is gone (R63). -/
def writeFid (st : Strand) (fid r l : Nat) (v : RVal) : Strand :=
  match st.handler with
  | some h =>
    if h.fid = fid then { st with handler := some { h with regs := rset h.regs r l v } }
    else { st with frames := st.frames.map fun f => if f.fid = fid then { f with regs := rset f.regs r l v } else f }
  | none => { st with frames := st.frames.map fun f => if f.fid = fid then { f with regs := rset f.regs r l v } else f }

/-- A write of the frame the names refer to. -/
def writeV (st : Strand) (r l : Nat) (v : RVal) : Strand :=
  match st.handler with
  | some h => { st with handler := some { h with regs := rset h.regs r l v } }
  | none =>
    match st.frames with
    | f :: t => { st with frames := { f with regs := rset f.regs r l v } :: t }
    | [] => st

/-- A uniform register: k56 to k63 name the handler bank in a handler (R50). -/
def readK (st : Strand) (n : Nat) : RVal :=
  match st.handler with
  | some h => if 56 ≤ n then sget RVal.zero h.k n else sget RVal.zero st.k n
  | none => sget RVal.zero st.k n

def writeK (st : Strand) (n : Nat) (v : RVal) : Strand :=
  match st.handler with
  | some h =>
    if 56 ≤ n then { st with handler := some { h with k := sset RVal.zero h.k n v } }
    else { st with k := sset RVal.zero st.k n v }
  | none => { st with k := sset RVal.zero st.k n v }

/-- A lane that no list holds. -/
def Lane.idle : Lane :=
  { pcv := 0, st := .exited, p := 0, pp := 0, fpflags := 0, fuel := 0, epc := 0, eaddr := 0, epred := 0, epoison := 0,
    sst := .ready }

def lane (st : Strand) (l : Nat) : Lane := st.lanes.getD l Lane.idle
def modLane (st : Strand) (l : Nat) (f : Lane → Lane) : Strand := { st with lanes := lmod st.lanes l f }

/-- Predicate n of a lane with its poison: p7 reads true (R51). -/
def readP (la : Lane) (n : Nat) : Bool × Bool := if n = 7 then (true, false) else (la.p.getLsbD n, la.pp.getLsbD n)
/-- A write of predicate n; of p7 it is discarded (R51). -/
def writeP (la : Lane) (n : Nat) (v pois : Bool) : Lane :=
  if n = 7 then la else { la with p := setBit la.p n v, pp := setBit la.pp n pois }

/-- Lanes of a mask changed. -/
def modLanes (st : Strand) (m : Word) (f : Lane → Lane) : Strand :=
  { st with lanes := st.lanes.mapIdx fun l la => if inMask m l then f la else la }

/-- Lanes of a mask advance by n bytes (R233). -/
def advLanes (st : Strand) (m : Word) (n : Nat) : Strand :=
  modLanes st m fun la => { la with pcv := la.pcv + BitVec.ofNat 48 n }

/-- The lanes not EXITED (%live). -/
def liveMask (st : Strand) : Word := maskOf fun l => (lane st l).st != .exited
def readyMask (st : Strand) : Word := maskOf fun l => (lane st l).st == .ready

/-! ### Granules (R72 to R74, R93) -/

/-- Physical granules of the general pool that frames of the core hold. -/
def usedGran (x : Core) : List Nat :=
  (x.strands.map fun p => (p.2.frames.map fun f => if f.res then f.phys else []).flatten).flatten ++ (x.pend.map (·.2)).flatten

/-- FREEG (R93). -/
def freeG (x : Core) : Nat := Config.poolSize - (usedGran x).length - x.resv

/-- The n lowest-numbered free granules (R74). -/
def takeGran (x : Core) (n : Nat) : List Nat :=
  let u := usedGran x
  firstFree (fun g => !u.contains g) n Config.poolSize

/-- Handler frames in use, and HFREE (R73). -/
def usedHandlers (x : Core) : List Nat := x.strands.filterMap fun p => p.2.handler.map (·.idx)
def hFree (x : Core) : Nat := 4 - (usedHandlers x).length

/-- Some outstanding operation or job writes into the frame. -/
def fidBusy (x : Core) (fid : Nat) : Bool :=
  x.ops.any (fun o => match o.dest with | .v d _ _ => d = fid | _ => false) ||
    x.jobs.any (fun j => match j.k with | .tmovR _ _ _ (.v d _ _) _ => d = fid | _ => false)

/-- Freed granules return to the pool once no outstanding write goes into their frame (R63). -/
def settlePend (x : Core) : Core := { x with pend := x.pend.filter fun p => fidBusy x p.1 }

/-- A frame's granules leave its strand; FRAME_FREE for a resident frame. -/
def freeFrame (s : State) (c : Nat) (f : Frame) : State :=
  if f.res then
    fire (modCore s c fun x => settlePend { x with pend := (f.fid, f.phys) :: x.pend }) .frameFree c f.fid
  else s

/-! ### MSI-X, the management event queue, buckets -/

/-- MSI-X vector v is raised, or becomes pending while it is masked (R401). -/
def msix (s : State) (v : Nat) : State :=
  if s.masked.contains v then { s with pendMsix := if s.pendMsix.contains v then s.pendMsix else s.pendMsix ++ [v] }
  else { s with hostOut := s.hostOut ++ [.msix v] }

/-- An event for the management event queue (R142). A critical event that finds the kept entries full too is dropped and counts in
LOST, and a kept entry still queued takes room that an ordinary one would have (log 62). -/
def mgmtPost (s : State) (code cls unit count : Nat) : State :=
  let room := if code = 2 ∨ code = 3 ∨ code = 7 then 1088 else 1024
  if s.mgmt.length < room then
    { s with mgmt := s.mgmt ++ [{ code := code, cls := cls, unit := unit, count := count, clock := s.clock }] }
  else { s with lost := s.lost + 1 }

/-- DRAIN, MARK1, MARK2, WINDOW of a class (R179). -/
def bucketParams (s : State) (cls : Nat) : Nat × Nat × Nat × Nat := s.bcfg.getD (cls - 1) (0, 0, 0, 0)

def bucketOf (s : State) (cls unit : Nat) : Bucket :=
  (s.buckets.find? fun b => b.cls = cls && b.unit = unit).getD
    { cls := cls, unit := unit, level := 0, win := none, drained := 0, rows := [], due := none }

/-- The bucket in place of its unit's; a bucket at 0 with no window and nothing due is not listed. -/
def setBucket (s : State) (b : Bucket) : State :=
  let rest := s.buckets.filter fun x => !(x.cls = b.cls && x.unit = b.unit)
  { s with buckets := if b.level = 0 ∧ b.win = none ∧ b.due = none then rest else b :: rest }

/-- Spares of a class and unit that R370 gives. -/
def spareCount (cls : Nat) : Nat :=
  if cls = 1 then 4 else if cls = 2 then 1 else if cls = 3 then 4 else if cls = 4 then 64 else if cls = 6 then 16 else 0

/-- A key for a unit of a class. -/
def unitKey (cls unit : Nat) : Nat := cls * 2 ^ 32 + unit

/-- The bank of an SRAM row: of the scratchpad and the code bank by R111 and R1, of other arrays the part's own (log 69). -/
def rowBank (row : Nat) : Nat :=
  if row / 2 ^ 20 % 16 = 1 then row % 32 else if row / 2 ^ 20 % 16 = 2 then row % 2 ^ 20 / 256 else Config.sramBank row % 2 ^ 20

/-- The key under which spares taken are counted: of a port's lanes, by core and port; of a cluster's arrays, by core, array and
bank (R370). -/
def spareKey (cls unit row : Nat) : Nat :=
  if cls = 2 then unitKey 2 (unit / 64) else if cls = 3 then unitKey 9 (row / 2 ^ 20) * 2 ^ 20 + rowBank row else unitKey cls unit

/-- The unit that a REMAP of a row names (R370). -/
def rowUnit (cls unit row : Nat) : Nat × Nat :=
  if cls = 4 then (8, unit % 256 * 2 ^ 24 + row % 2 ^ 24)
  else if cls = 1 then (9, unit / 256 % 256 * 2 ^ 24 + row % 2 ^ 20)
  else if cls = 3 then (9, row % 2 ^ 32)
  else (cls, unit)

/-- The die whose remap table names a unit (R161). -/
def dieOfUnit (cls unit : Nat) : Nat :=
  if cls = 1 ∨ cls = 2 then unit / 2 ^ 15 % 2 else if cls = 3 then unit / 32 % 2 else if cls = 4 then unit / 128 % 2
  else if cls = 5 then unit / 8 % 2 else if cls = 6 then unit / 64 % 2 else 0

/-- The cluster that contains a unit, for units withdrawn with it (R161). -/
def clusterOfUnit (cls unit : Nat) : Nat :=
  if cls = 1 ∨ cls = 2 then unit / 2 ^ 10 % 64 else if cls = 3 then unit % 64 else unit / 64 % 2 * 32 + unit % 64 / 2

/-- A frame enters the retired-page list; when the list is full the retirement is not recorded (R161). -/
def retireFrame (s : State) (frame : Nat) : State :=
  let n := (contTab s 2).c0.length
  if n < 4096 then contSet s 2 n (BitVec.ofNat 64 (2 ^ 63 + frame % 2 ^ 28)) else s

/-! ### Cores that are free, and the moving of gangs (R36, R39, R371, R372) -/

/-- A core is free: it holds no workgroup, is kept for none, its cluster is neither under test nor withdrawn (R36, R371). -/
def coreFree (s : State) (c : Nat) : Bool :=
  (aget s.cores c).isNone && !(s.gangs.any fun g => g.2.cores.contains c) && (aget s.want c).isNone &&
    !(s.ftest.any fun t => t.cluster = c / 4 && t.running) && !s.withdrawn.contains (c / 4)

def clusterCores (cl : Nat) : List Nat := [4 * cl, 4 * cl + 1, 4 * cl + 2, 4 * cl + 3]

/-- The context of a gang is LIVE. -/
def gangLive (s : State) (g : Gang) : Bool := ((aget s.ctxs g.ctx).map fun c => c.st == .live).getD false

/-- Save indices that SAVED workgroups of a context hold (R32). -/
def saveUsed (s : State) (ctx : Nat) : List Nat :=
  (s.gangs.map fun g => if g.2.ctx = ctx then g.2.saved.map (·.saveIdx) else []).flatten

/-- A PLACED gang that may be saved: its context is LIVE and has save indices for it (R11, R32, R38). -/
def maySave (s : State) (g : Gang) : Bool :=
  g.st == .placed && gangLive s g && decide ((saveUsed s g.ctx).length + g.cores.length ≤ 32768)

/-- Cores kept for a requester: of a record, twice its name; of a gang, twice its name and one (R38). -/
def keepCores (s : State) (who : Nat) (cs : List Nat) : State := { s with want := s.want ++ cs.map fun c => (c, who) }

/-- A gang is asked to migrate off its cores: to the lowest cluster of its die with room, which is kept for it; with none,
to be saved (R39, R372). -/
def requestMove (s : State) (gid : Nat) : State :=
  match aget s.gangs gid with
  | none => s
  | some g =>
    if !maySave s g then s
    else
      let here := (g.cores.map (· / 4)).headD 0
      let room (cl : Nat) : List Nat := ((clusterCores cl).filter (coreFree s)).take g.cores.length
      let ticketFree (cl : Nat) : Bool := !(s.gangs.any fun h => h.1 ≠ gid && h.2.ticket == g.ticket && h.2.cores.any (· / 4 = cl))
      let target := ((List.range 32).map (32 * g.die + ·)).find? fun cl => cl ≠ here && (room cl).length = g.cores.length && ticketFree cl
      let s1 := modGang s gid fun g => { g with st := .saving, since := s.clock.toNat, target := target }
      match target with
      | some cl => keepCores s1 (2 * gid + 1) (room cl)
      | none => s1

/-- The gangs that hold some of the cores. -/
def gangsOn (s : State) (cs : List Nat) : List Nat := (s.gangs.filter fun g => g.2.cores.any cs.contains).map (·.1)

def moveAll (s : State) (cs : List Nat) : State := (gangsOn s cs).foldl requestMove s

/-- A cluster is withdrawn from placement, and its gangs are moved off it (R161, R371). -/
def withdraw (s : State) (cl : Nat) : State :=
  moveAll { s with withdrawn := if s.withdrawn.contains cl then s.withdrawn else s.withdrawn ++ [cl] } (clusterCores cl)

/-! ### REMAP (R161, R371) -/

/-- A spare and a table entry are left for the unit. -/
def spareLeft (s : State) (cls unit row : Nat) : Bool :=
  decide (sget 0 s.spares (spareKey cls unit row) < spareCount cls) && decide ((contTab s (dieOfUnit cls unit)).c0.length < 1024)

/-- The cores that must hold no gang before the unit can be remapped. -/
def remapCores (cls unit row : Nat) : List Nat :=
  if cls = 1 ∨ cls = 2 then [unit / 256 % 256] else if cls = 3 then [row / 2 ^ 24 % 256] else []

/-- A gang of a HALTED context holds a core of the cluster. -/
def haltedOn (s : State) (cl : Nat) : Bool :=
  s.gangs.any fun g => g.2.cores.any (· / 4 = cl) && ((aget s.ctxs g.2.ctx).map fun c => c.st == .halted).getD false

/-- Nothing keeps a REMAP of the unit from taking effect. -/
def remapReady (s : State) (cls unit row : Nat) : Bool :=
  if spareLeft s cls unit row then (remapCores cls unit row).all fun c => (aget s.cores c).isNone
  else cls = 4 || cls = 5 || cls = 7 || !haltedOn s (clusterOfUnit cls unit)

/-- REMAP takes effect: a spare is taken and written in the three copies of the die's remap table, or the unit is retired: a
frame or row to the retired-page list, any other unit with its cluster. The containment machinery has neither spare nor cluster: the
event alone is posted (log 69). -/
def doRemap (s : State) (cls unit row : Nat) : State :=
  let d := dieOfUnit cls unit
  let used := sget 0 s.spares (spareKey cls unit row)
  let u := rowUnit cls unit row
  let s1 := fire s .remap cls unit
  if spareLeft s cls unit row then
    let w : DWord := BitVec.ofNat 64 (2 ^ 63 + u.1 * 2 ^ 48 + u.2 * 2 ^ 16 + used)
    mgmtPost { contSet s1 d (contTab s d).c0.length w with spares := sset 0 s.spares (spareKey cls unit row) (used + 1) } 3 u.1 u.2 used
  else if cls = 4 ∨ cls = 5 then mgmtPost (retireFrame s1 row) 3 u.1 u.2 0
  else if cls = 7 then mgmtPost s1 3 7 unit 0
  else mgmtPost (withdraw s1 (clusterOfUnit cls unit)) 3 3 (clusterOfUnit cls unit) 0

/-- A REMAP follows a second mark: at once, or when the gangs that hold the unit are off it. A test of the cluster under way
decides for it (R374). -/
def startRemap (s : State) (cls unit row : Nat) : State :=
  if (cls = 1 ∨ cls = 2 ∨ cls = 3) ∧ (s.ftest.any fun t => t.cluster = clusterOfUnit cls unit && t.running) then s
  else if remapReady s cls unit row then doRemap s cls unit row
  else moveAll (setBucket s { bucketOf s cls unit with due := some row }) (remapCores cls unit row)

/-- The window of a bucket has run out (R180). -/
def windowDue (s : State) (b : Bucket) : Bool :=
  match b.win with
  | some t => decide (t.toNat + (bucketParams s b.cls).2.2.2 * 2 ^ 24 ≤ s.clock.toNat)
  | none => false

/-- Drain ticks of a bucket that have passed: those of earlier cycles, for in one cycle the raise goes first (R180). -/
def drainTicks (s : State) (b : Bucket) : Nat :=
  let d := (bucketParams s b.cls).1 * 2 ^ 20
  if d = 0 then 0 else (s.clock.toNat - 1 - b.drained.toNat) / d

/-- A bucket as it stands now: what has drained is gone, and a window that has run out is closed. -/
def bucketNow (s : State) (b : Bucket) : Bucket :=
  let b1 := if windowDue s b then { b with win := none, rows := [] } else b
  { b1 with level := b.level - drainTicks s b, drained := b.drained + BitVec.ofNat 64 (drainTicks s b * ((bucketParams s b.cls).1 * 2 ^ 20)) }

/-- A row counts an error. -/
def countRow (rows : List (Nat × Nat)) (row : Nat) : List (Nat × Nat) := aput rows row ((aget rows row).getD 0 + 1)

/-- The row with most counts; of several, the one that the list has first (log 69). -/
def topRow (rows : List (Nat × Nat)) : Nat :=
  (rows.foldl (fun (m : Nat × Nat) r => if m.2 < r.2 then r else m) (0, 0)).1

/-- One counted error of a unit: LEVEL rises, the marks are tested on the raised value (R180). A REMAP takes the row or frame with
most counts in the window (R370), which the error that opens it begins. Drain periods count from when LEVEL leaves 0, and the second
mark ends its window (log 68). -/
def countErr (s : State) (cls unit row : Nat) : State :=
  let b0 := bucketNow s (bucketOf s cls unit)
  let b := if b0.level = 0 then { b0 with drained := s.clock } else b0
  let p := bucketParams s cls
  let lv := if b.level < 0xFFFF then b.level + 1 else b.level
  let rows := countRow b.rows row
  match b.win with
  | none =>
    if lv = p.2.1 then
      let s1 := setBucket s { b with level := lv, win := if p.2.2.2 = 0 then none else some s.clock, rows := if p.2.2.2 = 0 then [] else countRow [] row }
      let s2 := if cls = 3 then { s1 with testSoon := if s1.testSoon.contains unit then s1.testSoon else s1.testSoon ++ [unit] } else s1
      mgmtPost (fire s2 .bucketMark cls unit) 1 cls unit lv
    else setBucket s { b with level := lv }
  | some _ =>
    if lv = p.2.2.1 then
      let s1 := setBucket s { b with level := 0, win := none, rows := [] }
      startRemap (mgmtPost (fire s1 .bucketMark cls unit) 2 cls unit lv) cls unit (topRow rows)
    else setBucket s { b with level := lv, rows := rows }

/-! ### Writes by the device in a context's translation -/

/-- A write within one line at a pointer of a context: checked for presence, PRIV, RO and tags; none where a check fails. -/
def virtWrite (s : State) (die : Nat) (c : Ctx) (p : DWord) (data : List Byte) : Option State :=
  match pageNow s die c (ptrVa p) with
  | .absent _ _ => none
  | .present e _ =>
    let pa := paOf e (ptrVa p)
    let s := tlbTouch s die c (ptrVa p)
    if e.priv || e.ro then none
    else if e.tag && (granules pa data.length).any (fun g => !tagOk (ptrTag p) (homeTag s e g)) then none
    else if e.rem then
      some { s with remote := s.remote ++ [{ id := s.nextId, dev := e.dev, pa := pa, ctx := c.num, core := noCore, ptr := p, lane := 0, slot := 0, pc := 0,
                                               op := none, ask := false, data := data, dest := .none }],
                    nextId := s.nextId + 1 }
    else some (homeWrite s pa data false noCore none)

/-- n bytes at a pointer of a context as a home read, under the checks of a load with the pointer's tag, with the poison
of their granules; or the cause of the failure. -/
def virtRead (s : State) (die : Nat) (c : Ctx) (p : DWord) (n : Nat) : Except Cause (List Byte × Bool) :=
  match pageNow s die c (ptrVa p) with
  | .absent _ _ => .error .pageAbsent
  | .present e _ =>
    let pa := paOf e (ptrVa p)
    if e.priv then .error .priv
    else if e.tag && (granules pa n).any (fun g => !tagOk (ptrTag p) (homeTag s e g)) then .error .tagLd
    else .ok (homeBytes s e pa n, homePois s e pa n)

/-! ### Fault records (R137, R138) -/

/-- The cause codes of R361. -/
def Cause.code : Cause → Nat
  | .illegal => 0x01 | .priv => 0x02 | .misalign => 0x03 | .addrForm => 0x04 | .pageAbsent => 0x05 | .xnFetch => 0x06
  | .tagLd => 0x07 | .tagSt => 0x08 | .roSt => 0x09 | .boundLd => 0x0A | .boundSt => 0x0B | .rangeLock => 0x0C
  | .gangTicket => 0x0D | .phaseFull => 0x0E | .poisonUse => 0x0F | .pipeErr => 0x10 | .frameDepth => 0x11
  | .nopreExpired => 0x12 | .swtrap => 0x13

/-- What a context fault record names (R137). -/
structure FRec where
  cause : Cause
  flags : Nat
  gang : Nat
  wg : Nat
  strand : Nat
  lane : Nat
  word : Word
  pc : BitVec 48
  addr : DWord
  detail : Word
  core : Nat
  compl : DWord
  deriving DecidableEq, Repr

/-- The 64 bytes of a record (R137). -/
def recordBytes (s : State) (c : Ctx) (r : FRec) : List Byte :=
  natBytes c.num 2 ++ natBytes r.cause.code 1 ++ natBytes r.flags 1 ++ natBytes r.gang 4 ++ natBytes r.wg 1 ++
    natBytes r.strand 1 ++ natBytes r.lane 1 ++ natBytes 0 1 ++ natBytes r.word.toNat 4 ++ natBytes r.pc.toNat 8 ++
    natBytes r.addr.toNat 8 ++ natBytes r.detail.toNat 4 ++ natBytes r.core 4 ++ natBytes s.clock.toNat 8 ++
    natBytes r.compl.toNat 8 ++ natBytes c.seq.toNat 4 ++ natBytes 0 4

/-- OVERRUN rises by 1, saturating. -/
def overrun (s : State) (c : Ctx) (old : Nat) : State :=
  (virtWrite s 0 c (ptrAdd c.fqaddr 8) (natBytes (if old < 0xFFFFFFFF then old + 1 else old) 4)).getD s

/-- A context fault record is written at slot SEQ mod 2ⁿ and PROD advances; a full queue or an unreachable slot counts in
OVERRUN; SEQ advances always (R138). -/
def faultRecord (s : State) (cn : Nat) (r : FRec) : State :=
  match aget s.ctxs cn with
  | none => s
  | some c =>
    let adv (t : State) : State := modCtx t cn fun x => { x with seq := x.seq + 1 }
    match virtRead s 0 c c.fqaddr 12 with
    | .error _ => adv s
    | .ok (h, _) =>
      let prod : Word := BitVec.ofNat 32 (recField h 0 4)
      let cons : Word := BitVec.ofNat 32 (recField h 4 4)
      if (prod - cons).toNat = 2 ^ c.fqlog then adv (overrun s c (recField h 8 4))
      else
        if (virtWrite s 0 c c.fqaddr (natBytes (prod + 1).toNat 4)).isNone then adv s
        else
          match virtWrite s 0 c (ptrAdd c.fqaddr (64 + 64 * (c.seq.toNat % 2 ^ c.fqlog))) (recordBytes s c r) with
          | none => adv (overrun s c (recField h 8 4))
          | some s1 => adv ((virtWrite s1 0 c c.fqaddr (natBytes (prod + 1).toNat 4)).getD s1)

/-- A record of a lane of a strand. -/
def laneRec (s : State) (cid slot : Nat) (x : Core) (f : LFault) (flags : Nat) (word : Word) (pc : BitVec 48) : FRec :=
  let g := gangOf s x
  { cause := f.cause, flags := flags, gang := (g.map (·.index)).getD 0, wg := x.wg, strand := slot, lane := f.lane,
    word := word, pc := pc, addr := f.addr, detail := f.detail, core := cid, compl := (g.map fun g => recCompl g.raw).getD 0 }

/-- The record is written to the queue of the context that owns the core. -/
def coreRecord (s : State) (x : Core) (r : FRec) : State :=
  match gangOf s x with
  | some g => faultRecord s g.ctx r
  | none => s

def flagImpr : Nat := 1
def flagStale : Nat := 2
def flagHandler : Nat := 4
def flagLaunch : Nat := 8
def flagReject : Nat := 16
def flagHalt : Nat := 32
def flagRto : Nat := 64

/-! ### Completion blocks (R40, R131) -/

/-- The check of a record's completion block: the cause that fails it, or none. -/
def complCheck (s : State) (die : Nat) (c : Ctx) (p : DWord) : Option Cause :=
  if p.extractLsb' 48 16 ≠ 0 ∨ p.toNat % 16 ≠ 0 then some .addrForm
  else
    match pageNow s die c (ptrVa p) with
    | .absent _ _ => some .pageAbsent
    | .present e _ =>
      if e.priv then some .priv else if e.ro then some .roSt
      else if e.tag && !tagOk 0 (homeTag s e (paOf e (ptrVa p) / 32)) then some .tagSt else none

/-- n is added to the counter of a completion block. -/
def complAdd (s : State) (die : Nat) (c : Ctx) (p : DWord) (n : Nat) : State :=
  match virtRead s die c p 8 with
  | .ok (b, _) => (virtWrite s die c p (natBytes (bytesNat b + n) 8)).getD s
  | .error _ => s

/-- The status word of a completion block is written. -/
def complStatus (s : State) (die : Nat) (c : Ctx) (p : DWord) (st : Nat) : State :=
  (virtWrite s die c (ptrAdd p 8) (natBytes st 4)).getD s

/-- A record is removed with a status: the count of its unplaced gangs is added at once, then the status is written (R40). -/
def complRemove (s : State) (die : Nat) (c : Ctx) (q : QRec) (st : Nat) : State :=
  complStatus (complAdd s die c (recCompl q.raw) (recGangs q.raw - q.next)) die c (recCompl q.raw) st

/-! ### CONTEXT_HALT (R11, R132) -/

/-- A removed record of a halted context: its block is checked if it was not, and written when it passes. -/
def haltRecord (s : State) (die : Nat) (c : Ctx) (q : QRec) : State :=
  if q.checked || (complCheck s die c (recCompl q.raw)).isNone then complRemove s die c q 0x41 else s

/-- CONTEXT_HALT fires in a LIVE context; `seq` is the SEQ of the first record with FLAGS.HALT. -/
def ctxHalt (s : State) (cn : Nat) (seq : Word) : State :=
  match aget s.ctxs cn with
  | none => s
  | some c =>
    if c.st = .live then
      let s1 := s.queues.foldl (fun s q => (q.2.filter fun r => r.ctx = cn).foldl (fun s r => haltRecord s (q.1 / 64) c r) s) s
      let s2 := { s1 with queues := s1.queues.map fun q => (q.1, q.2.filter fun r => r.ctx ≠ cn) }
      let s3 := modCtx s2 cn fun x => { x with st := .halted }
      msix (mgmtPost (fire s3 .contextHalt cn 0) 6 11 cn seq.toNat) 4
    else s

/-! ### Barriers (R174, R265, R266) -/

/-- The wait of a lane in the interrupted code ends: READY, and the instruction is passed by `n` bytes. In a handler the
saved state is what changes (R363). -/
def releaseIn (inH : Bool) (n : Nat) (la : Lane) : Lane :=
  if inH then { la with sst := .ready, epc := la.epc + BitVec.ofNat 48 n }
  else { la with st := .ready, pcv := la.pcv + BitVec.ofNat 48 n }

/-- The state of a lane in the interrupted code. -/
def outerState (inH : Bool) (la : Lane) : LaneState := if inH && la.st != .exited then la.sst else la.st

/-- Lanes parked on a barrier become READY. -/
def releaseBar (st : Strand) (w : Wait) : Strand :=
  let inH := st.handler.isSome
  { st with arrived := none,
            lanes := st.lanes.map fun la => if outerState inH la = .parked w then releaseIn inH 4 la else la }

def barOf (l : List (Nat × Bar)) (b : Nat) : Bar := (aget l b).getD { arr := 0, exp := 0, gen := 0, all := false, who := [] }

/-- Collectives of the core's workgroup still complete: its context is LIVE (R269). -/
def coreLive (s : State) (x : Core) : Bool := (gangOf s x).any (gangLive s)

/-- BARRIER_DONE when ARR equals EXP in a LIVE context (R269): GEN rises, ARR returns to 0, the lanes that arrived become READY. -/
def barComplete (s : State) (c b : Nat) : State :=
  match getCore s c with
  | none => s
  | some x =>
    let r := barOf x.bars b
    if 0 < r.arr ∧ r.arr = r.exp ∧ coreLive s x then
      let x1 := { x with bars := aput x.bars b { r with arr := 0, exp := 0, gen := r.gen + 1, who := [] },
                         strands := x.strands.map fun p => (p.1, if r.who.contains p.1 then releaseBar p.2 (.bar b) else p.2) }
      fire (setCore s c x1) .barrierDone c b
    else s

/-- Every live lane of the strand is parked on a wait of barrier kind, outside any handler. -/
def allParked (st : Strand) (w : Wait) : Bool :=
  st.handler.isNone && liveMask st ≠ 0 && st.lanes.all fun la => la.st == .exited || la.st == .parked w

/-- The count that the last BAR of a strand on barrier b named. -/
def barCount (st : Strand) (b : Nat) : Nat := (aget st.barN b).getD 0

/-- The arrival of a strand at barrier b when all its live lanes are parked there (R265). -/
def barArrive (s : State) (c sl b : Nat) : State :=
  match getCore s c with
  | none => s
  | some x =>
    match aget x.strands sl with
    | none => s
    | some st =>
      if st.arrived.isNone && allParked st (.bar b) then
        let r := barOf x.bars b
        let first := r.arr = 0
        let r1 := { r with arr := r.arr + 1, who := r.who ++ [sl],
                           exp := if first then (if barCount st b = 0 then x.strands.length else barCount st b) else r.exp,
                           all := if first then barCount st b = 0 else r.all }
        let x1 := { x with bars := aput x.bars b r1, strands := amod x.strands sl fun t => { t with arrived := some b } }
        barComplete (setCore s c x1) c b
      else s

/-- The arrival of a workgroup at a copy of a gang barrier is on its way. -/
def gbarComing (s : State) (c b wg : Nat) : Bool :=
  s.msgs.any fun m => match m.2 with | .gbar d _ q w => d = c && q = b && w = wg | _ => false

/-- EXP of a core's copy of gang barrier b: the workgroups but those that exited without having arrived in this generation (R174). -/
def gbarExp (s : State) (c b : Nat) (g : Gang) (r : Bar) : Nat :=
  g.cores.length - (g.ended.filter fun w => !r.who.contains w && !gbarComing s c b w).length

/-- Gang barrier b of a core completes when ARR equals EXP in a LIVE context (R269); the event fires on the first core of the gang
to see it. -/
def gbarComplete (s : State) (c b : Nat) : State :=
  match getCore s c with
  | none => s
  | some x =>
    match gangOf s x with
    | none => s
    | some g =>
      let r := barOf x.gbars b
      if 0 < r.arr ∧ gbarExp s c b g r ≤ r.arr ∧ gangLive s g then
        let x1 := { x with gbars := aput x.gbars b { r with arr := 0, gen := r.gen + 1, who := [] },
                           strands := x.strands.map fun p => (p.1, releaseBar p.2 (.gbar b)) }
        if g.cores.any fun d => d ≠ c && ((getCore s d).any fun y => decide (r.gen < (barOf y.gbars b).gen)) then setCore s c x1
        else fire (setCore s c x1) .barrierDone c (16 + b)
      else s

/-- An arrival of workgroup `wg` counts on a core's copy of gang barrier b. -/
def gbarCount (s : State) (c b wg : Nat) : State :=
  gbarComplete (modCore s c fun x =>
    let r := barOf x.gbars b
    { x with gbars := aput x.gbars b { r with arr := r.arr + 1, who := r.who ++ [wg] } }) c b

/-- A strand has unretired STR operations (R266). -/
def hasStr (x : Core) (st : Strand) : Bool :=
  x.ops.any (fun o => o.sid = st.sid && o.k = .str) || x.sq.any fun e => e.sid = st.sid && e.str

/-- The arrival of a workgroup of a LIVE context at gang barrier b: every live strand has reached it, its STRs are acknowledged, and
it has not arrived in this generation (R266, R269). It counts on its own core and goes to the others. -/
def gbarArrive (s : State) (c b : Nat) : State :=
  match getCore s c with
  | none => s
  | some x =>
    match gangOf s x with
    | none => s
    | some g =>
      if !x.strands.isEmpty && x.strands.all (fun p => allParked p.2 (.gbar b) && !hasStr x p.2) &&
          !(barOf x.gbars b).who.contains x.wg && gangLive s g then
        let others := g.cores.filter (· ≠ c)
        let s1 := others.foldl (fun s d =>
          { s with msgs := s.msgs ++ [(s.nextId, .gbar d g.ticket b x.wg)], nextId := s.nextId + 1 }) s
        gbarCount s1 c b x.wg
      else s

/-- Every barrier arrival that a change of a core's lanes may have completed. -/
def settleBars (s : State) (c sl : Nat) : State :=
  let s1 := (List.range 16).foldl (fun s b => barArrive s c sl b) s
  (List.range 4).foldl (fun s b => gbarArrive s c b) s1

/-! ### PHASE: arrival and the lead test (R27 to R29, R172, R173) -/

/-- Phase x counts as at or after phase y (R172). -/
def phaseGe (x y : Word) : Bool := decide ((x - y).toNat < 2 ^ 31)

/-- The lead test of a workgroup (R29). -/
def leadOk (s : State) (x : Core) : Bool :=
  let a := ((gangOf s x).map fun g => recLead g.raw).getD 1
  x.leadv.all fun e => match e.val with
    | none => true
    | some v => phaseGe v (x.phase + 1 - BitVec.ofNat 32 a)

/-- The open Cask segment closes and the next opens; closing an empty one has no effect (R119, R333). The numbers of a
core's segments go on from one workgroup to the next. -/
def closeSeg (s : State) (c : Nat) : State :=
  match getCore s c with
  | some x =>
    if x.segOpen then { modCore s c fun x => { x with seg := x.seg + 1, segOpen := false } with segs := sset 0 s.segs c (x.seg + 1) }
    else s
  | none => s

/-- Step 2 of R27 when it passes: the open segment closes and publication begins; LEAD_STALL at its first failure. -/
def tryLead (s : State) (c : Nat) : State :=
  match getCore s c with
  | none => s
  | some x =>
    match x.pst with
    | .leadWait final dur stalled =>
      if leadOk s x then closeSeg (modCore s c fun x => { x with pst := .publishing final dur }) c
      else if stalled then s
      else fire (modCore s c fun x => { x with pst := .leadWait final dur true }) .leadStall c 0
    | _ => s

/-- A strand counts as arrived at PHASE (R85). -/
def atPhase (st : Strand) : Bool :=
  match st.st with
  | .atPhase => true
  | .parkedWhole b _ => b
  | _ => false

/-- Step 1 of R27: every live strand has arrived, or the last has exited. -/
def tryPhase (s : State) (c : Nat) : State :=
  match getCore s c with
  | none => s
  | some x =>
    if x.pst = .running ∧ x.strands.all (fun p => atPhase p.2) then
      tryLead (modCore s c fun x =>
        { x with pst := .leadWait x.strands.isEmpty (x.strands.any fun p => p.2.dur) false }) c
    else s

/-! ### The end of strands (R18, R22, R40, R248) -/

/-- Store-fault records of a strand that exits are written as if the action were KILL (R18): its lanes have exited. -/
def flushDue (s : State) (cid slot : Nat) (x : Core) (due : List Due) : State :=
  due.foldl (fun s d => match d with
    | .store _ pc _ lanes _ => lanes.foldl (fun s f => coreRecord s x (laneRec s cid slot x f (flagImpr + flagStale) 0 pc)) s
    | .nopre => s) s

/-- A workgroup has exited: its gang's barriers lose it, and the gang drains when it was the last (R40, R174). -/
def wgExit (s : State) (c : Nat) : State :=
  match getCore s c with
  | none => s
  | some x =>
    match gangOf s x with
    | none => s
    | some g =>
      let g1 := { g with ended := x.wg :: g.ended }
      let all := g1.ended.length = g1.cores.length
      let g2 := if all then { g1 with st := .draining } else g1
      let s1 := { s with gangs := aput s.gangs x.gid g2 }
      let s2 := if all then fire s1 .gangDrain g.gid 0 else s1
      let s3 := g.cores.foldl (fun s d => (List.range 4).foldl (fun s b => gbarComplete s d b) s) s2
      if all then g.cores.foldl tryLead s3 else s3

/-- EXP of barriers that count all live strands falls by one for a strand that has not arrived (R174). -/
def lowerBars (s : State) (c : Nat) (arrived : Option Nat) : State :=
  (List.range 16).foldl (fun s b =>
    if arrived = some b then s
    else
      barComplete (modCore s c fun x =>
        let r := barOf x.bars b
        if r.all ∧ 0 < r.arr then { x with bars := aput x.bars b { r with exp := r.exp - 1 } } else x) c b) s

/-- STRAND_EXIT: due records are written, frames freed, the slot becomes FREE, barriers and the phase see it. -/
def strandExit (s : State) (c sl : Nat) : State :=
  match getCore s c with
  | none => s
  | some x =>
    match aget x.strands sl with
    | none => s
    | some st =>
      let s1 := flushDue s c sl x st.due
      let s2 := modCore s1 c fun x => { x with strands := adel x.strands sl }
      let s2 := match st.handler with | some h => fire s2 .frameFree c h.fid | none => s2
      let s3 := st.frames.foldl (fun s f => freeFrame s c f) s2
      let s4 := lowerBars (fire s3 .strandExit c sl) c st.arrived
      let s5 := (List.range 4).foldl (fun s b => gbarArrive s c b) s4
      tryPhase (if ((getCore s5 c).map fun x => x.strands.isEmpty).getD false then wgExit s5 c else s5) c

/-- Lanes move to EXITED; a strand with no live lane ends (R18, R248). -/
def exitLanes (s : State) (c sl : Nat) (m : Word) : State :=
  let s1 := modStrand s c sl fun st => modLanes st m fun la => { la with st := .exited, sst := .exited }
  match getStrand s1 c sl with
  | none => s1
  | some st => if liveMask st = 0 then strandExit s1 c sl else settleBars s1 c sl

/-! ### Faults (R19, R67, R361 to R363) -/

/-- The field of %trapctl that governs a cause (R67). -/
def Cause.field : Cause → Nat
  | .illegal | .priv => 0 | .addrForm | .xnFetch => 1 | .tagLd | .tagSt => 2 | .roSt => 3 | .boundLd | .boundSt => 4
  | .rangeLock => 5 | .gangTicket => 6 | .phaseFull => 7 | .poisonUse => 8 | .pipeErr => 9 | .frameDepth => 10
  | .nopreExpired => 11 | .swtrap => 12 | .misalign | .pageAbsent => 13

/-- The action for a cause; TRAP with %trapvec 0 is handled as KILL. -/
def actionOf (x : Core) (k : Cause) : Action :=
  let a := x.trapctl.extractLsb' (2 * k.field) 2
  if a = 2 then .halt else if a = 1 ∧ x.trapvec ≠ 0 then .trap else .kill

/-- TRAP_ENTRY (R363): a handler frame is bound and zero-filled, the lanes are saved and start at %trapvec. -/
def trapEnter (s : State) (c sl : Nat) : State :=
  match getCore s c with
  | none => s
  | some x =>
    match aget x.strands sl with
    | none => s
    | some st =>
      match st.trapPend, lowest (fun h => !(usedHandlers x).contains h) 4 with
      | some t, some h =>
        let save (l : Nat) (la : Lane) : Lane :=
          if la.st = .exited then la
          else { la with epc := la.pcv, eaddr := if inMask t.mask l then ((aget t.addrs l).getD 0) else 0,
                         epred := la.p, epoison := la.pp, sst := if la.st = .yielded then .ready else la.st,
                         p := 0, pp := 0, st := .ready, pcv := x.trapvec }
        let hd : Handler :=
          { fid := s.nextId, idx := h, regs := [], k := [], emask := t.mask,
            ecause := BitVec.ofNat 32 (t.cause.code + 256 * t.ilen + (if t.impr then 2048 else 0)), eword := t.word }
        let st1 := { st with lanes := st.lanes.mapIdx save, handler := some hd, trapPend := none, st := .inHandler, eff := 255 }
        let s1 := setCore { s with nextId := s.nextId + 1 } c { x with strands := aput x.strands sl st1 }
        fire s1 .trapEntry c sl
      | _, _ => s

/-- The strand waits for the answers of a SIGINS.drop (R356). -/
def dropping (st : Strand) : Bool :=
  match st.hold with
  | some h => (match h.k with | .drop _ => true | _ => false)
  | none => false

/-- A strand whose trap waits for a handler frame only (R88): not for its reload, for the answers of a SIGINS.drop (R356),
or, AT_PHASE, for the release of its phase (log 59). -/
def trapWaits (st : Strand) : Bool :=
  st.trapPend.isSome && !dropping st && (match st.st with | .parkedWhole _ _ => false | .atPhase => false | _ => true)

/-- No other strand of the core waits for a handler frame ahead of this one: trap entry is at once. -/
def handlerFree (x : Core) (sl : Nat) : Bool :=
  decide (0 < hFree x) && x.strands.all fun p => p.1 = sl || !trapWaits p.2

/-- A strand leaves BLOCKED for a fault; a reload stays requested, a call does not (R82). A strand PARKED_WHOLE stays so until
its reload (log 26). -/
def unblock (st : Strand) : Strand :=
  let block := match st.block with | some b => if b.call.isSome then none else some b | none => none
  match st.st with
  | .blocked => { st with st := .running, block := block }
  | .parkedWhole _ _ => { st with block := block }
  | _ => st

/-- A trap becomes pending; it is entered at once when a handler frame is free and nobody waits for one (R88). After a
SIGINS.drop the answers land first (R356). A call that blocks for the other lanes of its instruction is given up (R82, log 59). -/
def trapTake (s : State) (c sl : Nat) (t : TrapPend) : State :=
  let s1 := modStrand s c sl fun st => unblock { st with trapPend := some t, hold := if dropping st then st.hold else none }
  match coreAndStrand s1 c sl with
  | none => s1
  | some (x, st) => if handlerFree x sl && trapWaits st then trapEnter s1 c sl else s1
where
  coreAndStrand (s : State) (c sl : Nat) : Option (Core × Strand) :=
    match getCore s c with
    | none => none
    | some x => (aget x.strands sl).map fun st => (x, st)

/-- Faults in lane order. -/
def insFault (f : LFault) : List LFault → List LFault
  | [] => [f]
  | g :: t => if f.lane ≤ g.lane then f :: g :: t else g :: insFault f t
def sortFaults (l : List LFault) : List LFault := l.foldr insFault []

/-- A fault in a handler: every lane exits, one record with FLAGS.HANDLER names the lowest lane that faulted (R19). -/
def handlerFault (s : State) (c sl : Nat) (x : Core) (st : Strand) (fl : List LFault) (word : Word) : State :=
  match sortFaults fl with
  | [] => s
  | f :: _ =>
    let s1 := coreRecord s x (laneRec s c sl x f flagHandler word (lane st f.lane).pcv)
    let m := liveMask st
    exitLanes ((lanesOf m).foldl (fun s l => fire s .laneKill c (64 * sl + l)) s1) c sl m

/-- Lanes exit under KILL, each with its record (R362 step 2). -/
def killLanes (s : State) (c sl : Nat) (x : Core) (st : Strand) (fl : List LFault) (flags : Nat) (word : Word)
    (pc : Option (BitVec 48)) : State :=
  let s1 := (sortFaults fl).foldl (fun s f =>
    fire (coreRecord s x (laneRec s c sl x f flags word (pc.getD (lane st f.lane).pcv))) .laneKill c (64 * sl + f.lane)) s
  exitLanes s1 c sl (maskOf fun l => fl.any fun f => f.lane = l)

/-- Records with FLAGS.HALT, then CONTEXT_HALT (R362 step 3). -/
def haltLanes (s : State) (c sl : Nat) (x : Core) (st : Strand) (fl : List LFault) (flags : Nat) (word : Word)
    (pc : Option (BitVec 48)) : State :=
  match gangOf s x with
  | none => s
  | some g =>
    let seq := ((aget s.ctxs g.ctx).map (·.seq)).getD 0
    let s1 := (sortFaults fl).foldl (fun s f => coreRecord s x (laneRec s c sl x f (flags + flagHalt) word (pc.getD (lane st f.lane).pcv))) s
    ctxHalt s1 g.ctx seq

/-- The lowest cause code among faults. -/
def lowestCause : List LFault → Option Cause
  | [] => none
  | f :: t => match lowestCause t with
    | none => some f.cause
    | some k => if f.cause.code ≤ k.code then some f.cause else some k

/-- The faulting lanes of one instruction are resolved (R362, steps 2 to 4), in lane order: KILL, HALT, TRAP; in a handler
R19 applies. `word` and `ilen` are W0 and the length in words. -/
def raiseFaults (s : State) (c sl : Nat) (fl : List LFault) (word : Word) (ilen : Nat) : State :=
  match getCore s c with
  | none => s
  | some x =>
    match aget x.strands sl with
    | none => s
    | some st =>
      if fl.isEmpty then s
      else if st.handler.isSome then handlerFault s c sl x st fl word
      else
        let by_ (a : Action) := fl.filter fun f => actionOf x f.cause = a
        let s1 := if (by_ .kill).isEmpty then s else killLanes s c sl x st (by_ .kill) 0 word none
        if !(by_ .halt).isEmpty then haltLanes s1 c sl x st (by_ .halt) 0 word none
        else
          match lowestCause (by_ .trap) with
          | none => s1
          | some k =>
            let hit := (by_ .trap).filter fun f => f.cause = k
            trapTake s1 c sl
              { cause := k, mask := maskOf fun l => hit.any fun f => f.lane = l, word := word, ilen := ilen, impr := false,
                addrs := hit.map fun f => (f.lane, f.addr), since := s.clock.toNat }

/-- TRAP_RETURN (R256): each live lane returns to its saved state at %epc, the bank and the frame are the strand's own. -/
def trapReturn (s : State) (c sl : Nat) : State :=
  let fid := ((getStrand s c sl).bind fun st => st.handler.map (·.fid)).getD 0
  let s1 := modStrand s c sl fun st =>
    let back (la : Lane) : Lane :=
      if la.st = .exited then la
      else { la with pcv := la.epc, p := la.epred, pp := la.epoison, st := la.sst }
    { st with lanes := st.lanes.map back, handler := none, st := if st.block.isSome then .blocked else .running,
              eff := st.prio, hold := none }
  settleBars (fire (fire s1 .trapReturn c sl) .frameFree c fid) c sl

/-! ### Counters: retirement and the waits it ends (R168, R169, R270 to R272) -/

/-- Operations of a class outstanding: LD, ST, CP, TL, TAGn. -/
def outCount (st : Strand) (k : Cls) : Nat := (st.out.filter fun o => o.cls = k).length

/-- Retired operations leave in issue order within their class; `open_` the classes with an older one outstanding. -/
def retireList : List Out → List Cls → List Out
  | [], _ => []
  | o :: t, blocked =>
    if blocked.contains o.cls then o :: retireList t blocked
    else if o.done then retireList t blocked
    else o :: retireList t (o.cls :: blocked)

/-- The wait of a strand instruction is over. -/
def holdOver (x : Core) (st : Strand) (h : Hold) : Bool :=
  match h.k with
  | .sleep n => n = 0
  | .wait a b c d => decide (outCount st .ld ≤ a) && decide (outCount st .st ≤ b) && decide (outCount st .cp ≤ c) && decide (outCount st .tl ≤ d)
  | .waitt t n => decide (outCount st (.tag t) ≤ n)
  | .sdrain q => !(x.sq.any fun e => e.sid = st.sid && decide (e.seq < q))
  | .rgnclr r => (aget x.regions r).isNone
  | .remote ids => ids.isEmpty
  | .emul n => !(x.ops.any fun o => o.sid = st.sid && decide (n ≤ o.id)) && !(x.sq.any fun e => e.sid = st.sid && decide (n ≤ e.id))
  | _ => false

/-- A wait that is over ends, and its lanes advance. -/
def settleHold (s : State) (c sl : Nat) : State :=
  match getCore s c with
  | none => s
  | some x =>
    match aget x.strands sl with
    | none => s
    | some st =>
      match st.hold with
      | none => s
      | some h =>
        if holdOver x st h then setCore s c { x with strands := aput x.strands sl (advLanes { st with hold := none, bnd := !st.due.isEmpty } h.mask h.len) }
        else s

/-- Every wait of a core that is over ends. -/
def settleHolds (s : State) (c : Nat) : State :=
  match getCore s c with
  | none => s
  | some x => x.strands.foldl (fun s p => settleHold s c p.1) s

/-- An operation is issued: its strand counts it. -/
def issueOut (st : Strand) (k : Cls) (id : Nat) : Strand := { st with out := st.out ++ [{ cls := k, id := id, done := false }] }

/-- An operation is done: it retires when every older one of its class has. -/
def retireOut (s : State) (c sl id : Nat) : State :=
  let s1 := modStrand s c sl fun st =>
    { st with out := retireList (st.out.map fun o => if o.id = id then { o with done := true } else o) [] }
  settleHold s1 c sl

/-! ### Results that land (R60 to R63) -/

/-- Word i of a destination lands in a lane: in the frame, bank or predicates that held it at issue. A predicate of the interrupted
code lands in %epred while a handler runs; what a handler's predicate or k56 to k63 was to take after its return is discarded (R60
does not say: log 71). -/
def landOne (st : Strand) (d : Dest) (l i : Nat) (v : RVal) : Strand :=
  match d with
  | .none => st
  | .flags => modLane st l fun la => { la with fpflags := la.fpflags ||| v.v.extractLsb' 0 9 }
  | .v fid r n => if i < n then writeFid st fid (r + i) l v else st
  | .k r n h =>
    if i < n then
      (if 56 ≤ r + i then
        (match h, st.handler with
         | none, none => { st with k := sset RVal.zero st.k (r + i) v }
         | none, some _ => { st with k := sset RVal.zero st.k (r + i) v }
         | some f, some hd => if hd.fid = f then { st with handler := some { hd with k := sset RVal.zero hd.k (r + i) v } } else st
         | some _, none => st)
       else { st with k := sset RVal.zero st.k (r + i) v })
    else st
  | .pred n h =>
    if i ≠ 0 ∨ n = 7 then st
    else
      (match h, st.handler with
       | none, none => modLane st l fun la => writeP la n (v.v.getLsbD 0) v.p
       | none, some _ => modLane st l fun la => { la with epred := setBit la.epred n (v.v.getLsbD 0), epoison := setBit la.epoison n v.p }
       | some f, some hd => if hd.fid = f then modLane st l fun la => writeP la n (v.v.getLsbD 0) v.p else st
       | some _, none => st)

end Sys2Proof.Machine
end

