-- ==== Sys2Proof/Machine/Operands.lean ====
section
/-! DEFINITION. Operand forms, guards, the checks of R242 that the frame decides, and the two ways an instruction acts:
lane by lane (`runLanes`) and once for the strand (`runStrand`, R246). -/

namespace Sys2Proof.Machine

/-- The registers a field names lie in a frame of g granules (R46, R231). -/
def useFits (u : Use) (n : BitVec 8) (k : Bool) (g : Nat) : Bool :=
  match u with
  | .val w _ => k || decide (n.toNat + w ≤ 8 * g)
  | _ => true

/-- Every lane register the instruction names lies in the frame (R46). -/
def fits (sp : Spec) (f : Form) (g : Nat) : Bool :=
  useFits sp.dst f.dst f.dk g && useFits sp.sa f.sa f.kca g && (f.hasLit || useFits sp.sb f.sb f.kcb g) &&
    useFits sp.sc f.c (f.ext && f.kcc) g

/-- The strand that issues, with its core. -/
def issuer (s : State) : Option (Core × Strand × Cur) :=
  match s.cur with
  | none => none
  | some u =>
    match getCore s u.core with
    | none => none
    | some x => (aget x.strands u.slot).map fun st => (x, st, u)

/-- A fault of cause k with address 0 for each lane of a mask. -/
def faultEach (m : Word) (k : Cause) (addr : DWord) : List LFault :=
  (lanesOf m).map fun l => { lane := l, cause := k, addr := addr, detail := 0 }

/-- ILLEGAL for every lane at the issue address, whatever its guard (R242). -/
def illegalAll (s : State) (u : Cur) : State := raiseFaults s u.core u.slot (faultEach u.mask .illegal 0) u.w0 u.ilen

/-- The step of an instruction: `k` when the registers it names lie in the frame, else ILLEGAL (R46). -/
def onIssue (i : Instr) (f : Form) (s : State) (k : Core → Strand → Cur → State) : Host.Outcome State Fault Refusal :=
  match issuer s with
  | none => .fault .noIssuer
  | some (x, st, u) =>
    if (i.spec.map fun sp => fits sp f (curGran st)).getD true then .next (k x st u) else .next (illegalAll s u)

/-- The guard of a lane, and its poison (R233). -/
def guardOf (f : Form) (la : Lane) : Bool × Bool :=
  let r := readP la f.gp.toNat
  (r.1 != f.gn, r.2)

/-! ### Sources -/

def rd32 (st : Strand) (n : Nat) (k : Bool) (l : Nat) : RVal := if k then readK st n else readV st n l
/-- A pair N, N + 1, low word in N; poisoned when either word is (R57, R231). -/
def rd64 (st : Strand) (n : Nat) (k : Bool) (l : Nat) : WVal :=
  let a := rd32 st n k l
  let b := rd32 st (n + 1) k l
  { v := b.v ++ a.v, p := a.p || b.p }
/-- A source of w registers, zero-extended. -/
def rdW (st : Strand) (n : Nat) (k : Bool) (l w : Nat) : WVal :=
  if w = 0 then { v := 0, p := false }
  else if w = 1 then (let a := rd32 st n k l; { v := a.v.setWidth 64, p := a.p })
  else rd64 st n k l

def opA (f : Form) (st : Strand) (l w : Nat) : WVal := rdW st f.sa.toNat f.kca l w
/-- The second source: SB, or the literal in its place (R237). -/
def opB (f : Form) (st : Strand) (l w : Nat) : WVal :=
  if f.hasLit && w != 0 then { v := if w = 1 then (f.lit.extractLsb' 0 32).setWidth 64 else f.lit, p := false }
  else rdW st f.sb.toNat f.kcb l w
/-- The third source: SC, or in a form without W1 the register DST names (R234). -/
def opC (f : Form) (st : Strand) (l w : Nat) : WVal := rdW st f.c.toNat (f.ext && f.kcc) l w
/-! ### Lane instructions -/

/-- What a lane's computation gives: destination words, a predicate with its poison, flags to set. -/
structure LaneOut where
  vals : List RVal
  pred : Option (Bool × Bool)
  flags : BitVec 9
  deriving DecidableEq, Repr

/-- What befalls a lane at the issue address. -/
inductive LaneAct where
  | skip
  | ok (o : LaneOut)
  | bad (f : LFault)
  deriving DecidableEq, Repr

/-- Words written from a lane register on. -/
def writeVs (st : Strand) (r l : Nat) : List RVal → Strand
  | [] => st
  | v :: t => writeVs (writeV st r l v) (r + 1) l t

/-- Words written from a uniform register on. -/
def writeKs (st : Strand) (r : Nat) : List RVal → Strand
  | [] => st
  | v :: t => writeKs (writeK st r v) (r + 1) t

/-- One lane's result is written: registers unless the destination is uniform, predicate, sticky flags. -/
def applyLane (f : Form) (len : Nat) (st : Strand) (r : Nat × LaneAct) : Strand :=
  let adv (la : Lane) : Lane := { la with pcv := la.pcv + BitVec.ofNat 48 len }
  match r.2 with
  | .bad _ => st
  | .skip => modLane st r.1 adv
  | .ok o =>
    let st1 := if f.dk then st else writeVs st f.dst.toNat r.1 o.vals
    modLane st1 r.1 fun la =>
      let la1 := adv { la with fpflags := la.fpflags ||| o.flags }
      match o.pred with
      | some (b, p) => writeP la1 (f.dst.toNat % 8) b p
      | none => la1

/-- A uniform destination receives the value of the lowest completing lane (R49). -/
def applyDk (f : Form) (acts : List (Nat × LaneAct)) (st : Strand) : Strand :=
  if f.dk then
    match acts.findSome? fun r => match r.2 with | .ok o => some o.vals | _ => none with
    | some vs => writeKs st f.dst.toNat vs
    | none => st
  else st

def faultsOf (acts : List (Nat × LaneAct)) : List LFault :=
  acts.filterMap fun r => match r.2 with | .bad f => some f | _ => none

/-- The remap table of a unit's die gives it a spare (R161). -/
def remapped (s : State) (cls unit : Nat) : Bool :=
  let d := dieOfUnit cls unit
  (contTab s d).c0.any fun p => (contGet s d p.1).toNat / 2 ^ 16 = 2 ^ 47 + cls * 2 ^ 32 + unit

/-- The unit that a mismatch of a lane counts against (R370 class 2): core, port and physical lane, which is 32 once the port's spare has
taken the lane's place. -/
def laneUnit (s : State) (c sl l : Nat) : Nat :=
  let port := c * 256 + sl % 4 * 64
  if remapped s 2 (port + l) then port + 32 else port + l

/-- Residue and parity mismatches of the issue count in the lanes' buckets (R367). -/
def countMismatch (s : State) (u : Cur) (ex : List Nat) : State :=
  ex.foldl (fun s l =>
    let s1 := if inMask u.mm1 l then countErr s 2 (laneUnit s u.core u.slot l) 0 else s
    if inMask u.mm1 l && inMask u.mm2 l then countErr s1 2 (laneUnit s1 u.core u.slot l) 0 else s1) s

/-- A second mismatch on the replay: PIPE_ERR (R367). -/
def mismatched (u : Cur) (l : Nat) : Bool := inMask u.mm1 l && inMask u.mm2 l

/-- What befalls lane l: its guard (unless `free`, R287), a lasting mismatch, then its computation. -/
def laneAct (f : Form) (st : Strand) (u : Cur) (free : Bool) (g : Nat → LaneAct) (l : Nat) : LaneAct :=
  let gd := guardOf f (lane st l)
  if !free && gd.2 then .bad { lane := l, cause := .poisonUse, addr := 0, detail := 0 }
  else if !free && !gd.1 then .skip
  else if mismatched u l then .bad { lane := l, cause := .pipeErr, addr := 0, detail := 0 }
  else g l

def laneActs (f : Form) (st : Strand) (u : Cur) (free : Bool) (g : Nat → LaneAct) : List (Nat × LaneAct) :=
  (lanesOf u.mask).map fun l => (l, laneAct f st u free g l)

/-- The strand after the lanes' results are written. -/
def applyActs (f : Form) (st : Strand) (acts : List (Nat × LaneAct)) : Strand :=
  applyDk f acts (acts.foldl (applyLane f f.bytes) st)

/-- The state after an instruction acts lane by lane: results of completing lanes, then the faults (R361, R362). -/
def finishLanes (s : State) (u : Cur) (f : Form) (st : Strand) (acts : List (Nat × LaneAct)) : State :=
  let s1 := modStrand s u.core u.slot fun _ => applyActs f st acts
  let s2 := if u.mm1 = 0 then s1 else countMismatch s1 u (lanesOf u.mask)
  match faultsOf acts with
  | [] => s2
  | fl => raiseFaults s2 u.core u.slot fl u.w0 u.ilen

/-- An instruction that acts lane by lane. -/
def runLanes (i : Instr) (f : Form) (s : State) (free : Bool) (g : Core → Strand → Cur → Nat → LaneAct) :
    Host.Outcome State Fault Refusal :=
  onIssue i f s fun x st u => finishLanes s u f st (laneActs f st u free (g x st u))

/-- A result of n words. -/
def outWords (n : Nat) (v : DWord) (p : Bool) (flags : BitVec 9) : LaneOut :=
  { vals := if n = 1 then [{ v := v.extractLsb' 0 32, p := p }]
            else [{ v := v.extractLsb' 0 32, p := p }, { v := v.extractLsb' 32 32, p := p }],
    pred := none, flags := flags }
def outPred (b p : Bool) (flags : BitVec 9) : LaneOut := { vals := [], pred := some (b, p), flags := flags }

/-- A computation of a result of wd registers and flags from sources of wa, wb, wc registers, poisoned when any source
is (R278). -/
def runAlu (i : Instr) (f : Form) (s : State) (wd wa wb wc : Nat) (g : DWord → DWord → DWord → DWord × BitVec 9) :
    Host.Outcome State Fault Refusal :=
  runLanes i f s false fun _ st _ l =>
    let a := opA f st l wa
    let b := opB f st l wb
    let c := opC f st l wc
    let r := g a.v b.v c.v
    .ok (outWords wd r.1 (a.p || b.p || c.p) r.2)

/-- A comparison of sources of w registers into a predicate. -/
def runCmp (i : Instr) (f : Form) (s : State) (w : Nat) (g : DWord → DWord → Bool × BitVec 9) :
    Host.Outcome State Fault Refusal :=
  runLanes i f s false fun _ st _ l =>
    let a := opA f st l w
    let b := opB f st l w
    let r := g a.v b.v
    .ok (outPred r.1 (a.p || b.p) r.2)

/-! ### Strand instructions (R246) -/

/-- Lanes with a true guard, lanes with a false one, lanes with a poisoned one. -/
def splitGuard (f : Form) (st : Strand) (m : Word) : Word × Word × Word :=
  (maskOf fun l => inMask m l && !(guardOf f (lane st l)).2 && (guardOf f (lane st l)).1,
   maskOf fun l => inMask m l && !(guardOf f (lane st l)).2 && !(guardOf f (lane st l)).1,
   maskOf fun l => inMask m l && (guardOf f (lane st l)).2)

/-- The lowest lane of a mask. -/
def lowLane (m : Word) : Nat := ((lanesOf m).head?).getD 0

/-- What a strand instruction leaves: the state, and the faults of its executing lanes that are to be taken. -/
abbrev Left := State × List LFault

/-- No lane faults. -/
def clean (s : State) : Left := (s, [])

/-- A fault for every executing lane. -/
def failAll (s : State) (_ : Cur) (m : Word) (k : Cause) (addr : DWord) : Left := (s, faultEach m k addr)

/-- The instruction has not issued: it stalls until the next cycle, for a walk, or for a chunk (R105, R148). -/
def notIssued (s : State) (u : Cur) : Bool :=
  match (getStrand s u.core u.slot).bind (·.hold) with
  | some h => (match h.k with | .retry => true | .walks _ _ => true | .chunk _ _ _ _ => true | _ => false)
  | none => false

/-- The executing lanes whose results mismatched twice (R367). -/
def twice (u : Cur) (m : Word) : Word := m &&& u.mm1 &&& u.mm2

/-- The end of a strand instruction: mismatches count, and its faulting lanes are resolved together (R362): those whose use
faulted, those that mismatched twice, and those of poisoned guard (`pg`). An instruction that has not issued faults in none. -/
def finishStrand (u : Cur) (ex pg : Word) (r : Left) : State :=
  if notIssued r.1 u then r.1
  else
    let s1 := if u.mm1 = 0 then r.1 else countMismatch r.1 u (lanesOf u.mask)
    raiseFaults s1 u.core u.slot (r.2 ++ faultEach (twice u ex) .pipeErr 0 ++ faultEach pg .poisonUse 0) u.w0 u.ilen

/-- An instruction that acts once for its strand when at least one lane executes it. `k` gets the state in which the
lanes of false guard have advanced, the strand in it, and the mask of executing lanes. -/
def runStrand (i : Instr) (f : Form) (s : State) (k : State → Core → Strand → Cur → Word → Left) :
    Host.Outcome State Fault Refusal :=
  onIssue i f s fun x st u =>
    let g := splitGuard f st u.mask
    let st1 := if g.2.1 = 0 then st else advLanes st g.2.1 f.bytes
    let x1 := { x with strands := aput x.strands u.slot st1 }
    let s1 := setCore s u.core x1
    let m := g.1 &&& ~~~ twice u g.1
    finishStrand u g.1 g.2.2 (if m = 0 then clean s1 else k s1 x1 st1 u m)

/-- The executing lanes advance: the strand instruction is complete. -/
def doneStrand (s : State) (u : Cur) (f : Form) (m : Word) : State :=
  modStrand s u.core u.slot fun st => advLanes st m f.bytes

/-- The strand waits with its executing lanes at the instruction. -/
def holdStrand (s : State) (u : Cur) (k : HoldK) (m : Word) (len : Nat) : State :=
  modStrand s u.core u.slot fun st => { st with hold := some { k := k, mask := m, len := len } }

/-- The instruction stalls at issue until the next cycle: nothing of it takes effect. -/
def stallIssue (s : State) (u : Cur) : State := holdStrand s u .retry 0 0

/-- One result in every executing lane, or in a uniform register (R49). -/
def writeAll (st : Strand) (f : Form) (m : Word) (vs : List RVal) : Strand :=
  if f.dk then writeKs st f.dst.toNat vs else (lanesOf m).foldl (fun st l => writeVs st f.dst.toNat l vs) st

end Sys2Proof.Machine
end

