-- ==== Sys2Proof/Machine/Access.lean ====
section
/-! DEFINITION. The core's view of memory: local arrays (R110 to R112), held lines, the store queue and its checks
(R133, R134, R183 to R186), publication and write-ahead (R119, R191), the persistence log (R120), range locks and first
touches (R147 to R152), page walks (R102, R139, R140). -/

namespace Sys2Proof.Machine

/-! ### Local arrays (R110, R111, R314) -/

def codeBase : Nat := 0xC0000
def codeTop : Nat := 0xE0000

/-- n bytes at a local address lie in one array and, in the scratchpad, below the demand. -/
def localIn (scr a n : Nat) : Bool := decide (a + n ≤ scr ∧ a + n ≤ codeBase) || (decide (codeBase ≤ a) && decide (a + n ≤ codeTop))

/-- The local words that n bytes at a overlap. -/
def wordsIn (a n : Nat) : List Nat := if n = 0 then [] else (List.range ((a + n - 1) / 4 - a / 4 + 1)).map (a / 4 + ·)

def locRead (x : Core) (a n : Nat) : List Byte × Bool := (readBytes x.loc a n, (wordsIn a n).any (sget false x.lpois))

/-- Poison of the bytes of a datum that fall in the local word w, the datum standing at a and `pw` the poison of its 32-bit words. -/
def wordPois (a n w : Nat) (pw : List Bool) : Bool := (List.range n).any fun i => (a + i) / 4 = w && pw.getD (i / 4) false

/-- A local write: a word takes poison from poisoned data, loses it to a clean write of the whole word, else keeps it (R314). -/
def locWrite (x : Core) (a : Nat) (data : List Byte) (pw : List Bool) : Core :=
  { x with loc := writeBytes x.loc a data,
           lpois := (wordsIn a data.length).foldl (fun m w =>
             if wordPois a data.length w pw then sset false m w true
             else if a ≤ 4 * w ∧ 4 * w + 4 ≤ a + data.length then sset false m w false else m) x.lpois }

/-! ### Held lines (R109, R185, R186) -/

def HLine.none : HLine := { read := .none, want := false, cnt := false, nv := false, dirty := [], wp := 0 }

def lineOf (x : Core) (line : Nat) : HLine := (aget x.held line).getD HLine.none
def setLine (x : Core) (line : Nat) (h : HLine) : Core :=
  if h = HLine.none then { x with held := adel x.held line } else { x with held := aput x.held line h }

/-- The key of a line: remote lines are named beside local ones. -/
def lineKey (e : Pte) (pa : Nat) : Nat := (if e.rem then (e.dev + 1) * 2 ^ 44 else 0) + pa / 64

/-- The line is counted among the held lines. -/
def isHeld (h : HLine) : Bool := h.read.isSome || h.want || h.cnt || !h.dirty.isEmpty
def heldCount (x : Core) : Nat := (x.held.filter fun p => isHeld p.2).length

/-- The lines that n bytes at pa meet. -/
def linesOf (e : Pte) (pa n : Nat) : List Nat :=
  if n = 0 then [] else if pa / 64 = (pa + n - 1) / 64 then [lineKey e pa] else [lineKey e pa, lineKey e (pa + n - 1)]

/-- The newest dirty byte at an offset of a line. -/
def dirtyByte (h : HLine) (o : Nat) : Option Byte :=
  h.dirty.reverse.findSome? fun d => if d.mask.getLsbD o then some (d.data.getD o 0) else none

/-- The words of a line that hold a dirty byte. -/
def dirtyWords (h : HLine) : BitVec 16 :=
  (List.range 16).foldl (fun m w => setBit m w ((List.range 4).any fun i => (dirtyByte h (4 * w + i)).isSome)) 0

/-- Words of a line that an error of the L1 struck lose their poison to a clean write of the whole word (R365). -/
def wordsClean (wp : BitVec 16) (o n : Nat) (pois : Bool) : BitVec 16 :=
  if pois then wp else (List.range 16).foldl (fun m w => if o ≤ 4 * w ∧ 4 * w + 4 ≤ o + n then setBit m w false else m) wp

/-- Some word of a store's lane is poisoned. -/
def SLane.pois (l : SLane) : Bool := l.pw.any id

/-- The core that a remote-window address names (R114). -/
def windowCore (c : Nat) (w : Nat) : Nat := clusterOf c * 4 + w / 2 ^ 20 % 4

/-- The newest byte of an STR of the core's store queue for scratchpad byte a of core d, of those that issued before `lim`: R319 has
a load of the core see it. -/
def queueStr (c : Nat) (x : Core) (d a lim : Nat) : Option (Byte × Bool) :=
  x.sq.reverse.findSome? fun q =>
    if q.str && decide (q.id < lim) then
      q.lanes.reverse.findSome? fun l =>
        if windowCore c l.pa = d && decide (l.pa % 2 ^ 20 ≤ a) && decide (a < l.pa % 2 ^ 20 + l.data.length) then
          some (l.data.getD (a - l.pa % 2 ^ 20) 0, l.pw.getD ((a - l.pa % 2 ^ 20) / 4) false)
        else none
    else none

/-- The same of the newest STR of core c on its way to core d (R183). -/
def flightStr (s : State) (c d a lim : Nat) : Option (Byte × Bool) :=
  s.msgs.reverse.findSome? fun m => match m.2 with
    | .str d' _ off data pw src op _ =>
      if d' = d && src = c && decide (op < lim) && decide (off ≤ a) && decide (a < off + data.length) then some (data.getD (a - off) 0, pw.getD ((a - off) / 4) false) else none
    | _ => none

/-- Scratchpad bytes of core d, held by y, as a load of core c sees them: its own queued STRs first (R133, R319), then those
on their way; of both, those that issued before `lim`, the load's own place in the order (R183). -/
def strRead (s : State) (c : Nat) (x : Core) (d : Nat) (y : Core) (a n lim : Nat) : List Byte × Bool :=
  let b (i : Nat) : Byte × Bool :=
    ((queueStr c x d (a + i) lim).or (flightStr s c d (a + i) lim)).getD (sget 0 y.loc (a + i), sget false y.lpois ((a + i) / 4))
  ((List.range n).map fun i => (b i).1, (List.range n).any fun i => (b i).2)

/-- The newest byte of the core's store queue for an address: of the youngest entry, of its highest lane. -/
def queueByte (x : Core) (e : Pte) (pa : Nat) : Option (Byte × Bool) :=
  x.sq.reverse.findSome? fun q =>
    if q.str then none
    else q.lanes.reverse.findSome? fun l =>
      if l.bound.isNone && lineKey l.e l.pa == lineKey e pa && l.pa ≤ pa && pa < l.pa + l.data.length then
        some (l.data.getD (pa - l.pa) 0, l.pw.getD ((pa - l.pa) / 4) false)
      else none

/-- A queued store of poisoned data to the granule. -/
def queuePois (x : Core) (e : Pte) (g : Nat) : Bool :=
  x.sq.any fun q => !q.str && q.lanes.any fun l =>
    l.pois && l.bound.isNone && l.e.rem == e.rem && (!e.rem || l.e.dev == e.dev) && (granules l.pa l.data.length).contains g

/-- Bits of a mask that cover granule half k of a line. -/
def halfMask (k : Nat) : BitVec 64 := if k = 0 then 0xFFFFFFFF#64 else 0xFFFFFFFF00000000#64

/-- The poison of a granule as an access of the core sees it; `snap`: through the held copy. -/
def viewPois (s : State) (x : Core) (e : Pte) (g : Nat) (snap : Bool) : Bool :=
  let h := lineOf x (lineKey e (32 * g))
  let k := g % 2
  let base := match h.read with
    | some (_, _, _, p0, p1) => if snap then (if k = 0 then p0 else p1) else homePois s e (32 * g) 32
    | none => homePois s e (32 * g) 32
  let cover := h.dirty.foldl (fun m d => m ||| d.mask) 0
  queuePois x e g || h.dirty.any (fun d => if k = 0 then d.p0 else d.p1) || (base && cover &&& halfMask k != halfMask k)

/-- The tag of a granule in the core's view; `snap`: through the held copy (R200). -/
def viewTag (s : State) (x : Core) (e : Pte) (g : Nat) (snap : Bool) : BitVec 4 :=
  match (lineOf x (lineKey e (32 * g))).read with
  | some (_, t0, t1, _, _) => if snap then (if g % 2 = 0 then t0 else t1) else homeTag s e g
  | none => homeTag s e g

/-- A byte as an access of the core sees it (R183, R186). -/
def viewByte (s : State) (x : Core) (e : Pte) (pa : Nat) (snap : Bool) : Byte :=
  match queueByte x e pa with
  | some (b, _) => b
  | none =>
    let h := lineOf x (lineKey e pa)
    match dirtyByte h (pa % 64) with
    | some b => b
    | none =>
      match h.read with
      | some (l, _) => if snap then l.getD (pa % 64) 0 else (homeBytes s e pa 1).headD 0
      | none => (homeBytes s e pa 1).headD 0

/-- A byte comes from a word of the L1 that an error struck (R365). -/
def viewStruck (x : Core) (e : Pte) (pa : Nat) (snap : Bool) : Bool :=
  let h := lineOf x (lineKey e pa)
  h.wp.getLsbD (pa % 64 / 4) && (queueByte x e pa).isNone && ((snap && h.read.isSome) || (dirtyByte h (pa % 64)).isSome)

/-- n bytes and their poison in the core's view. -/
def viewRead (s : State) (x : Core) (e : Pte) (pa n : Nat) (snap : Bool) : List Byte × Bool :=
  ((List.range n).map fun i => viewByte s x e (pa + i) snap,
    (granules pa n).any (fun g => viewPois s x e g snap) || (List.range n).any fun i => viewStruck x e (pa + i) snap)

/-- Some of n bytes come from their home in the core's view, rather than from its own writes or a held copy. -/
def readsHome (x : Core) (e : Pte) (pa n : Nat) (snap : Bool) : Bool :=
  (List.range n).any fun i =>
    let h := lineOf x (lineKey e (pa + i))
    (queueByte x e (pa + i)).isNone && (dirtyByte h ((pa + i) % 64)).isNone && !(snap && h.read.isSome)

/-- A read of a remote home goes unanswered (R409). Which of the reads for which no request stands do is open (log 73). -/
def lateRead (s : State) (e : Pte) : Bool := e.rem && Config.remoteLate (s.freeCnt * 2 ^ 20 + e.dev)

/-- REMOTE_TIMEOUT of such a read (R409). -/
def noteLate (s : State) (e : Pte) : State :=
  if lateRead s e then { mgmtPost (fire s .remoteTimeout e.dev 0) 8 10 e.dev 1 with freeCnt := s.freeCnt + 1 } else s

/-- n bytes and their poison in the core's view, as an access reads them at once: what it reads of a remote home may go unanswered, and
is poisoned then (R409). -/
def farRead (s : State) (c : Nat) (e : Pte) (pa n : Nat) (snap : Bool) : State × List Byte × Bool :=
  match getCore s c with
  | none => (s, [], false)
  | some x =>
    let v := viewRead s x e pa n snap
    if readsHome x e pa n snap then (noteLate s e, v.1, v.2 || lateRead s e) else (s, v.1, v.2)

/-- The line's snapshot is filled from its home, when it is not held for reading (R185). -/
def fillLine (s : State) (c : Nat) (e : Pte) (pa : Nat) : State :=
  modCore s c fun x =>
    let k := lineKey e pa
    let h := lineOf x k
    match h.read with
    | some _ => setLine x k { h with want := false }
    | none =>
      let b := pa / 64 * 64
      let snap := (homeBytes s e b 64, homeTag s e (b / 32), homeTag s e (b / 32 + 1), homePois s e b 32, homePois s e (b + 32) 32)
      setLine x k { h with want := false, nv := e.nv, read := some snap, wp := h.wp &&& dirtyWords h }

/-! ### The persistence log (R118 to R121) -/

/-- Entries that must be durable when the flagged ones are: earlier writes of their lines, earlier segments of their cores. -/
def nvNeeds (log : List NvW) (d : List Bool) (j : Nat) (w : NvW) : Bool :=
  d.getD j false || (log.zip d).zipIdx.any fun p =>
    p.1.2 && ((decide (j < p.2) && p.1.1.line == w.line) ||
      (p.1.1.core == w.core && match p.1.1.seg, w.seg with | some a, some b => decide (b < a) | _, _ => false))

def nvClose (log : List NvW) : Nat → List Bool → List Bool
  | 0, d => d
  | n + 1, d => nvClose log n (log.zipIdx.map fun p => nvNeeds log d p.2 p.1)

/-- Writes become durable, with all that must precede them: they leave the log. -/
def nvCommit (s : State) (p : NvW → Bool) : State :=
  if s.nvLog.any p then
    let d := nvClose s.nvLog s.nvLog.length (s.nvLog.map p)
    { s with nvLog := (s.nvLog.zip d).filterMap fun e => if e.2 then none else some e.1 }
  else s

/-! ### Performing stores: held bytes, home writes, publication -/

def mergeMask (mask : BitVec 64) (o : Nat) (n : Nat) : BitVec 64 := mask ||| BitVec.ofNat 64 ((2 ^ n - 1) * 2 ^ o)

def mergeData (old : List Byte) (o : Nat) (new : List Byte) : List Byte :=
  old.zipIdx.map fun p => if o ≤ p.2 ∧ p.2 < o + new.length then new.getD (p.2 - o) 0 else p.1

def blank64 : List Byte := List.replicate 64 0

/-- Who sends a write: the pointer, the lane, the slot and the address of its instruction, the operation and lane that its
acknowledgement completes (R408, R409), and the register that waits for the answer (R332). -/
structure Sender where
  ptr : DWord
  lane : Nat
  slot : Nat
  pc : BitVec 48
  op : Option (Nat × Nat)
  dest : Dest := .none
  deriving DecidableEq, Repr

/-- Bytes within one line become unpublished dirty bytes of a segment (R133, R184). -/
def dirtyWrite (s : State) (c : Nat) (e : Pte) (pa : Nat) (data : List Byte) (pois : Bool) (seg : Nat) (w : Sender) : State :=
  modCore s c fun x =>
    let k := lineKey e pa
    let h := lineOf x k
    let o := pa % 64
    let sg := if e.nv then seg else 0
    let d := (h.dirty.find? fun d => d.seg = sg).getD { seg := sg, mask := 0, data := blank64, p0 := false, p1 := false, ptr := 0, lane := 0, slot := 0, pc := 0 }
    let d1 := { d with mask := mergeMask d.mask o data.length, data := mergeData d.data o data,
                       p0 := d.p0 || (pois && decide (o < 32)), p1 := d.p1 || (pois && decide (32 < o + data.length)),
                       ptr := w.ptr, lane := w.lane, slot := w.slot, pc := w.pc }
    setLine x k { h with cnt := true, nv := e.nv, wp := wordsClean h.wp o data.length pois, dirty := (h.dirty.filter fun d => d.seg ≠ sg) ++ [d1] }

/-- A write to a remote device is sent (R408). -/
def remoteWrite (s : State) (c : Nat) (ctx : Nat) (e : Pte) (pa : Nat) (data : List Byte) (w : Sender) (ask : Bool) : State :=
  { s with remote := s.remote ++ [{ id := s.nextId, dev := e.dev, pa := pa, ctx := ctx, core := c, ptr := w.ptr, lane := w.lane,
                                    slot := w.slot, pc := w.pc, op := w.op, ask := ask, data := data, dest := w.dest }],
           nextId := s.nextId + 1 }

/-- Writes of an operation or job that a remote device has not acknowledged. -/
def remoteDue (s : State) (id : Nat) : Bool := s.remote.any fun r => r.op.any fun o => o.1 = id

/-- Bytes of one line performed at their home, local or remote. -/
def performWrite (s : State) (c ctx : Nat) (e : Pte) (pa : Nat) (w : Sender) (data : List Byte) (pois : Bool) (seg : Option Nat) : State :=
  if e.rem then remoteWrite s c ctx e pa data w false else homeWrite s pa data pois c seg

/-- The bits of a mask from o on, n of them, are set. -/
def maskFull (m : BitVec 64) (o n : Nat) : Bool := (List.range n).all fun i => m.getLsbD (o + i)

/-- The runs of a mask: whole 64-bit words of a line, else whole 32-bit words, else bytes; offset and length. -/
def maskRuns (m : BitVec 64) : List (Nat × Nat) :=
  ((List.range 8).map fun d =>
    if maskFull m (8 * d) 8 then [(8 * d, 8)]
    else ((List.range 2).map fun h =>
      if maskFull m (8 * d + 4 * h) 4 then [(8 * d + 4 * h, 4)]
      else (List.range 4).filterMap fun i => if m.getLsbD (8 * d + 4 * h + i) then some (8 * d + 4 * h + i, 1) else none).flatten).flatten

/-- The bytes of a mask of a line at its home; each granule's poison follows R107. Bytes of the control page reach it as its
writes do, a 64-bit store as one (R97, R193). -/
def maskWrite (s : State) (c : Nat) (line : Nat) (d : Dirty) (nv : Bool) : State :=
  if isDev (64 * line) then
    (maskRuns d.mask).foldl (fun s r => devWrite s (64 * line + r.1) ((d.data.drop r.1).take r.2)) s
  else
  let s1 := nvNote s (64 * line) c (if nv then some d.seg else none)
  let s2 := { s1 with mem := (List.range 64).foldl (fun m o => if d.mask.getLsbD o then sset 0 m (64 * line + o) (d.data.getD o 0) else m) s1.mem }
  let g (s : State) (k : Nat) (p : Bool) : State :=
    if p then poisonWrite s (64 * line + 32 * k) 32 true
    else if d.mask &&& halfMask k = halfMask k then poisonWrite s (64 * line + 32 * k) 32 false else s
  g (g s2 0 d.p0) 1 d.p1

/-- Bytes of a dirty entry lie in a word, within half k of the line, that an error of the L1 struck: the store of a poisoned word
poisons the granule that receives it (R107, R365). -/
def struckDirty (h : HLine) (d : Dirty) (k : Nat) : Bool :=
  (List.range 32).any fun i => d.mask.getLsbD (32 * k + i) && h.wp.getLsbD ((32 * k + i) / 4)

/-- One dirty entry of a line is published: performed at its home, the line no longer dirty with it. A remote line's
bytes are sent as one write of the line. -/
def publishOne (s : State) (c ctx : Nat) (key : Nat) (d0 : Dirty) : State :=
  let h0 := ((getCore s c).map fun x => lineOf x key).getD HLine.none
  let d := { d0 with p0 := d0.p0 || struckDirty h0 d0 0, p1 := d0.p1 || struckDirty h0 d0 1 }
  let s1 := modCore s c fun x =>
    let h := lineOf x key
    let merged := h.read.map fun r =>
      ((List.range 64).map (fun o => if d.mask.getLsbD o then d.data.getD o 0 else r.1.getD o 0), r.2.1, r.2.2.1, r.2.2.2.1 || d.p0, r.2.2.2.2 || d.p1)
    let h1 := { h with dirty := h.dirty.filter fun y => y.seg ≠ d.seg, read := merged }
    setLine x key { h1 with wp := if merged.isSome then h.wp else h.wp &&& dirtyWords h1 }
  if key < 2 ^ 44 then maskWrite s1 c key d h0.nv
  else
    let data := (List.range 64).filterMap fun o => if d.mask.getLsbD o then some (d.data.getD o 0) else none
    { s1 with remote := s1.remote ++ [{ id := s1.nextId, dev := key / 2 ^ 44 - 1, pa := key % 2 ^ 44 * 64, ctx := ctx, core := c, ptr := d.ptr,
                                        lane := d.lane, slot := d.slot, pc := d.pc, op := none, ask := false, data := data, dest := .none }],
              nextId := s1.nextId + 1 }

/-- Every dirty entry of a core, in segment order (R119). -/
def dirtyList (x : Core) : List (Nat × Dirty) :=
  let all := (x.held.map fun p => p.2.dirty.map fun d => (p.1, d)).flatten
  let top := all.foldl (fun m p => if m < p.2.seg then p.2.seg else m) 0
  if top = 0 then all
  else
    let segs := all.foldl (fun l p => if l.contains p.2.seg then l else p.2.seg :: l) []
    let rec ins (k : Nat) : List Nat → List Nat
      | [] => [k]
      | a :: t => if k ≤ a then k :: a :: t else a :: ins k t
    ((segs.foldr ins []).map fun k => all.filter fun p => p.2.seg = k).flatten

/-! ### Faults of stores (R134, R135) -/

/-- The state of the strand of an operation, by its name: the slot may hold another by now. -/
def strandAt (s : State) (c sl sid : Nat) : Option Strand :=
  match getStrand s c sl with
  | some st => if st.sid = sid then some st else none
  | none => none

/-! ### The delivery of due faults (R135, R362) -/

/-- The strand's context is LIVE and its gang may act: PLACED, or SAVING while the strand is inside an open bracket (R11, R39). -/
def strandActs (s : State) (x : Core) (st : Strand) : Bool :=
  match gangOf s x with
  | none => false
  | some g => gangLive s g && (g.st == .placed || (g.st == .saving && st.nopre && !st.stopped && decide (st.npc < Config.limit64k)))

/-- A core and its strand of a slot. -/
def coreStrand (s : State) (c sl : Nat) : Option (Core × Strand) :=
  match getCore s c with
  | none => none
  | some x => (aget x.strands sl).map fun st => (x, st)

/-- The length in words of the instruction at an address, 1 where its first word cannot be fetched or is poisoned (R363). -/
def ilenAt (s : State) (c : Nat) (x : Core) (pc : BitVec 48) : Nat :=
  match ctxOf s x with
  | none => 1
  | some cx =>
    match pageNow s (dieOf c) cx pc.toNat with
    | .absent _ _ => 1
    | .present e _ =>
      let pa := paOf e pc.toNat
      let w : List Byte × Bool := match aget x.ic (lineKey e pa) with
        | some l => ((l.1.drop (pa % 64)).take 4, if pa % 64 < 32 then l.2.1 else l.2.2)
        | none => (homeBytes s e pa 4, homePois s e pa 4)
      if e.priv || e.xn || w.2 then 1 else wordsOfLen (lenOf (BitVec.ofNat 32 (bytesNat w.1)))

/-- The least address among lanes. -/
def leastPc (st : Strand) (m : Word) : BitVec 48 :=
  (lanesOf m).foldl (fun p l => if (lane st l).pcv < p then (lane st l).pcv else p) (((lanesOf m).head?.map fun l => (lane st l).pcv).getD 0)

/-- An imprecise or boundary fault is taken by the lanes it names, under the action of its cause now (R135, R362). -/
def deliver (s : State) (c sl : Nat) (k : Cause) (fl : List LFault) (flags : Nat) (pc : Option (BitVec 48)) : State :=
  match coreStrand s c sl with
  | none => s
  | some (x, st) =>
    if fl.isEmpty then s
    else
      match actionOf x k with
      | .kill => killLanes s c sl x st fl flags 0 pc
      | .halt => haltLanes s c sl x st fl flags 0 pc
      | .trap =>
        let m := maskOf fun l => fl.any fun f => f.lane = l
        trapTake s c sl
          { cause := k, mask := m, word := 0, ilen := ilenAt s c x (leastPc st m), impr := flags % 2 = 1,
            addrs := fl.map fun f => (f.lane, f.addr), since := s.clock.toNat }

/-- After a delivery that entered no handler, a strand whose reload is still requested is BLOCKED again. -/
def reblock (s : State) (c sl : Nat) : State :=
  modStrand s c sl fun st => if st.st = .running ∧ st.block.isSome ∧ st.trapPend.isNone then { st with st := .blocked } else st

/-- The strand is parked whole, and not AT_PHASE. -/
def parkedOut (st : Strand) : Bool :=
  match st.st with
  | .parkedWhole back _ => !back
  | _ => false

/-- The strand stands at a boundary at which a due fault is delivered (R135, R143). -/
def atBoundary (st : Strand) : Bool := (st.st == .running || st.st == .blocked || parkedOut st) && st.hold.isNone && st.trapPend.isNone

/-- A due fault may be delivered now: the strand stands between two instructions, or none of its lanes is READY (R135). Its entry was
written in the instruction before; one that the strand lets pass was written in the instruction that it issues next, after which
`bnd` makes it wait (log 11). A strand PARKED_WHOLE with a READY lane takes it after its reload (log 26). -/
def dueNow (st : Strand) : Bool := !st.due.isEmpty && (!parkedOut st || readyMask st == 0)

/-- A due fault is delivered before anything else befalls the strand: it is BLOCKED, or none of its lanes is READY (R82, R135). -/
def dueAtOnce (st : Strand) : Bool := !st.due.isEmpty && (st.st == .blocked || readyMask st == 0)

/-- The strand's oldest due fault is delivered. -/
def deliverDue (s : State) (c sl : Nat) : State :=
  match coreStrand s c sl with
  | none => s
  | some (x, st) =>
    match st.due with
    | [] => s
    | d :: rest =>
      if !(atBoundary st && strandActs s x st && dueNow st) then s
      else
        let s1 := modStrand s c sl fun st => unblock { st with due := rest, bnd := false }
        reblock (match d with
          | .nopre => deliver s1 c sl .nopreExpired (faultEach (liveMask st) .nopreExpired 0) 0 none
          | .store k pc _ fl _ =>
            let dead := fl.filter fun f => (lane st f.lane).st == .exited
            let s2 := dead.foldl (fun s f => coreRecord s x (laneRec s c sl x f (flagImpr + flagStale) 0 pc)) s1
            deliver s2 c sl k (fl.filter fun f => (lane st f.lane).st != .exited) flagImpr (some pc)) c sl

/-- Due faults of a strand that are delivered at once are, oldest first (R135). -/
def settleDue (s : State) (c sl : Nat) : State :=
  (((getStrand s c sl).map (·.due)).getD []).foldl (fun s _ => if (getStrand s c sl).any dueAtOnce then deliverDue s c sl else s) s

/-- A store-fault record is written for a strand, and delivered at once where its strand is BLOCKED or has no READY lane (R135); for
one that has exited, records of its lanes at once (R18). Stores already in the queue keep draining while the record queue is full, so
the entries due may pass its 8 (R136 does not say where they stand: log 11). -/
def storeFault (s : State) (c : Nat) (q : SEntry) (k : Cause) (fl : List LFault) : State :=
  if fl.isEmpty then s
  else
    match strandAt s c q.slot q.sid with
    | some _ => settleDue (modStrand s c q.slot fun st => { st with due := st.due ++ [.store k q.pc q.w0 fl q.seq] }) c q.slot
    | none =>
      match getCore s c with
      | some x => fl.foldl (fun s f => coreRecord s x (laneRec s c q.slot x f (flagImpr + flagStale) 0 q.pc)) s
      | none => s

/-- The check of one lane of a store as it leaves the queue: RO, tag, bound (R133), the first that fails. -/
def storeLaneCheck (s : State) (x : Core) (l : SLane) : Option (Cause × Word) :=
  match l.bound with
  | some lim => some (.boundSt, lim)
  | none =>
    if l.e.ro then some (.roSt, 0)
    else if l.e.tag then
      match (granules l.pa l.data.length).find? fun g => !tagOk (ptrTag l.ptr) (viewTag s x l.e g true) with
      | some g => some (.tagSt, (viewTag s x l.e g true).setWidth 32)
      | none => none
    else none

/-- A store by `.dir` or to a CACHE = 2 page goes to its home (R133). -/
def goesHome (q : SEntry) (l : SLane) : Bool := q.dir || l.e.cache = 2

/-- A lane of a store that goes on to its home, as an operation's lane. -/
def homeLane (l : SLane) : OLane :=
  { lane := l.lane, ptr := l.ptr, pa := l.pa, e := l.e, b := { v := 0, p := l.pois }, c := { v := 0, p := false },
    data := l.data, done := false, vals := [], landed := 0 }

def ctxNum (s : State) (c : Nat) : Nat := (((getCore s c).bind (gangOf s)).map (·.ctx)).getD 0

/-- The core's held copy of a line takes the bytes of the core's own later write (R185). -/
def patchHeld (s : State) (c : Nat) (e : Pte) (pa : Nat) (data : List Byte) (pois : Bool) : State :=
  modCore s c fun x =>
    let k := lineKey e pa
    let h := lineOf x k
    match h.read with
    | none => x
    | some (l, t0, t1, p0, p1) =>
      let o := pa % 64
      setLine x k { h with read := some (mergeData l o data, t0, t1, p0 || (pois && decide (o < 32)), p1 || (pois && decide (32 < o + data.length))),
                           wp := wordsClean h.wp o data.length pois }

/-- The core's dirty bytes of a line go home (R191); for a line of an NV page, its open segment closes and every dirty NV line
goes, in segment order. -/
def sendDirty (s : State) (c : Nat) (e : Pte) (key : Nat) : State :=
  match getCore s c with
  | none => s
  | some x =>
    if (lineOf x key).dirty.isEmpty then s
    else if e.nv then
      let s1 := closeSeg s c
      (dirtyList x).foldl (fun s p => if (lineOf x p.1).nv then publishOne s c (ctxNum s c) p.1 p.2 else s) s1
    else (lineOf x key).dirty.foldl (fun s d => publishOne s c (ctxNum s c) key d) s

/-- The sender of a lane of an operation. -/
def opSender (o : Op) (l : OLane) : Sender := { ptr := l.ptr, lane := l.lane, slot := o.slot, pc := o.pc, op := some (o.id, l.lane) }

/-- A lane's write has gone to a remote device and waits for its acknowledgement. -/
def laneSent (s : State) (o : Op) (l : OLane) : Bool := s.remote.any fun r => r.op == some (o.id, l.lane)

/-- The core's dirty bytes of a line of a remote device have been sent and are not yet acknowledged: a write that bypasses them waits
(R191). -/
def aheadDue (s : State) (c : Nat) (e : Pte) (pa : Nat) : Bool :=
  e.rem && s.remote.any fun r => r.core = c && r.dev = e.dev && r.pa / 64 = pa / 64 && r.op.isNone && !r.ask && !r.data.isEmpty

/-- A lane of a store on its way arrives at its home; or it goes to a remote one, once, when what went ahead of it is
acknowledged (R191). -/
def arriveLane (s : State) (c : Nat) (o : Op) (l : OLane) : State :=
  if laneSent s o l then s
  else
    let s1 := sendDirty s c l.e (lineKey l.e l.pa)
    if aheadDue s1 c l.e l.pa then s1
    else patchHeld (performWrite s1 c (ctxNum s1 c) l.e l.pa (opSender o l) l.data l.b.p none) c l.e l.pa l.data l.b.p

/-- Stores of the core on their way to homes arrive, in issue order, where they touch one of some lines; `all`: wherever
they go (R183, R190). -/
def arriveStores (s : State) (c : Nat) (keys : List Nat) (all : Bool) : State :=
  match getCore s c with
  | none => s
  | some x =>
    x.ops.foldl (fun s o =>
      if o.k = .store then
        let go (l : OLane) : Bool := !l.done && (all || (linesOf l.e l.pa l.data.length).any fun k => keys.contains k)
        let s1 := (o.lanes.filter go).foldl (fun s l => arriveLane s c o l) s
        modCore s1 c fun y => { y with ops := y.ops.map fun p =>
          if p.id = o.id then { p with lanes := p.lanes.map fun l => if go l && !l.e.rem then { l with done := true } else l } else p }
      else s) s

/-- An operation takes its place among the core's by its name, which is the order of issue (R183). -/
def insOp (o : Op) : List Op → List Op
  | [] => [o]
  | p :: t => if o.id < p.id then o :: p :: t else p :: insOp o t

/-- The core that a window address names holds a workgroup of the same gang (R114). -/
def ticketOk (s : State) (c : Nat) (x : Core) (w : Nat) : Bool :=
  match getCore s (windowCore c w), gangOf s x with
  | some y, some g => ((gangOf s y).map (·.ticket)) == some g.ticket
  | _, _ => false

/-- A lane that a store-queue entry leaves behind, its check failed (R133, R134). -/
def failedLane (l : SLane) (k : Cause) (d : Word) : LFault := { lane := l.lane, cause := k, addr := l.ptr, detail := d }

/-- The oldest entry of the store queue leaves it (R133): its lanes are checked together; passing lanes are performed or
sent on, failing ones reported, one record per cause. -/
def storeCheckHead (s : State) (c : Nat) : State :=
  match getCore s c with
  | none => s
  | some x =>
    match x.sq with
    | [] => s
    | q :: rest =>
      let s0 := setCore s c { x with sq := rest }
      if q.str then
        let tk := ((gangOf s x).map (·.ticket)).getD 0
        let good := q.lanes.filter fun l => ticketOk s c x l.pa
        let bad := q.lanes.filter fun l => !ticketOk s c x l.pa
        let s1 := good.foldl (fun s l =>
          { s with msgs := s.msgs ++ [(s.nextId, .str (windowCore c l.pa) tk (l.pa % 2 ^ 20) l.data l.pw c q.id l.lane)], nextId := s.nextId + 1 }) s0
        let s2 := storeFault s1 c q .gangTicket (bad.map fun l => failedLane l .gangTicket 0)
        if good.isEmpty then settleHolds (retireOut s2 c q.slot q.id) c
        else
          let op : Op := { id := q.id, slot := q.slot, sid := q.sid, pc := q.pc, w0 := q.w0, k := .str, dest := .none, seq := q.seq, dur := false,
                           wait := none, at_ := (0, 0), refused := [], lanes := good.map homeLane }
          settleHolds (modCore s2 c fun x => { x with ops := insOp op x.ops }) c
      else
        let vs := q.lanes.map fun l => (l, storeLaneCheck s x l)
        let bad (k : Cause) : List LFault := vs.filterMap fun v => match v.2 with
          | some (k', d) => if k' = k then some (failedLane v.1 k d) else none
          | none => none
        let good := vs.filterMap fun v => if v.2.isNone then some v.1 else none
        let held := good.filter fun l => !goesHome q l
        let s0a := arriveStores s0 c (held.map fun l => lineKey l.e l.pa) false
        let s1 := held.foldl (fun s l => dirtyWrite s c l.e l.pa l.data l.pois l.seg { ptr := l.ptr, lane := l.lane, slot := q.slot, pc := q.pc, op := none }) s0a
        let s2 := [Cause.roSt, .tagSt, .boundSt].foldl (fun s k => storeFault s c q k (bad k)) s1
        let home := good.filter (goesHome q)
        if home.isEmpty then settleHolds (retireOut s2 c q.slot q.id) c
        else
          let op : Op := { id := q.id, slot := q.slot, sid := q.sid, pc := q.pc, w0 := q.w0, k := .store, dest := .none, seq := q.seq, dur := false,
                           wait := none, at_ := (0, 0), refused := [], lanes := home.map homeLane }
          settleHolds (modCore s2 c fun x => { x with ops := insOp op x.ops }) c

/-- The n oldest entries leave the store queue. -/
def storeDrain (s : State) (c : Nat) : Nat → State
  | 0 => s
  | n + 1 => storeDrain (storeCheckHead s c) c n

/-- Every entry leaves the store queue, and those that go to homes arrive. -/
def storeDrainAll (s : State) (c : Nat) : State :=
  arriveStores (storeDrain s c (((getCore s c).map fun x => x.sq.length).getD 0)) c [] true

/-- Entries of the queue up to the last that touches a line. -/
def queueUpTo (x : Core) (key : Nat) : Nat :=
  match (x.sq.reverse.findIdx? fun q => !q.str && q.lanes.any fun l => (linesOf l.e l.pa l.data.length).contains key) with
  | some i => x.sq.length - i
  | none => 0

/-- Write-ahead of a line (R191): older stores to it leave the queue, those on their way arrive, its dirty bytes go home. -/
def writeAhead (s : State) (c : Nat) (e : Pte) (key : Nat) : State :=
  match getCore s c with
  | none => s
  | some x => sendDirty (arriveStores (storeDrain s c (queueUpTo x key)) c [key] false) c e key

/-! ### Range locks and region windows (R146 to R152) -/

/-- Byte ranges overlap. -/
def overlap (a n b m : Nat) : Bool := decide (a < b + m) && decide (b < a + n) && decide (0 < n) && decide (0 < m)

/-- Two entries conflict: one writes bytes or a tile that the other reads or writes. -/
def entConflict (a b : REnt) : Bool :=
  a.space = b.space &&
    (if a.space = 1 then (a.twmask &&& b.tmask != 0) || (a.tmask &&& b.twmask != 0)
     else (a.write || b.write) && overlap a.base a.len b.base b.len)

/-- A job is pending: an earlier job's entry conflicts with one of its own (R150, R151). -/
def jobPending (x : Core) (id : Nat) : Bool :=
  match x.jobs.find? fun j => j.id = id with
  | none => false
  | some j => (x.jobs.takeWhile fun k => k.id != id).any fun k => k.ents.any fun a => j.ents.any fun b => entConflict a b

/-- Entries in use, and room for more. -/
def lockRoom (x : Core) (n : Nat) : Bool := decide ((x.jobs.map fun j => j.ents.length).sum + n ≤ Config.rangeLocks)

/-- A strand access of the core meets a lock entry that is not chunked (R152). -/
def locked (x : Core) (space a n : Nat) (wr : Bool) : Bool :=
  x.jobs.any fun j => j.ents.any fun e => e.chunked.isNone && e.space = space && (wr || e.write) && overlap a n e.base e.len

def regionBytes (r : Region) : Nat := (r.nchk + 1) * 512

/-- Chunks of a region that n bytes at a touch and that are not present. -/
def missing (r : Region) (a n : Nat) : List Nat :=
  if r.st = .absent ∨ r.st = .filling then
    (List.range (r.nchk + 1)).filter fun k => !r.bitmap.getLsbD k && overlap a n (r.wbase + 512 * k) 512
  else []

/-- What a local access meets: nothing, RANGE_LOCK, or a missing chunk of a region. -/
inductive LockRes where
  | free
  | lock
  | chunk (region c : Nat)
  deriving DecidableEq, Repr

def localLock (x : Core) (a n : Nat) (wr : Bool) : LockRes :=
  if locked x 0 a n wr then .lock
  else
    match x.regions.findSome? fun p => (missing p.2 a n).head?.map fun k => (p.1, k) with
    | some (r, k) => .chunk r k
    | none => .free

/-- The order of a fill from a chunk on (R148). A CHKW may name none that the window has: the fill starts at the lowest that it names
modulo the window's chunks (R331 does not say: log 74). -/
def fillOrder (r : Region) (k : Nat) : List Nat :=
  let n := r.nchk + 1
  ((List.range n).map fun i => (k + i) % n).filter fun c => !r.bitmap.getLsbD c

/-- The address of the instruction that issues. -/
def curPc (s : State) : BitVec 48 := (s.cur.map (·.pc)).getD 0

/-- The first or a later touch of a chunk (R147, R148): an ABSENT window starts to fill with it; in a FILLING one the
chunk moves to the front, behind the first touch of a lower slot in the same cycle (R166). The fill registers the window as one chunked write range. -/
def touchChunk (s : State) (c : Nat) (rn k : Nat) (slot : Nat) : State :=
  match getCore s c with
  | none => s
  | some x =>
    match aget x.regions rn with
    | none => s
    | some r =>
      if r.st = .absent then
        let sid := ((aget x.strands slot).map (·.sid)).getD 0
        let j : Job := { id := s.nextId, slot := slot, sid := sid, pc := curPc s, k := .fill rn, sent := false, raced := false, wait := none,
                         at_ := (0, 0), refused := [],
                         ents := [{ space := 0, write := true, chunked := some rn, base := r.wbase, len := regionBytes r, tmask := 0, twmask := 0 }] }
        let r1 := { r with st := .filling, order := fillOrder r k, first := (s.clock.toNat + 1, slot, k), binder := if r.preset then slot else r.binder }
        fire (setCore { s with nextId := s.nextId + 1 } c { x with regions := aput x.regions rn r1, jobs := x.jobs ++ [j] }) .rangeRegister c s.nextId
      else if r.st = .filling then
        let rest := r.order.filter (· ≠ k)
        let order := if !r.order.contains k then r.order
          else if r.first.1 = s.clock.toNat + 1 ∧ r.first.2.1 < slot ∧ rest.head? = some r.first.2.2 then r.first.2.2 :: k :: rest.drop 1
          else k :: rest
        setCore s c { x with regions := aput x.regions rn { r with order := order } }
      else s

/-! ### Where a region's bytes come from (R146) -/

def ewBits (r : Region) : Nat := if r.ew = 0 then 4 else if r.ew = 1 then 8 else if r.ew = 2 then 16 else 32
/-- Bytes of a region's data. -/
def regionData (r : Region) : Nat := (r.planes * r.rows * r.cols * ewBits r + 7) / 8

/-- Plane, row and column of the element that stands at place k of the window. -/
def elemAt (r : Region) (k : Nat) : Nat × Nat × Nat :=
  if r.trn then (k / (r.rows * r.cols), k % r.rows, k / r.rows % r.cols)
  else (k / (r.rows * r.cols), k / r.cols % r.rows, k % r.cols)

/-- The source bytes that window byte o takes, as offsets from SRC: one whole byte, or two halves of bytes; none beyond the data. -/
def sourceOf (r : Region) (o : Nat) : List (Nat × Option Nat) :=
  if regionData r ≤ o then []
  else if r.ew = 0 then
    [2 * o, 2 * o + 1].map fun k =>
      let e := elemAt r k
      (e.1 * r.pstride + e.2.1 * r.sstride + e.2.2 / 2, some (e.2.2 % 2))
  else
    let b := ewBits r / 8
    let e := elemAt r (o / b)
    [(e.1 * r.pstride + e.2.1 * r.sstride + e.2.2 * b + o % b, none)]

/-- The pages of a chunk's source, as pointers. -/
def chunkPtrs (r : Region) (k : Nat) : List DWord :=
  ((List.range 512).map fun (i : Nat) => (sourceOf r (512 * k + i)).map fun q => ptrAdd r.src (q.1 : Nat)).flatten.foldl
    (fun l p => if l.any fun q => ptrVa q / 65536 = ptrVa p / 65536 then l else l ++ [p]) []

/-! ### Page walks (R102, R139, R140) -/

/-- The walk that fetches a page of a context on a die. -/
def walkOf (s : State) (die ctx page : Nat) : Option Walk :=
  s.walks.find? fun w => w.die = die && w.ctx = ctx && w.page = page

/-- What translation at issue gives: a page; a lane that parks on a walk that found nothing; a walk to wait for. -/
inductive XRes where
  | hit (e : Pte)
  | park (walk : Nat)
  | wait (walk : Nat)
  | miss
  deriving DecidableEq, Repr

/-- Translation for core c: its own TLB, its die's, a walk of the die in flight (R101, R102). -/
def xlate (s : State) (c ctx va : Nat) : XRes :=
  match tlbCore s c ctx va with
  | some e => .hit e
  | none =>
    match walkOf s (c / 128) ctx (va / 65536) with
    | some w => if w.st = .walking then .wait w.id else .park w.id
    | none => .miss

/-- A miss starts a walk of its page, or joins the one in flight. Answers the walk's name. -/
def startWalk (s : State) (die ctx va : Nat) (wr fetch atomic : Bool) : Nat × State :=
  match walkOf s die ctx (va / 65536) with
  | some w =>
    (w.id, { s with walks := s.walks.map fun v => if v.id = w.id then { v with wr := v.wr || wr, fetch := v.fetch || fetch, atomic := v.atomic || atomic } else v })
  | none =>
    (s.nextId,
     { s with nextId := s.nextId + 1,
              walks := s.walks ++ [{ id := s.nextId, entry := s.nextId, die := die, ctx := ctx, page := va / 65536, wr := wr, fetch := fetch, atomic := atomic,
                                     privr := false, sched := false, malformed := false, level := 0, st := .walking }] })

/-- Accesses join a walk that has found its page absent: an entry it has yet to write names them (R139, R140). -/
def walkJoin (s : State) (id : Nat) (wr fetch atomic : Bool) : State :=
  { s with walks := s.walks.map fun v =>
      if v.id = id then { v with wr := v.wr || wr, fetch := v.fetch || fetch, atomic := v.atomic || atomic } else v }

/-- Lanes that park on walks join them. -/
def parkJoin (s : State) (l : List (Nat × Nat × DWord)) (wr atomic : Bool) : State :=
  l.foldl (fun s p => walkJoin s p.2.1 wr false atomic) s

/-- The lane is FAULT_PARKED on a walk. -/
def LaneState.parkedOn (w : Nat) : LaneState → Bool
  | .faultParked v _ _ => v = w
  | _ => false

/-- Lanes FAULT_PARKED on a walk: their number, over running and saved strands (R140). -/
def parkedOn (s : State) (w : Nat) : Nat :=
  let n (x : Core) : Nat := (x.strands.map fun p => (p.2.lanes.filter fun la =>
    la.st.parkedOn w || (p.2.handler.isSome && la.st != .exited && la.sst.parkedOn w)).length).sum
  (s.cores.map fun p => n p.2).sum + (s.gangs.map fun p => (p.2.saved.map n).sum).sum

/-- The host fault queue of a die is full, or not set up (R139). -/
def hfqFull (s : State) (die : Nat) : Bool :=
  s.ctl.hfqBase.getD die 0 = 0 || decide (Config.hfqDepth ≤ (hfqProd s die - hfqCons s die).toNat)

/-- The 32 bytes of a host fault entry (R140). -/
def hfqBytes (s : State) (w : Walk) : List Byte :=
  let b (f : Bool) (v : Nat) : Nat := if f then v else 0
  natBytes (w.page * 65536) 8 ++ natBytes w.ctx 2 ++
    natBytes (b w.wr 1 + b w.fetch 2 + b w.malformed 4 + b w.atomic 8 + b w.privr 16 + b w.sched 32) 1 ++ natBytes w.level 1 ++
    natBytes w.entry 4 ++ natBytes (min (parkedOn s w.id) 0xFFFFFFFF) 4 ++ natBytes 0 4 ++ natBytes s.clock.toNat 8

/-- The entry of a walk is written when the queue has room, and its vector raised; else the walk keeps waiting (R139). -/
def postWalk (s : State) (id : Nat) : State :=
  match s.walks.find? fun w => w.id = id with
  | none => s
  | some w =>
    if w.st = .owed && !hfqFull s w.die then
      let prod := hfqProd s w.die
      let s1 := homeWrite s (s.ctl.hfqBase.getD w.die 0 + 32 * (prod.toNat % Config.hfqDepth)) (hfqBytes s w) false noCore none
      let s2 := contSet s1 5 (2 * w.die) ((prod + 1).setWidth 64)
      msix { s2 with walks := s2.walks.map fun v => if v.id = id then { v with st := .posted } else v } w.die
    else s

/-- Every walk that waits for a slot is served while slots are free. -/
def postOwed (s : State) : State := s.walks.foldl (fun s w => if w.st = .owed then postWalk s w.id else s) s

/-- Every strand of a core changed. -/
def mapCoreStrands (f : Strand → Strand) (x : Core) : Core := { x with strands := x.strands.map fun q => (q.1, f q.2) }

/-- Every strand of the device, running or saved, changed. -/
def mapStrands (s : State) (f : Strand → Strand) : State :=
  let gang (g : Gang) : Gang := { g with saved := g.saved.map (mapCoreStrands f) }
  { s with cores := s.cores.map fun p => (p.1, mapCoreStrands f p.2), gangs := s.gangs.map fun p => (p.1, gang p.2) }

/-- Waiting lanes of a strand park on a walk that found nothing; the strand waits on no walk that is over. -/
def parkWaiting (id : Nat) (park : Bool) (st : Strand) : Strand :=
  match st.hold with
  | some h =>
    match h.k with
    | .walks l w0 =>
      match l.find? fun p => p.1 = id with
      | none => st
      | some (_, ps) =>
        let rest := l.filter fun p => p.1 ≠ id
        let one (l : Nat) (la : Lane) : Lane :=
          match aget ps l with
          | some p => if la.st = .ready then { la with st := .faultParked id p w0 } else la
          | none => la
        let st1 := if park then { st with lanes := st.lanes.mapIdx one } else st
        { st1 with hold := if rest.isEmpty then none else some { h with k := .walks rest w0 } }
    | _ => st
  | none => st

/-- Lanes parked on a walk become READY and re-execute (PAGE_REPLAY, R102). -/
def replayLanes (id : Nat) (st : Strand) : Strand :=
  { st with lanes := st.lanes.map fun la =>
      let la1 := if la.st.parkedOn id then { la with st := .ready } else la
      if la1.sst.parkedOn id then { la1 with sst := .ready } else la1 }

/-- A walk of a page is awaited in the core: by lanes, by operations, by jobs. -/
def awaits (id : Nat) (x : Core) : Bool :=
  (x.strands.any fun p => (p.2.lanes.any fun la => la.st.parkedOn id || la.sst.parkedOn id) ||
    (match p.2.hold with | some h => (match h.k with | .walks l _ => l.any fun w => w.1 = id | _ => false) | none => false)) ||
    x.ops.any (fun o => o.wait = some id) || x.jobs.any fun j => j.wait = some id

/-- A walk ends with its page found: the die's TLB and those of the cores that wait for it hold it (R102), waiting strands go
on, parked lanes are READY. -/
def walkFound (s : State) (w : Walk) (base : Nat) (e : Pte) : State :=
  let parked := parkedOn s w.id
  let s0 := tlbFill { s with walks := s.walks.filter fun v => v.id ≠ w.id } w.die w.ctx base e
  let s1 := s.cores.foldl (fun s p => if dieOf p.1 = w.die && awaits w.id p.2 then l1Fill s p.1 w.ctx base e else s) s0
  let s2 := mapStrands s1 fun st => replayLanes w.id (parkWaiting w.id false st)
  let free (x : Core) : Core :=
    { x with
      ops := x.ops.map fun o => if o.wait = some w.id then { o with wait := none } else o
      jobs := x.jobs.map fun j => if j.wait = some w.id then { j with wait := none } else j }
  let s3 : State := { s2 with cores := s2.cores.map fun p => (p.1, free p.2) }
  let unwait (r : QRec) : QRec := if r.waitWalk = some w.id then { r with waitWalk := none } else r
  let s4 : State := { s3 with queues := s3.queues.map fun q => (q.1, q.2.map unwait) }
  if 0 < parked then fire s4 .pageReplay w.id 0 else s4

/-- Lanes of a strand that wait for a chunk park on a walk, with the pointers of their accesses (R141, R148). -/
def parkChunkLanes (walk : Nat) (h : Hold) (ptrs : List (Nat × DWord)) (w0 : Word) (st : Strand) : Strand :=
  { st with hold := none,
            lanes := st.lanes.mapIdx fun l la =>
              if inMask h.mask l ∧ la.st = .ready then { la with st := .faultParked walk ((aget ptrs l).getD 0) w0 } else la }

/-- Lanes of a core that wait for a chunk whose source needs a page that a walk found absent park on the walk (R148). -/
def parkChunks (w : Walk) (x : Core) : Core :=
  mapCoreStrands (fun st =>
    match st.hold with
    | some h =>
      (match h.k with
       | .chunk rn k ptrs w0 =>
         let hit := ((aget x.regions rn).map fun r => (chunkPtrs r k).any fun p => ptrVa p / 65536 = w.page).getD false
         if hit then parkChunkLanes w.id h ptrs w0 st else st
       | _ => st)
    | none => st) x

/-- Every core of a context on a die changed. -/
def mapCtxCores (s : State) (die ctx : Nat) (f : Core → Core) : State :=
  { s with cores := s.cores.map fun p =>
      if dieOf p.1 = die && (gangOf s p.2).any fun g => g.ctx = ctx then (p.1, f p.2) else p }

/-- A walk ends with its page absent or malformed: waiting lanes park, an entry is owed to the host (R102, R139). -/
def walkAbsent (s : State) (w : Walk) (level : Nat) (bad : Bool) : State :=
  let s1 := mapCtxCores (mapStrands s (parkWaiting w.id true)) w.die w.ctx (parkChunks w)
  postWalk { s1 with walks := s1.walks.map fun v => if v.id = w.id then { v with st := .owed, level := level, malformed := bad } else v } w.id

/-- A walk reads the tables and ends (PAGE_WALK_DONE). -/
def walkDone (s : State) (id : Nat) : State :=
  match s.walks.find? fun w => w.id = id with
  | none => s
  | some w =>
    match aget s.ctxs w.ctx with
    | none => { s with walks := s.walks.filter fun v => v.id ≠ id }
    | some cx =>
      match walkTables s cx.ptroot (w.page * 65536) with
      | .present e base => walkFound s w base e
      | .absent lv bad => walkAbsent s w lv bad

/-- Lanes wait for a page walk, their instruction not issued. -/
def holdWalk (s : State) (c sl : Nat) (w0 : Word) (l : List (Nat × List (Nat × DWord))) : State :=
  modStrand s c sl fun st => { st with hold := some { k := .walks l w0, mask := 0, len := 0 } }

/-- Lanes park on a walk that found nothing (R102). -/
def parkLanes (s : State) (c sl : Nat) (m : Word) (w : Nat) (ptr : DWord) (w0 : Word) : State :=
  modStrand s c sl fun st => modLanes st m fun la => { la with st := .faultParked w ptr w0 }

end Sys2Proof.Machine
end

