-- ==== Sys2Proof/Machine/Records.lean ====
section
/-! DEFINITION. The private region of a context as bytes: its pages (R32), the spill records of frames (R87) and the save areas of
workgroups (R116, R117), written to memory and read back from it. -/

namespace Sys2Proof.Machine

/-! ### Windows of sparse memory -/

/-- The bytes that memory lists in a window, by their offset. -/
def sliceBytes (m : SMap Byte) (base n : Nat) : SMap Byte :=
  (m.filter fun p => decide (base ≤ p.1) && decide (p.1 < base + n)).map fun p => (p.1 - base, p.2)

/-- A window of memory with other contents. -/
def spliceBytes (m : SMap Byte) (base n : Nat) (b : SMap Byte) : SMap Byte :=
  b.foldl (fun m p => if p.1 < n then sset 0 m (base + p.1) p.2 else m) (m.filter fun p => !(decide (base ≤ p.1) && decide (p.1 < base + n)))

/-- Bit k of a map of bytes set. -/
def setBitAt (m : SMap Byte) (k : Nat) : SMap Byte := sset 0 m (k / 8) (setBit (sget 0 m (k / 8)) (k % 8) true)

/-- The numbers of the bits that are set in a map of bytes. -/
def bitsOf (m : SMap Byte) : List Nat := (m.map fun p => (List.range 8).filterMap fun i => if p.2.getLsbD i then some (8 * p.1 + i) else none).flatten

/-! ### Pages (R32) -/

/-- The parts of a range that lie on one page each: address and bytes. -/
def pageParts (va n : Nat) : List (Nat × Nat) :=
  if n = 0 then []
  else (List.range ((va + n - 1) / 65536 - va / 65536 + 1)).map fun i =>
    let a := max va ((va / 65536 + i) * 65536)
    (a, min (va + n) ((va / 65536 + i + 1) * 65536) - a)

/-- Pages of private-region ranges that the die's TLB does not hold: Sparge and the save path reach them through a walk of the die
(R101, R102). -/
def privMissing (s : State) (die : Nat) (cx : Ctx) (ranges : List (Nat × Nat)) : List Nat :=
  (ranges.map fun r => (pageParts r.1 r.2).map (·.1 / 65536)).flatten.filter fun p => (tlbFind s die cx.num (p * 65536)).isNone

/-- Walks of pages of the private region; of an absent one the supervisor asks the host (R32). -/
def privGrow (s : State) (die : Nat) (cx : Ctx) (pages : List Nat) : State :=
  pages.foldl (fun s p =>
    let r := startWalk s die cx.num (p * 65536) true false false
    { r.2 with walks := r.2.walks.map fun w => if w.id = r.1 then { w with privr := true } else w }) s

/-! ### Bytes of the private region -/

/-- Granules of a range, with their homes, whose poison is set. -/
def recordPoisoned (s : State) (die : Nat) (cx : Ctx) (va n : Nat) : List (Nat × Nat) :=
  (List.range ((n + 31) / 32)).filterMap fun i =>
    match pageNow s die cx (va + 32 * i) with
    | .present e _ => let g := paOf e (va + 32 * i) / 32; if sget false s.gpois g then some (i, g) else none
    | .absent _ _ => none

/-- Cask lines of a part enter the log of writes not yet durable (R118); lines of LPDDR 6 that the L2 holds are dirty there. -/
def noteLines (s : State) (pa n : Nat) : State :=
  if isCask pa then (List.range ((pa + n - 1) / 64 - pa / 64 + 1)).foldl (fun s i => nvNote s (64 * (pa / 64 + i)) noCore none) s
  else (s.l2.filter fun p => decide (pa / 64 ≤ p.1) && decide (64 * p.1 < pa + n)).foldl (fun s p => l2Dirty s p.1) s

/-- The home of a part of a range, where this device has it. -/
def privHome (s : State) (die : Nat) (cx : Ctx) (va : Nat) : Option Nat :=
  match pageNow s die cx va with
  | .present e _ => if e.rem then none else some (paOf e va)
  | .absent _ _ => none

/-- A range of the private region takes new contents, and its granules are clean; Cask lines of it enter the log first, as they were.
Where its pages lie on a remote device, nothing here changes (log 7). -/
def privWrite (s : State) (die : Nat) (cx : Ctx) (va n : Nat) (b : SMap Byte) : State :=
  let noted := (pageParts va n).foldl (fun s q => ((privHome s die cx q.1).map fun pa => noteLines s pa q.2).getD s) s
  let clear := (recordPoisoned s die cx va n).foldl (fun s g => { s with gpois := sset false s.gpois g.2 false }) noted
  (pageParts va n).foldl (fun s q =>
    ((privHome s die cx q.1).map fun pa => { s with mem := spliceBytes s.mem pa q.2 (sliceBytes b (q.1 - va) q.2) }).getD s) clear

/-- The contents of a range of the private region; none where a page is absent or lies on a remote device. -/
def privRead (s : State) (die : Nat) (cx : Ctx) (va n : Nat) : Option (SMap Byte) :=
  (pageParts va n).foldr (fun q r =>
    match r, pageNow s die cx q.1 with
    | some b, .present e _ => if e.rem then none else some ((sliceBytes s.mem (paOf e q.1) q.2).map (fun p => (p.1 + (q.1 - va), p.2)) ++ b)
    | _, _ => none) (some [])

/-! ### Records of frames (R87) -/

/-- The address of the record of the frame n places from the top, and of the handler frame's. -/
def recordVa (cx : Ctx) (st : Strand) (n : Nat) : Nat :=
  cx.privbase + 2 ^ 22 * st.spill + 0x800 + (st.frames.length - n - 1) * 0x8800
def handlerVa (cx : Ctx) (st : Strand) : Nat := cx.privbase + 2 ^ 22 * st.spill + 0x220800

/-- Bytes of the record of a frame of some granules. -/
def granBytes (gran : Nat) : Nat := 64 + 1056 * gran
def frameBytes (f : Frame) : Nat := granBytes f.gran

/-- A link-stack entry with RES = 0 (R75). -/
def linkWord (f : Frame) : Nat := f.raddr.toNat + f.rbase * 2 ^ 54 + f.rcnt * 2 ^ 62 + (f.gran - 1) * 2 ^ 66

/-- The registers of a record as bytes: values from offset 64, poison bits behind them. -/
def regBytes (gran : Nat) (regs : SMap RVal) (m : SMap Byte) : SMap Byte :=
  regs.foldl (fun m p =>
    let m1 := writeBytes m (64 + 4 * p.1) (wordBytes p.2.v)
    if p.2.p then setBitAt m1 (8 * (64 + 1024 * gran) + p.1) else m1) m

/-- The record of a frame at depth d. -/
def frameRecord (ctx slot d : Nat) (f : Frame) : SMap Byte :=
  regBytes f.gran f.regs (writeBytes [] 0 (natBytes 0x46524D31 4 ++ natBytes d 4 ++ natBytes (linkWord f) 16 ++ natBytes (ctx + 65536 * slot) 8))

/-- A register takes a byte of its record, at an offset from the registers on. -/
def regByte (r : SMap RVal) (o : Nat) (b : Byte) : SMap RVal :=
  let v := sget RVal.zero r (o / 4)
  sset RVal.zero r (o / 4) { v with v := v.v ||| (b.setWidth 32 <<< (8 * (o % 4))) }

/-- The registers that the bytes of a record hold. -/
def recordRegs (gran : Nat) (b : SMap Byte) : SMap RVal :=
  let vals := b.foldl (fun r p => if 64 ≤ p.1 ∧ p.1 < 64 + 1024 * gran then regByte r (p.1 - 64) p.2 else r) []
  (bitsOf b).foldl (fun r k =>
    let i := k - 8 * (64 + 1024 * gran)
    if 8 * (64 + 1024 * gran) ≤ k ∧ i < 256 * gran then sset RVal.zero r i { (sget RVal.zero r i) with p := true } else r) vals

/-- Registers of a frame that a poisoned granule of the record holds, or whose poison bits it holds, are poisoned (R87). -/
def struckRegs (gran : Nat) (regs : SMap RVal) (bad : List (Nat × Nat)) : SMap RVal :=
  bad.foldl (fun r b =>
    let first := if 32 * b.1 < 64 + 1024 * gran then 8 * b.1 - 16 else 8 * (32 * b.1 - 64 - 1024 * gran)
    let n := if 32 * b.1 < 64 then 0 else if 32 * b.1 < 64 + 1024 * gran then 8 else 256
    (List.range n).foldl (fun r i =>
      let k := first + i
      if k < 256 * gran then sset RVal.zero r k { (sget RVal.zero r k) with p := true } else r) r) regs

/-- The registers of a record at an address: what memory holds; `old` where the record lies on a remote device (log 7). -/
def storedRegs (s : State) (die : Nat) (cx : Ctx) (va gran : Nat) (old : SMap RVal) : SMap RVal :=
  ((privRead s die cx va (granBytes gran)).map (recordRegs gran)).getD old

/-- The frame n places from the top of a strand as it comes back from its record, with what an error has struck poisoned (R85, R87). -/
def restored (s : State) (die : Nat) (cx : Ctx) (st : Strand) (n : Nat) (f : Frame) : Frame :=
  let va := recordVa cx st n
  { f with regs := struckRegs f.gran (storedRegs s die cx va f.gran f.regs) (recordPoisoned s die cx va (frameBytes f)) }

/-- A register of a spilled frame's record is written (R79, R89); the granules of the record keep their poison. -/
def recordPut (s : State) (die : Nat) (cx : Ctx) (va gran k : Nat) (v : RVal) : State :=
  let put (s : State) (a : Nat) (b : Byte) : State :=
    match pageNow s die cx a with
    | .present e _ => if e.rem then s else (let t := noteLines s (paOf e a) 1; { t with mem := sset 0 t.mem (paOf e a) b })
    | .absent _ _ => s
  let s1 := (wordBytes v.v).zipIdx.foldl (fun s b => put s (va + 64 + 4 * k + b.2) b.1) s
  let a := va + 64 + 1024 * gran + k / 8
  match pageNow s1 die cx a with
  | .present e _ => put s1 a (setBit (sget 0 s1.mem (paOf e a)) (k % 8) v.p)
  | .absent _ _ => s1

/-- Registers of the frame n places from the top that change from `old` to the frame's: in the record of a spilled frame too. -/
def recordSync (s : State) (c : Nat) (st : Strand) (n : Nat) (keys : List Nat) : State :=
  match (getCore s c).bind (ctxOf s), st.frames[n]? with
  | some cx, some f =>
    if f.res then s
    else keys.foldl (fun s k => recordPut s (dieOf c) cx (recordVa cx st n) f.gran k (sget RVal.zero f.regs k)) s
  | _, _ => s

/-- The registers of the frame n places from the top of a strand, resident or spilled (R89). -/
def frameRegs (s : State) (c : Nat) (st : Strand) (n : Nat) : SMap RVal :=
  match st.frames[n]? with
  | none => []
  | some f =>
    match (getCore s c).bind (ctxOf s) with
    | some cx => if f.res then f.regs else storedRegs s (dieOf c) cx (recordVa cx st n) f.gran f.regs
    | none => f.regs

/-! ### Save areas (R116, R117) -/

/-- The save area of a save index. -/
def saveVa (cx : Ctx) (idx : Nat) : Nat := cx.privbase + 2 ^ 36 + 2 ^ 21 * idx

/-- The parts of a save area that a workgroup uses (R117). -/
def saveRanges (cx : Ctx) (scr idx : Nat) (x : Core) : List (Nat × Nat) :=
  let a := saveVa cx idx
  [(a, scr), (a + 0x130000, 0x4000), (a + 0x120000, 0x9000), (a + 0x1E0000, 0x10000)] ++
    (if x.loc.any (fun p => decide (codeBase ≤ p.1)) then [(a + 0xC0000, 0x20000)] else []) ++
    (if x.tiles.isEmpty then [] else [(a + 0xE0000, 0x40000)]) ++
    (if x.held.isEmpty then [] else [(a + 0x140000, 80 * x.held.length)])

/-- The parts of a strand's spill area that a save writes: its record, its resident frames, its handler frame (R87, R90). -/
def strandRanges (cx : Ctx) (st : Strand) : List (Nat × Nat) :=
  let a := cx.privbase + 2 ^ 22 * st.spill
  (a, 0x800) :: ((st.frames.zipIdx.filter fun p => p.1.res).map fun p => (recordVa cx st p.2, frameBytes p.1)) ++
    (match st.handler with | some _ => [(handlerVa cx st, granBytes 4)] | none => [])

def coreRanges (cx : Ctx) (scr idx : Nat) (x : Core) : List (Nat × Nat) :=
  saveRanges cx scr idx x ++ (x.strands.map fun p => strandRanges cx p.2).flatten

/-- The poison bits of the local arrays and the tile file. -/
def poisonBytes (x : Core) : SMap Byte :=
  let a := x.lpois.foldl (fun m p => setBitAt m (if p.1 < codeBase / 4 then p.1 else 8 * 0x6000 + (p.1 - codeBase / 4))) []
  x.tiles.foldl (fun m p => if p.2.p then setBitAt m (8 * 0x7000 + p.1) else m) a

/-- The values of the tile file. -/
def tileSave (x : Core) : SMap Byte := x.tiles.foldl (fun m p => writeBytes m (4 * p.1) (wordBytes p.2.v)) []

/-- A page entry with which a line's key names its home. -/
def keyPage (key : Nat) : Pte :=
  { dev := if key < 2 ^ 44 then 0 else key / 2 ^ 44 - 1, frame := 0, size := 0, cache := 0, rem := decide (2 ^ 44 ≤ key), priv := false,
    tag := false, nv := false, xn := false, ro := false }

/-- What a core's line holds besides its dirty bytes: the snapshot; of a line that is only dirty, what its home holds (log 7). -/
def lineBase (s : State) (key : Nat) (h : HLine) : List Byte × BitVec 4 × BitVec 4 × Bool × Bool :=
  let e := keyPage key
  let pa := 64 * (key % 2 ^ 44)
  h.read.getD (homeBytes s e pa 64, homeTag s e (pa / 32), homeTag s e (pa / 32 + 1), false, false)

/-- Half k of a held line is poisoned: its snapshot, data stored in it, or a word that an error of the L1 struck. -/
def halfPois (h : HLine) (k : Nat) : Bool :=
  let r := ((h.read.map fun r => (r.2.2.2.1, r.2.2.2.2)).getD (false, false))
  (if k = 0 then r.1 else r.2) || (h.dirty.any fun d => if k = 0 then d.p0 else d.p1) || h.wp.extractLsb' (8 * k) 8 != 0

/-- The dirty bytes of a held line. -/
def dirtyMask (h : HLine) : BitVec 64 := h.dirty.foldl (fun m d => m ||| d.mask) 0

/-- An entry of the held-line log: flags, tags and poison bits, line address; byte mask; the line's bytes (R117). -/
def heldEntry (s : State) (key : Nat) (h : HLine) : List Byte :=
  let bit (b : Bool) (n : Nat) : Nat := if b then 2 ^ n else 0
  let r := lineBase s key h
  let p0 := halfPois h 0
  let p1 := halfPois h 1
  let mask := dirtyMask h
  natBytes (bit p1 57 + bit p0 56 + r.2.2.1.toNat * 2 ^ 52 + r.2.1.toNat * 2 ^ 48 + key % 2 ^ 38 * 64 + bit h.read.isSome 1 + bit (!h.dirty.isEmpty) 0) 8 ++
    natBytes mask.toNat 8 ++ (List.range 64).map fun o => (dirtyByte h o).getD (r.1.getD o 0)

/-- The held-line log, in the order in which the core lists its lines. -/
def heldBytes (s : State) (x : Core) : SMap Byte := (x.held.zipIdx).foldl (fun m p => writeBytes m (80 * p.2) (heldEntry s p.1.1 p.1.2)) []

/-- Words of 32 bits as bytes, one behind the other. -/
def wordsBytes (l : List Nat) : List Byte := (l.map fun v => natBytes v 4).flatten

/-- The code of a region's state (R147). -/
def RState.code : RState → Nat
  | .absent => 1 | .filling => 2 | .present => 3 | .flushing => 4

/-- The 128 bytes of a region table entry (R145). -/
def regionEntry (r : Region) : List Byte :=
  natBytes r.src.toNat 8 ++ natBytes r.wbase 4 ++ natBytes r.nchk 2 ++
    natBytes (r.ew.toNat + (if r.trn then 4 else 0) + (if r.wr then 8 else 0) + (if r.nofill then 16 else 0)) 1 ++ natBytes r.st.code 1 ++
    natBytes r.cols 4 ++ natBytes r.rows 4 ++ natBytes r.planes 2 ++ natBytes 0 6 ++ natBytes r.sstride 8 ++ natBytes r.pstride 8 ++
    natBytes r.bitmap.toNat 64 ++ natBytes ((if r.poison then 1 else 0) + (if r.fault then 2 else 0) + r.cause.toNat * 256) 4 ++ natBytes 0 12

/-- A region as its entry in the save area gives it back; what the entry does not hold is the model's own. -/
def regionBack (r : Region) (b : List Byte) : Region :=
  let fld (o n : Nat) : Nat := recField b o n
  let ctl := BitVec.ofNat 8 (fld 14 1)
  let st := fld 15 1
  { r with src := BitVec.ofNat 64 (fld 0 8), wbase := fld 8 4, nchk := fld 12 2, ew := ctl.extractLsb' 0 2, trn := ctl.getLsbD 2, wr := ctl.getLsbD 3,
           nofill := ctl.getLsbD 4, st := if st = 1 then .absent else if st = 2 then .filling else if st = 4 then .flushing else .present,
           cols := fld 16 4, rows := fld 20 4, planes := fld 24 2, sstride := fld 32 8, pstride := fld 40 8,
           bitmap := BitVec.ofNat 512 (fld 48 64), poison := fld 112 1 % 2 = 1, fault := fld 112 1 / 2 % 2 = 1, cause := BitVec.ofNat 8 (fld 113 1) }

/-- The counters of a strand (R167): LD, ST, CP, TL, the copy tags, AGE, NPC. -/
def counterBytes (st : Strand) : List Byte :=
  wordsBytes ([.ld, .st, .cp, .tl, .tag 0, .tag 1, .tag 2, .tag 3].map (outCount st) ++ [st.age, st.npc])

/-- The control block of a save area (R117). The spec lists what it holds and lays out the region entries alone; their places here, and
the layout of the rest, are the model's: `tc0` to `tc15` from 0 on, then `%phase`, `%trapctl` and `%trapvec`; the region table from
0x1000 on, an EMPTY entry as zeros; the counters of each strand slot from 0x2000 on, 64 bytes each (log 7). -/
def controlBlock (x : Core) : SMap Byte :=
  let head := writeBytes [] 0 (wordsBytes ((List.range 16).map fun n => (sget 0 x.tc n).toNat) ++ wordsBytes [x.phase.toNat, x.trapctl.toNat] ++
    natBytes x.trapvec.toNat 8)
  let regs := x.regions.foldl (fun m r => writeBytes m (0x1000 + 128 * r.1) (regionEntry r.2)) head
  x.strands.foldl (fun m p => writeBytes m (0x2000 + 64 * p.1) (counterBytes p.2)) regs

/-- A workgroup's save area is written (R117). -/
def writeArea (s : State) (die : Nat) (cx : Ctx) (scr idx : Nat) (x : Core) : State :=
  let a := saveVa cx idx
  let s1 := privWrite (privWrite s die cx a scr (sliceBytes x.loc 0 scr)) die cx (a + 0x120000) 0x9000 (poisonBytes x)
  let s2 := if x.loc.any (fun p => decide (codeBase ≤ p.1)) then privWrite s1 die cx (a + 0xC0000) 0x20000 (sliceBytes x.loc codeBase 0x20000) else s1
  let s3 := if x.tiles.isEmpty then s2 else privWrite s2 die cx (a + 0xE0000) 0x40000 (tileSave x)
  let s4 := privWrite (privWrite s3 die cx (a + 0x130000) 0x4000 (controlBlock x)) die cx (a + 0x1E0000) 0x10000 []
  if x.held.isEmpty then s4 else privWrite s4 die cx (a + 0x140000) (80 * x.held.length) (heldBytes s x)

/-- The code of a strand's state, in the order of R17. -/
def SState.code : SState → Nat
  | .running => 1 | .blocked => 2 | .parkedWhole _ _ => 3 | .inHandler => 4 | .inTrial => 5 | .atPhase => 6

/-- The code of a lane's state, in the order of R12. -/
def LaneState.code : LaneState → Nat
  | .ready => 0 | .parked _ => 1 | .yielded => 2 | .faultParked _ _ _ => 3 | .exited => 4

/-- Registers of a bank from number i on: their values, then a bit of poison for each. -/
def bankBytes (k : SMap RVal) (i n : Nat) : List Byte :=
  ((List.range n).map fun j => wordBytes (sget RVal.zero k (i + j)).v).flatten ++
    natBytes ((List.range n).foldl (fun m j => if (sget RVal.zero k (i + j)).p then m + 2 ^ j else m) 0) (n / 8)

/-- The strand record of R90: the link stack (R75), `k0` to `k63`, the handler bank, each lane's `pcv`, predicates with p7 true, their
poison and state, the strand state with an outstanding demand and a pending wait for a handler frame. The spec lists these and lays
out the link stack alone: the order and the places of the rest are the model's (log 7). -/
def strandRecord (st : Strand) : SMap Byte :=
  let links := (st.frames.reverse.map fun f => natBytes (linkWord f + if f.res then 2 ^ 71 else 0) 16).flatten
  let lanes := (st.lanes.map fun la => natBytes la.pcv.toNat 8 ++ natBytes (la.p.toNat + 128) 1 ++ natBytes la.pp.toNat 1 ++ natBytes la.st.code 2).flatten
  let strand := natBytes st.st.code 4 ++ natBytes ((st.block.map (·.demand)).getD 0) 4 ++ natBytes (if st.trapPend.isSome then 1 else 0) 4
  writeBytes (writeBytes [] 0 links) 1024
    (bankBytes st.k 0 64 ++ bankBytes ((st.handler.map (·.k)).getD []) 56 8 ++ lanes ++ strand)

/-- Registers of a bank, n from number i on, saved from offset `at_` of their strand's record on, whose values, or whose poison bits, lie
in granules `bad` of it that an error has struck are poisoned (R57, R87). -/
def struckBank (k : SMap RVal) (bad : List Nat) (i n at_ : Nat) : SMap RVal :=
  let hit (j : Nat) : Bool := bad.contains ((at_ + 4 * j) / 32) || bad.contains ((at_ + 4 * n + j / 8) / 32)
  (List.range n).foldl (fun k j => if hit j then sset RVal.zero k (i + j) { (sget RVal.zero k (i + j)) with p := true } else k) k

/-- The records that a save writes for a strand: of its resident frames, of its handler frame, and its strand record (R90). The spec
gives a handler frame neither a depth nor a link entry: its record holds depth 0 and an entry of which GRAN alone, 3, is not zero
(log 7). -/
def writeStrand (s : State) (die : Nat) (cx : Ctx) (slot : Nat) (st : Strand) : State :=
  let depth := st.frames.length
  let s1 := st.frames.zipIdx.foldl (fun s p =>
    if p.1.res then privWrite s die cx (recordVa cx st p.2) (frameBytes p.1) (frameRecord cx.num slot (depth - p.2) p.1) else s) s
  let s2 := match st.handler with
    | some h => privWrite s1 die cx (handlerVa cx st) (granBytes 4)
        (frameRecord cx.num slot 0 { fid := h.fid, gran := 4, phys := [], res := true, regs := h.regs, rcnt := 0, rbase := 0, raddr := 0 })
    | none => s1
  privWrite s2 die cx (cx.privbase + 2 ^ 22 * st.spill) 0x800 (strandRecord st)

/-- Every byte that PREEMPT_SAVE writes for a workgroup. -/
def writeCore (s : State) (die : Nat) (cx : Ctx) (scr idx : Nat) (x : Core) : State :=
  x.strands.foldl (fun s p => writeStrand s die cx p.1 p.2) (writeArea s die cx scr idx x)

/-- A held line as its entry gives it back (R117): dirty bytes and the snapshot's others from the entry's bytes, tags and poison from
its flags; `bad`: an error has struck a granule of the entry. -/
def heldBack (h : HLine) (b : List Byte) (bad : Bool) : HLine :=
  let w : DWord := BitVec.ofNat 64 (recField b 0 8)
  let data := b.drop 16
  let mask := dirtyMask h
  let p (k : Nat) : Bool := bad || w.getLsbD (56 + k)
  let had (k : Nat) : Bool := h.dirty.any fun d => if k = 0 then d.p0 else d.p1
  let one (d : Dirty) : Dirty :=
    { d with data := d.data.zipIdx.map (fun q => if d.mask.getLsbD q.2 && dirtyByte h q.2 == some q.1 then data.getD q.2 0 else q.1),
             p0 := d.p0 || (p 0 && (bad || (h.read.isNone && !had 0))), p1 := d.p1 || (p 1 && (bad || (h.read.isNone && !had 1))) }
  { h with wp := 0, dirty := h.dirty.map one,
           read := h.read.map fun r =>
             (r.1.zipIdx.map (fun q => if mask.getLsbD q.2 then q.1 else data.getD q.2 0), w.extractLsb' 48 4, w.extractLsb' 52 4,
               r.2.2.2.1 || (p 0 && (bad || !had 0)), r.2.2.2.2 || (p 1 && (bad || !had 1))) }

/-- The held lines of a workgroup, from its log. -/
def heldFrom (s : State) (die : Nat) (cx : Ctx) (x : Core) : List (Nat × HLine) :=
  let a := saveVa cx x.saveIdx + 0x140000
  match privRead s die cx a (80 * x.held.length) with
  | none => x.held
  | some b =>
    let struck := (recordPoisoned s die cx a (80 * x.held.length)).map (·.1)
    x.held.zipIdx.map fun p =>
      (p.1.1, heldBack p.1.2 (readBytes b (80 * p.2) 80) (struck.any fun g => decide (32 * g < 80 * p.2 + 80) && decide (80 * p.2 < 32 * g + 32)))

/-- The region table of a workgroup, from its control block (R117, R145). -/
def readRegions (s : State) (die : Nat) (cx : Ctx) (x : Core) : List (Nat × Region) :=
  match privRead s die cx (saveVa cx x.saveIdx + 0x130000) 0x4000 with
  | none => x.regions
  | some b => x.regions.map fun r => (r.1, regionBack r.2 (readBytes b (0x1000 + 128 * r.1) 128))

/-- Scratchpad, code bank, tile file, region table and held lines of a workgroup as its save area gives them back; `x` where it lies on a
remote device. -/
def readArea (s : State) (die : Nat) (cx : Ctx) (scr : Nat) (x : Core) : Core :=
  let a := saveVa cx x.saveIdx
  let code := if x.loc.any (fun p => decide (codeBase ≤ p.1)) then privRead s die cx (a + 0xC0000) 0x20000 else some []
  let tile := if x.tiles.isEmpty then some [] else privRead s die cx (a + 0xE0000) 0x40000
  match privRead s die cx a scr, privRead s die cx (a + 0x120000) 0x9000, code, tile with
  | some pad, some pois, some cb, some tf =>
    let bits := bitsOf pois
    let lp := bits.filterMap fun k => if k < codeBase / 4 then some k else if 8 * 0x6000 ≤ k ∧ k < 8 * 0x7000 then some (codeBase / 4 + (k - 8 * 0x6000)) else none
    let tp := bits.filterMap fun k => if 8 * 0x7000 ≤ k then some (k - 8 * 0x7000) else none
    let words := tf.foldl (fun r p => regByte r p.1 p.2) []
    { x with held := heldFrom s die cx x, regions := readRegions s die cx x, loc := (pad ++ cb.map fun p => (p.1 + codeBase, p.2)).foldr (fun p m => sset 0 m p.1 p.2) [],
             lpois := lp.foldl (fun m w => sset false m w true) [],
             tiles := tp.foldl (fun m w => sset RVal.zero m w { (sget RVal.zero m w) with p := true }) words }
  | _, _, _, _ => x

end Sys2Proof.Machine
end

