-- ==== Sys2Proof/Machine/Frames.lean ====
section
/-! DEFINITION. Frames: CALL, RET and UNWIND (R77 to R80), the grant order (R81, R82), Sparge (R83 to R86). -/

namespace Sys2Proof.Machine

/-! ### The grant order (R81) -/

/-- A request for granules: of a strand's call or reload, or of the reload of a strand parked whole. -/
structure Req where
  slot : Nat
  demand : Nat
  since : Nat
  eff : Nat
  deriving DecidableEq, Repr

def topGran (st : Strand) : Nat := (st.frames.head?.map (·.gran)).getD 0

/-- The request of a strand, if it has one. -/
def reqOf (sl : Nat) (st : Strand) : Option Req :=
  match st.st with
  | .parkedWhole _ since => some { slot := sl, demand := topGran st, since := since, eff := st.eff }
  | _ => st.block.map fun b => { slot := sl, demand := b.demand, since := b.since, eff := st.eff }

def reqFirst (a b : Req) : Bool :=
  decide (b.eff < a.eff) || (a.eff == b.eff && (decide (a.since < b.since) || (a.since == b.since && decide (a.slot < b.slot))))

/-- The request that Sparge serves, while it stands: the strands that it spilled whole for it come back no earlier (R84, R86). -/
def servedReq (x : Core) (but : Option Nat) : Option Req :=
  x.served.bind fun v => if but = some v.1 then none
    else ((aget x.strands v.1).bind (reqOf v.1)).bind fun r => if r.since = v.2 then some r else none

/-- Sparge stops the strand of a slot, for it serves a request (R84). -/
def markedNow (x : Core) (sl : Nat) : Bool := x.marked.contains sl && (servedReq x none).isSome

/-- The strand of a slot, PARKED_WHOLE, was spilled for the request that Sparge serves, and waits behind it (R84, log 72). -/
def yields (x : Core) (but : Option Nat) (sl : Nat) : Bool :=
  x.victims.contains sl && (servedReq x but).isSome &&
    ((aget x.strands sl).map fun st => match st.st with | .parkedWhole _ _ => true | _ => false).getD false

/-- The head of the grant order, leaving out slot `but` and the victims of the request that is served. -/
def reqHead (x : Core) (but : Option Nat) : Option Req :=
  x.strands.foldl (fun h p =>
    if but = some p.1 || yields x but p.1 then h
    else
      match reqOf p.1 p.2, h with
      | none, _ => h
      | some r, none => some r
      | some r, some q => if reqFirst r q then some r else h) none

/-- A new request of a slot is granted at once: it stands first and FREEG covers it. -/
def grantNow (x : Core) (r : Req) : Bool :=
  decide (r.demand ≤ freeG x) &&
    (match reqHead x (some r.slot) with | some q => !reqFirst q r | none => true)

/-- The effective priority of a strand that issues (R42, R177). -/
def issuePrio (st : Strand) : Nat := if st.handler.isSome then 255 else st.prio

/-! ### CALL and CALLI (R78) -/

/-- Fields of AUX: demand, argument count, return count (R76). -/
def callDemand (f : Form) : Nat := f.aux.toNat % 32 + 1
def callArgs (f : Form) : Nat := f.aux.toNat / 32 % 16
def callRets (f : Form) : Nat := f.aux.toNat / 512 % 16

/-- The target of a lane: LIT, or the pair of CALLI; none with the cause that it breaks. -/
def callTarget (f : Form) (indirect : Bool) (st : Strand) (l : Nat) : Except LFault (BitVec 48) :=
  if indirect then
    let t := rd64 st f.sb.toNat f.kcb l
    if t.p then .error { lane := l, cause := .poisonUse, addr := t.v, detail := 0 }
    else if t.v.extractLsb' 48 16 ≠ 0 ∨ t.v.extractLsb' 0 2 ≠ 0 then .error { lane := l, cause := .addrForm, addr := t.v, detail := 0 }
    else .ok (t.v.extractLsb' 0 48)
  else .ok (f.lit.extractLsb' 0 48)

/-- Arguments of a lane copied into a new frame's registers. -/
def copyArgs (old : SMap RVal) (ab l : Nat) : Nat → SMap RVal → SMap RVal
  | 0, new => new
  | n + 1, new => copyArgs old ab l n (rset new n l (rget old (ab + n) l))

/-- A slot's request is granted: Sparge's service of it is over. -/
def Core.grantOver (x : Core) (sl : Nat) : Core :=
  if x.served.any (fun v => v.1 = sl) then { x with served := none, marked := [], victims := [] } else x

/-- The frame is granted and the lanes continue in it, at the targets that the issue found. -/
def doCall (s : State) (c sl : Nat) (f : Form) (tgts : List (Nat × BitVec 48)) : State :=
  match getCore s c with
  | none => s
  | some x =>
    match aget x.strands sl with
    | none => s
    | some st =>
      match st.frames with
      | [] => s
      | top :: rest =>
        let pc := (tgts.head?.map fun p => (lane st p.1).pcv).getD 0
        let regs := tgts.foldl (fun r p => copyArgs top.regs f.sa.toNat p.1 (callArgs f) r) []
        let new : Frame := { fid := s.nextId, gran := callDemand f, phys := takeGran x (callDemand f), res := true, regs := regs, rcnt := 0, rbase := 0, raddr := 0 }
        let link := { top with raddr := pc + BitVec.ofNat 48 f.bytes, rbase := f.dst.toNat, rcnt := callRets f }
        let go (l : Nat) (la : Lane) : Lane := match aget tgts l with | some t => { la with pcv := t } | none => la
        let st1 := { st with frames := new :: link :: rest, lanes := st.lanes.mapIdx go, block := none, st := .running }
        fire (setCore { s with nextId := s.nextId + 1 } c (Core.grantOver { x with strands := aput x.strands sl st1 } sl)) .frameAlloc c s.nextId

/-- The executing lanes of a frame instruction, and the others at its address; lanes with a false guard keep their pcv
when some lane executes it, else they advance (R77). -/
def runFrame (i : Instr) (f : Form) (s : State) (k : Core → Strand → Cur → Word → Left) : Host.Outcome State Fault Refusal :=
  onIssue i f s fun x st u =>
    let g := splitGuard f st u.mask
    let m := g.1 &&& ~~~ twice u g.1
    finishStrand u g.1 g.2.2
      (if g.1 = 0 then clean (modStrand s u.core u.slot fun st => advLanes st g.2.1 f.bytes) else if m = 0 then clean s else k x st u m)

/-- CALL and CALLI: the checks of R78, then the grant or the block. -/
def runCall (i : Instr) (f : Form) (indirect : Bool) (s : State) : Host.Outcome State Fault Refusal :=
  runFrame i f s fun x st u m =>
    let g := 8 * topGran st
    let d := callDemand f
    let bad := (lanesOf m).filterMap fun l => match callTarget f indirect st l with | .error e => some e | .ok _ => none
    let tgts := (lanesOf m).filterMap fun l => match callTarget f indirect st l with | .error _ => none | .ok t => some (l, t)
    if st.handler.isSome then failAll s u m .illegal 0
    else if g < f.sa.toNat + callArgs f ∨ g < f.dst.toNat + callRets f then failAll s u m .illegal 0
    else if 8 * d < callArgs f ∨ 8 * d < callRets f then failAll s u m .illegal 0
    else if st.frames.length = 64 then failAll s u m .frameDepth 0
    else
      (if tgts.isEmpty then s
       else if grantNow x { slot := u.slot, demand := d, since := s.clock.toNat, eff := issuePrio st } then doCall s u.core u.slot f tgts
       else modStrand s u.core u.slot fun st =>
         { st with st := .blocked, block := some { demand := d, since := s.clock.toNat, call := some (f, tgts) } },
       bad)

/-! ### Reloads (R85) -/

/-- The current frame is resident again, with what its record holds. -/
def reloadTop (s : State) (c : Nat) (x : Core) (st : Strand) : Strand :=
  match ctxOf s x, st.frames with
  | some cx, t :: rest => { st with frames := { restored s (dieOf c) cx st 0 t with res := true, phys := takeGran x t.gran } :: rest }
  | _, _ => st

/-- The request of a strand is granted. -/
def grantSlot (s : State) (c sl : Nat) : State :=
  match getCore s c with
  | none => s
  | some x =>
    match aget x.strands sl with
    | none => s
    | some st =>
      let put (t : Strand) : State := fire (setCore s c (Core.grantOver { x with strands := aput x.strands sl t } sl)) .spargeReload c sl
      match st.st with
      | .parkedWhole back _ => put { reloadTop s c x st with st := if back then .atPhase else if st.block.isSome then .blocked else .running }
      | _ =>
        match st.block with
        | none => s
        | some b =>
          match b.call with
          | some (f, tgts) => doCall s c sl f tgts
          | none => put { reloadTop s c x st with block := none, st := if st.handler.isSome then .inHandler else .running }

/-- Requests of a core are granted in order while FREEG covers the head's (R81). -/
def settleGrants (s : State) (c : Nat) : Nat → State
  | 0 => s
  | n + 1 =>
    match getCore s c with
    | none => s
    | some x =>
      match reqHead x none with
      | none => s
      | some r => if r.demand ≤ freeG x then settleGrants (grantSlot s c r.slot) c n else s

/-- Requests of every core that can be granted are. -/
def grantAll (s : State) : State :=
  s.cores.foldl (fun s p => if p.2.strands.any fun q => (reqOf q.1 q.2).isSome then settleGrants s p.1 p.2.strands.length else s) s

/-- A spilled frame that became current asks for its reload, which is granted at once when it may be (R85). -/
def wantReload (s : State) (c sl : Nat) : State :=
  match getCore s c with
  | none => s
  | some x =>
    match aget x.strands sl with
    | none => s
    | some st =>
      if (st.frames.head?.map (·.res)).getD true then s
      else
        let s1 := modStrand s c sl fun st =>
          { st with st := .blocked, block := some { demand := topGran st, since := s.clock.toNat, call := none } }
        if grantNow x { slot := sl, demand := topGran st, since := s.clock.toNat, eff := issuePrio st } then grantSlot s1 c sl else s1

/-! ### RET and UNWIND (R79, R80) -/

/-- Return values of a lane written into the caller's frame, resident or spilled. -/
def copyRets (callee : SMap RVal) (rb l : Nat) : Nat → SMap RVal → SMap RVal
  | 0, r => r
  | n + 1, r => rset (copyRets callee rb l n r) (rb + n) l (rget callee n l)

/-- A frame that becomes current: its link-stack entry is zero (R75). -/
def Frame.current (g : Frame) : Frame := { g with raddr := 0, rbase := 0, rcnt := 0 }

/-- Keys of the registers that return values of lanes go to (R79). -/
def retKeys (caller : Frame) (m : Word) : List Nat :=
  ((lanesOf m).map fun l => (List.range caller.rcnt).map fun i => 32 * (caller.rbase + i) + l).flatten

/-- RET of a chain of two or more frames. Return values go into the caller's frame, and into the record of a spilled one. -/
def doRet (s : State) (c sl : Nat) (m : Word) : State :=
  match getStrand s c sl with
  | none => s
  | some st =>
    match st.frames with
    | top :: caller :: rest =>
      let regs := (lanesOf m).foldl (fun r l => copyRets top.regs caller.rbase l caller.rcnt r) caller.regs
      let s1 := modStrand s c sl fun st =>
        { modLanes st m (fun la => { la with pcv := caller.raddr }) with frames := Frame.current { caller with regs := regs } :: rest }
      let s2 := match getStrand s1 c sl with | some st1 => recordSync s1 c st1 0 (retKeys caller m) | none => s1
      wantReload (freeFrame s2 c top) c sl
    | _ => s

/-- The n frames on top are freed, youngest first (R80). -/
def dropFrames (s : State) (c sl : Nat) : Nat → State
  | 0 => s
  | n + 1 =>
    match getStrand s c sl with
    | none => s
    | some st =>
      match st.frames with
      | [] => s
      | t :: rest => dropFrames (freeFrame (modStrand s c sl fun st => { st with frames := lmod rest 0 Frame.current }) c t) c sl n

/-! ### Sparge (R83, R84) -/

/-- A strand counts as stalled (R83). -/
def spargeStalled (st : Strand) : Bool :=
  match st.st with
  | .blocked => true
  | .parkedWhole _ _ => true
  | .atPhase => true
  | .inTrial => false
  | .running => trapWaits st || (readyMask st == 0 && yieldedMask st == 0)
  | .inHandler => readyMask st == 0 && yieldedMask st == 0
where
  yieldedMask (st : Strand) : Word := maskOf fun l => (lane st l).st == .yielded

/-- The condition of the quiescence trigger at one moment. -/
def spargeQuiet (x : Core) : Bool := x.strands.any (fun p => p.2.st == .blocked) && x.strands.all fun p => spargeStalled p.2

/-- Frame number n of a strand, from the top, leaves for the spill area; where the die's TLB lacks a page of its record, the spill
waits for a walk (R102), and the host is asked for a page that is absent (R32). -/
def spillFrame (s : State) (c sl n : Nat) : State :=
  match getCore s c with
  | none => s
  | some x =>
    match ctxOf s x, aget x.strands sl with
    | some cx, some st =>
      let size := ((st.frames[n]?).map frameBytes).getD 0
      let miss := privMissing s (dieOf c) cx [(recordVa cx st n, size)]
      if miss.isEmpty then
        let s1 := match st.frames[n]? with
          | some f => privWrite s (dieOf c) cx (recordVa cx st n) size (frameRecord cx.num sl (st.frames.length - n) f)
          | none => s
        fire (modStrand s1 c sl fun st => { st with frames := lmod st.frames n fun f => { f with res := false, phys := [] } }) .spargeSpill c sl
      else privGrow s (dieOf c) cx miss
    | _, _ => s

/-- Resident frames of a strand from place i on, the youngest first. -/
def spillable (st : Strand) (i : Nat) : List Nat := (st.frames.zipIdx.filter fun p => decide (i ≤ p.2) && p.1.res).map (·.2)

/-- Frame number n of a strand has an outstanding write into it: Sparge waits for the write before it spills the frame (R63). -/
def frameBusy (s : State) (c sl n : Nat) : Bool :=
  match getCore s c with
  | some x => (((aget x.strands sl).bind fun st => st.frames[n]?).map fun f => fidBusy x f.fid).getD false
  | none => false

/-- FREEG covers the demand. -/
def enough (s : State) (c demand : Nat) : Bool := ((getCore s c).map fun x => decide (demand ≤ freeG x)).getD true

/-- Sparge waits for a page of the private region: for its walk, or for the host's answer (R32, R102). -/
def pageWaits (s : State) (c : Nat) : Bool := s.walks.any fun w => w.privr && w.ctx == ctxNum s c && w.die == dieOf c

/-- Sparge takes nothing more: the demand is met, or it waits for a page. -/
def spargeRests (s : State) (c demand : Nat) : Bool := enough s c demand || pageWaits s c

/-- Frames of a victim are spilled one by one until the demand is met, or until Sparge waits: for a page, or for a write into the
next frame, for it keeps its order (R63, R84). -/
def spillSome (s : State) (c sl demand : Nat) : List Nat → State
  | [] => s
  | n :: t => if spargeRests s c demand || frameBusy s c sl n then s else spillSome (spillFrame s c sl n) c sl demand t

/-- A strand is spilled whole when its other frames are: it becomes PARKED_WHOLE, and comes back no earlier than the request that
Sparge serves. -/
def spillWhole (s : State) (c sl demand : Nat) : State :=
  match getStrand s c sl with
  | none => s
  | some st =>
    let rest := (st.frames.drop 1).all fun f => !f.res
    let top := (st.frames.head?.map (·.res)).getD false
    if spargeRests s c demand || !rest || !top || frameBusy s c sl 0 || st.handler.isSome || st.st == .inTrial then s
    else
      let s1 := spillFrame s c sl 0
      if ((getStrand s1 c sl).bind fun t => t.frames.head?.map (·.res)).getD true then s1
      else modCore (modStrand s1 c sl fun t => { t with st := .parkedWhole (t.st == .atPhase) s.clock.toNat }) c fun x =>
        { x with victims := if x.victims.contains sl then x.victims else x.victims ++ [sl] }

/-- Sparge waits for a write into a frame of the victim that stands next in its order (R63, R84): the youngest resident non-top frame,
or, with none, the top where the victim goes whole. -/
def victimWaits (s : State) (c : Nat) (whole : Bool) (sl : Nat) : Bool :=
  match getStrand s c sl with
  | none => false
  | some st =>
    match spillable st 1 with
    | n :: _ => frameBusy s c sl n
    | [] => whole && (st.frames.head?.map (·.res)).getD false && frameBusy s c sl 0 && st.handler.isNone && st.st != .inTrial

/-- A victim gives its non-top frames, then itself where `whole`. -/
def takeVictim (s : State) (c demand : Nat) (whole : Bool) (sl : Nat) : State :=
  match getStrand s c sl with
  | none => s
  | some st =>
    let s1 := spillSome s c sl demand (spillable st 1)
    if whole then spillWhole s1 c sl demand else s1

/-- Victims are taken in order, each whole where `whole` says so, until Sparge rests or waits for a write; `mark` after each. Answers
whether it waits. -/
def takeVictims (c demand : Nat) (whole : Nat → Bool) (mark : State → Nat → State) : List Nat → State × Bool → State × Bool
  | [], r => r
  | sl :: t, (s, waits) =>
    if waits || spargeRests s c demand then (s, waits)
    else
      let s1 := mark (takeVictim s c demand (whole sl) sl) sl
      takeVictims c demand whole mark t (s1, !spargeRests s1 c demand && victimWaits s1 c (whole sl) sl)

/-- Victims by lowest effective priority, then youngest. -/
def insVictim (p : Nat × Strand) : List (Nat × Strand) → List (Nat × Strand)
  | [] => [p]
  | q :: t =>
    if decide (p.2.eff < q.2.eff) || (p.2.eff == q.2.eff && decide (q.2.sid < p.2.sid)) then p :: q :: t else q :: insVictim p t
def victims (x : Core) (p : Nat × Strand → Bool) : List Nat := ((x.strands.filter p).foldr insVictim []).map (·.1)

/-- The first word of a LAUNCH: MAJ 0x02, MIN 2 (R259). -/
def isLaunch (w0 : Word) : Bool := majOf w0 = 2 && minOf w0 = 2

/-- A strand waits inside a waiting strand instruction (R246); a LAUNCH waits for the page of its record. Its AGE does not rise. -/
def inWait (st : Strand) : Bool :=
  match st.hold with
  | some h => (match h.k with
    | .sleep _ => true | .wait _ _ _ _ => true | .waitt _ _ => true | .sdrain _ => true | .walks _ w0 => isLaunch w0 | _ => false)
  | none => false

/-- A strand is inside an instruction, and reaches its next boundary only when that completes: one of R246, or one that waits for a
copy-out, for answers, for acknowledgements or for the supervisor (R84). -/
def midInstr (st : Strand) : Bool :=
  inWait st || (match st.hold with
    | some h => (match h.k with | .rgnclr _ => true | .drop _ => true | .remote _ => true | .emul _ => true | _ => false)
    | none => false)

/-- Sparge frees granules for the head of the grant order (R84), which it serves from then on; `starve`: rule 4 applies too,
and a strand inside an instruction is marked to be spilled whole at its boundary. Answers whether Sparge waits for a write. -/
def spargeAct (s : State) (c : Nat) (starve : Bool) : State × Bool :=
  match getCore s c with
  | none => (s, false)
  | some x =>
    match reqHead x none with
    | none => (s, false)
    | some h =>
      let isParked (st : Strand) : Bool := match st.st with | .parkedWhole _ _ => true | _ => false
      let one := victims x fun p => p.1 ≠ h.slot && p.2.st == .blocked
      let two := victims x fun p => p.1 ≠ h.slot && p.2.st != .blocked && !isParked p.2 && spargeStalled p.2
      let four := if starve then victims x fun p => p.1 ≠ h.slot && !spargeStalled p.2 else []
      let wait (sl : Nat) : Bool := ((aget x.strands sl).map midInstr).getD true
      let same := x.served = some (h.slot, h.since)
      let s0 := modCore s c fun x =>
        { x with served := some (h.slot, h.since), marked := if same then x.marked else [], victims := if same then x.victims else [] }
      let mark (s : State) (sl : Nat) : State :=
        if spargeRests s c h.demand || !wait sl then s
        else modCore s c fun x => { x with marked := if x.marked.contains sl then x.marked else x.marked ++ [sl] }
      let r1 := takeVictims c h.demand (fun _ => true) (fun s _ => s) (one ++ two) (s0, false)
      let r2 := takeVictims c h.demand (fun _ => false) (fun s _ => s) [h.slot] r1
      takeVictims c h.demand (fun sl => !wait sl) mark four r2

end Sys2Proof.Machine
end

