-- ==== Sys2Proof/Machine/Control.lean ====
section
/-! DEFINITION. Majors 0x00 and 0x01: lane flow, branches, frames, traps and return (R247 to R256, R76 to R80). -/

namespace Sys2Proof.Machine

/-! ### Lane flow -/

/-- The executing lanes of a strand with new addresses. -/
def jumpLanes (s : State) (u : Cur) (m : Word) (t : Nat → BitVec 48) : State :=
  modStrand s u.core u.slot fun st =>
    { st with lanes := st.lanes.mapIdx fun l la => if inMask m l then { la with pcv := t l } else la }

/-- NOP (R247). -/
def execNop (f : Form) (s : State) : Host.Outcome State Fault Refusal :=
  runStrand (.nop f) f s fun s _ _ u m => clean (doneStrand s u f m)

/-- EXIT (R248). -/
def execExit (f : Form) (s : State) : Host.Outcome State Fault Refusal :=
  runStrand (.exit f) f s fun s _ _ u m => clean (exitLanes s u.core u.slot m)

/-- YIELD (R249). -/
def execYield (f : Form) (s : State) : Host.Outcome State Fault Refusal :=
  runStrand (.yield f) f s fun s _ _ u m =>
    clean (modStrand s u.core u.slot fun st => modLanes (advLanes st m f.bytes) m fun la => { la with st := .yielded })

/-- A 12-bit count in SA and SB (R250, R255). -/
def saSb (f : Form) : Nat := f.sa.toNat * 64 + f.sb.toNat

/-- SLEEP (R250). -/
def execSleep (f : Form) (s : State) : Host.Outcome State Fault Refusal :=
  runStrand (.sleep f) f s fun s _ _ u m =>
    clean (if saSb f = 0 then doneStrand s u f m else holdStrand s u (.sleep (64 * saSb f)) m f.bytes)

/-- NOPRE (R178, R251): inside an open bracket it changes nothing. -/
def execNopre (f : Form) (s : State) : Host.Outcome State Fault Refusal :=
  runStrand (.nopre f) f s fun s _ _ u m =>
    clean (doneStrand (modStrand s u.core u.slot fun st => if st.nopre then st else { st with nopre := true, npc := 0 }) u f m)

/-- PREOK (R178, R251): with no bracket open it changes nothing. -/
def execPreok (f : Form) (s : State) : Host.Outcome State Fault Refusal :=
  runStrand (.preok f) f s fun s _ _ u m =>
    clean (doneStrand (modStrand s u.core u.slot fun st => if st.nopre then { st with nopre := false, npc := 0 } else st) u f m)

/-! ### Branches (R238, R252, R253) -/

/-- The target of BRA at an address: an 18-bit or a 32-bit word offset, or LIT. -/
def braTarget (f : Form) (pc : BitVec 48) : BitVec 48 :=
  if f.hasLit then f.lit.extractLsb' 0 48
  else if f.ext then pc + (f.aux.signExtend 48 <<< 2)
  else pc + ((f.dst.extractLsb' 0 6 ++ f.sa.extractLsb' 0 6 ++ f.sb.extractLsb' 0 6).signExtend 48 <<< 2)

/-- BRA (R252). -/
def execBra (f : Form) (s : State) : Host.Outcome State Fault Refusal :=
  runStrand (.bra f) f s fun s _ _ u m => clean (jumpLanes s u m fun _ => braTarget f u.pc)

/-- What a code address in a pair breaks: poison, its high and low bits. -/
def badTarget (t : WVal) : Option Cause :=
  if t.p then some .poisonUse
  else if t.v.extractLsb' 48 16 ≠ 0 ∨ t.v.extractLsb' 0 2 ≠ 0 then some .addrForm
  else none

/-- BRI (R253). -/
def execBri (f : Form) (s : State) : Host.Outcome State Fault Refusal :=
  runStrand (.bri f) f s fun s _ st u m =>
    let bad := (lanesOf m).filterMap fun l => (badTarget (opA f st l 2)).map fun k =>
      ({ lane := l, cause := k, addr := (opA f st l 2).v, detail := 0 } : LFault)
    (jumpLanes s u (maskOf fun l => inMask m l && !(bad.any fun e => e.lane = l)) fun l => (opA f st l 2).v.extractLsb' 0 48, bad)

/-! ### Frames -/

/-- CALL (R78). -/
def execCall (f : Form) (s : State) : Host.Outcome State Fault Refusal := runCall (.call f) f false s

/-- CALLI (R78). -/
def execCalli (f : Form) (s : State) : Host.Outcome State Fault Refusal := runCall (.calli f) f true s

/-- RET (R79). -/
def execRet (f : Form) (s : State) : Host.Outcome State Fault Refusal :=
  runFrame (.ret f) f s fun _ st u m =>
    if st.handler.isSome ∨ st.frames.length ≤ 1 then failAll s u m .illegal 0 else clean (doRet s u.core u.slot m)

/-- UNWIND (R80). -/
def execUnwind (f : Form) (s : State) : Host.Outcome State Fault Refusal :=
  runFrame (.unwind f) f s fun _ st u m =>
    let n := f.sa.toNat
    if st.handler.isSome ∨ n = 0 ∨ st.frames.length ≤ n then failAll s u m .illegal 0
    else clean (wantReload (dropFrames (doneStrand s u f m) u.core u.slot n) u.core u.slot)

/-! ### Traps and return -/

/-- TRAP (R255). -/
def execTrap (f : Form) (s : State) : Host.Outcome State Fault Refusal :=
  runStrand (.trap f) f s fun s _ _ u m => failAll s u m .swtrap 0

/-- ERET (R256). -/
def execEret (f : Form) (s : State) : Host.Outcome State Fault Refusal :=
  runStrand (.eret f) f s fun s _ st u m =>
    if st.handler.isNone then failAll s u m .illegal 0 else clean (trapReturn s u.core u.slot)

end Sys2Proof.Machine
end

