-- ==== Sys2Proof/Machine/Issue.lean ====
section
/-! DEFINITION. Fetching an instruction's words (R228, R242 step 1, R263, R264), port selection (R41, R42), the round of a
strand (R12, R14), and the clock (R65, R177, R178, R250). -/

namespace Sys2Proof.Machine

/-! ### Fetch -/

/-- A line enters the instruction cache; a full one loses a line that is not pinned, which the spec leaves open (R1, R263, log 58). -/
def icPut (s : State) (c key : Nat) (l : List Byte × Bool × Bool) : State :=
  match getCore s c with
  | none => s
  | some x =>
    let free (p : Nat × (List Byte × Bool × Bool)) : Bool := !x.pins.contains p.1
    let n := (x.ic.filter free).length
    if Config.icLines ≤ x.ic.length ∧ 0 < n then
      setCore { s with freeCnt := s.freeCnt + 1 } c { x with ic := aput (dropNth free (Config.unstated s.freeCnt 22 % n) x.ic) key l }
    else setCore s c { x with ic := aput x.ic key l }

/-- A line of the core's instruction cache, filled from its home when it is not there. A line of a remote home that goes unanswered is
delivered poisoned, and does not stay (R409). -/
def icLine (s : State) (c : Nat) (e : Pte) (pa : Nat) : State × (List Byte × Bool × Bool) :=
  let k := lineKey e pa
  match (getCore s c).bind fun x => aget x.ic k with
  | some l => (s, l)
  | none =>
    let b := pa / 64 * 64
    if lateRead s e then (noteLate s e, (homeBytes s e b 64, true, true))
    else
      let l := (homeBytes s e b 64, homePois s e b 32, homePois s e (b + 32) 32)
      (icPut s c k l, l)

/-- What the fetch of one word gives. -/
inductive FRes where
  | word (w : Word) (pois : Bool)
  | bad (k : Cause)
  | wait (walk : Nat)
  | park (walk : Nat)
  deriving DecidableEq, Repr

/-- One word at a code address (R100). -/
def fetchWord (s : State) (c : Nat) (ctx : Nat) (va : Nat) : State × FRes :=
  match xlate s c ctx va with
  | .hit e =>
    if e.priv then (s, .bad .priv)
    else if e.xn then (s, .bad .xnFetch)
    else
      let pa := paOf e va
      let r := icLine s c e pa
      let w : Word := BitVec.ofNat 32 (leNat ((r.2.1.drop (pa % 64)).take 4))
      (r.1, .word w (if pa % 64 < 32 then r.2.2.1 else r.2.2.2))
  | .park w => (s, .park w)
  | .wait w => let r := startWalk s (dieOf c) ctx va false true false; (r.2, .wait w)
  | .miss => let r := startWalk s (dieOf c) ctx va false true false; (r.2, .wait r.1)

/-- What the fetch of an instruction gives: its words; a fault, with its address, and W0 and its length when W0 was read; a
walk of a page, running or found absent, with the address and W0 when it was read. -/
inductive Fetched where
  | words (ws : List Word)
  | bad (k : Cause) (addr : Nat) (w0 : Word) (ilen : Nat)
  | wait (walk : Nat) (addr : Nat) (w0 : Word)
  | park (walk : Nat) (addr : Nat) (w0 : Word) (ilen : Nat)
  deriving DecidableEq, Repr

/-- The n words from an address on; `acc` those fetched, last first. -/
def fetchRest (s : State) (c ctx : Nat) (va : Nat) (w0 : Word) (ilen : Nat) : Nat → List Word → State × Fetched
  | 0, acc => (s, .words acc.reverse)
  | n + 1, acc =>
    match fetchWord s c ctx (va % 2 ^ 48) with
    | (s1, .word w p) => if p then (s1, .bad .poisonUse 0 w0 ilen) else fetchRest s1 c ctx (va + 4) w0 ilen n (w :: acc)
    | (s1, .bad k) => (s1, .bad k va w0 ilen)
    | (s1, .wait w) => (s1, .wait w va w0)
    | (s1, .park w) => (s1, .park w va w0 ilen)

/-- The words of the instruction at an address (R228). -/
def fetch (s : State) (c ctx : Nat) (pc : BitVec 48) : State × Fetched :=
  match fetchWord s c ctx pc.toNat with
  | (s1, .word w p) =>
    if p then (s1, .bad .poisonUse 0 0 1)
    else fetchRest s1 c ctx (pc.toNat + 4) w (wordsOfLen (lenOf w)) (wordsOfLen (lenOf w) - 1) [w]
  | (s1, .bad k) => (s1, .bad k pc.toNat 0 1)
  | (s1, .wait w) => (s1, .wait w pc.toNat 0)
  | (s1, .park w) => (s1, .park w pc.toNat 0 1)

/-! ### Which strand issues -/

/-- The least `pcv` of the READY lanes (R14). -/
def minPc (st : Strand) : Option (BitVec 48) :=
  st.lanes.foldl (fun m la =>
    if la.st = .ready then
      (match m with
       | none => some la.pcv
       | some p => if la.pcv < p then some la.pcv else some p)
    else m) none

/-- The READY lanes at an address. -/
def atPc (st : Strand) (pc : BitVec 48) : Word := maskOf fun l => (lane st l).st == .ready && (lane st l).pcv == pc
def yieldedMask (st : Strand) : Word := maskOf fun l => (lane st l).st == .yielded

/-- The strand may issue or take an empty round (R41), its gang and context allowing (R11, R39). -/
def mayIssue (g : GState) (cs : CState) (st : Strand) : Bool :=
  (st.st == .running || st.st == .inHandler) && st.hold.isNone && st.trapPend.isNone &&
    (readyMask st != 0 || yieldedMask st != 0) && cs == .live &&
    (g == .placed || (g == .saving && st.nopre && decide (st.npc < Config.limit64k)))

/-- Some strand of the port is IN_TRIAL: the port issues nothing else (R20). -/
def portHeld (x : Core) (port : Nat) : Bool := x.strands.any fun p => p.1 % 4 = port && p.2.st == .inTrial

/-- Strand a of slot i goes before strand b of slot j: effective priority, cycles since the last issue, slot. A strand that has
never issued counts as waiting longest (log 56). -/
def goesFirst (a : Strand) (i : Nat) (b : Strand) (j : Nat) : Bool :=
  decide (b.eff < a.eff) || (a.eff == b.eff && (decide (a.last < b.last) || (a.last == b.last && decide (i < j))))

/-- The slot that a port of a core issues for (R41, R42); not one that Sparge stops (R84). -/
def pickSlot (s : State) (c port : Nat) : Option Nat :=
  match getCore s c with
  | none => none
  | some x =>
    match gangOf s x with
    | none => none
    | some g =>
      match aget s.ctxs g.ctx with
      | none => none
      | some cx =>
        if portHeld x port || s.power != .run then none
        else
          x.strands.foldl (fun best p =>
            if p.1 % 4 = port && !markedNow x p.1 && mayIssue g.st cx.st p.2 then
              (match best with
               | none => some p.1
               | some b => if (aget x.strands b).any fun t => goesFirst p.2 p.1 t b then some p.1 else some b)
            else best) none

/-- The first word at the least address of a strand's READY lanes, as its fetch would find it, where it is at hand. -/
def peekWord (s : State) (c : Nat) (x : Core) (st : Strand) : Option Word :=
  match minPc st with
  | none => none
  | some pc =>
    match xlate s c (ctxNum s c) pc.toNat with
    | .hit e =>
      let pa := paOf e pc.toNat
      let l := match aget x.ic (lineKey e pa) with | some l => (l.1.drop (pa % 64)).take 4 | none => homeBytes s e pa 4
      some (BitVec.ofNat 32 (bytesNat l))
    | _ => none

/-- The place of an instruction in the order of its core's cycle: a RGNSET goes first, for accesses of its cycle see the new binding
(R334); then the others, in the order of the ports; a PBAR after the stores of its cycle, which join the segment that it closes
(R334); a BAR or GBAR after these, by slot, for arrivals of one cycle count in slot order (R265); a BTEST last, for it sees the
completions of its cycle (R181). -/
def cycleKey (port sl : Nat) (w : Word) : Nat :=
  if majOf w = 3 ∧ minOf w < 2 then 16 + sl else if majOf w = 3 ∧ minOf w = 2 then 128
  else if majOf w = 0x33 ∧ minOf w = 1 then port else if majOf w = 0x34 ∧ minOf w = 2 then 8 + port else 4 + port

/-- The place of the instruction that a port would issue. -/
def portKey (s : State) (c port : Nat) : Option Nat :=
  match getCore s c, pickSlot s c port with
  | some x, some sl => some (((aget x.strands sl).bind (peekWord s c x)).elim (4 + port) (cycleKey port sl))
  | _, _ => none

/-- A port may have its round in this cycle: it has had none, and no instruction whose place comes after has issued (R41). -/
def portOpen (s : State) (c port : Nat) : Bool :=
  match getCore s c, portKey s c port with
  | some x, some k => !x.ported.testBit port && decide (x.lastKey ≤ k)
  | _, _ => true

/-- The port of a core has its round. -/
def portServed (s : State) (c port : Nat) : State :=
  match portKey s c port with
  | some k => modCore s c fun x => { x with ported := x.ported ||| 2 ^ port, lastKey := k }
  | none => s

/-- The port of a core that goes next, of those not yet served in this cycle. -/
def nextPort (s : State) (c served : Nat) : Option Nat :=
  ([0, 1, 2, 3].foldl (fun (b : Option (Nat × Nat)) p =>
    if served.testBit p || !portOpen s c p then b
    else
      match portKey s c p, b with
      | none, _ => b
      | some k, none => some (k, p)
      | some k, some q => if k < q.1 then some (k, p) else b) none).map (·.2)

/-- The next port of the cycle that has a strand to issue for: core, port, and the place from which the round goes on. `turn` is
16 × the place of the core in the list and the set of its ports that have been served. -/
def nextIssue (s : State) : Option (Nat × Nat × Nat) :=
  ((s.cores.drop (s.turn / 16)).zipIdx (s.turn / 16)).findSome? fun p =>
    let served := if p.2 = s.turn / 16 then s.turn % 16 else 0
    (nextPort s p.1.1 served).map fun q => (p.1.1, q, 16 * p.2 + (served ||| 2 ^ q) - 1)

/-! ### The round -/

/-- What a round does: it is over; or an instruction, or a happening of the round, is executed in a state. -/
inductive Plan where
  | over (s : State)
  | run (i : Instr) (s : State)
  deriving DecidableEq, Repr

/-- The instruction that words stand for, or what becomes of them (R242, R243). -/
def instrOf (ws : List Word) : Instr :=
  match decode (Words.ofList ws) with
  | .ok i => i
  | .error _ => .nonInstruction (ws.headD 0)

/-- The round of a strand: a due record or an empty round comes first, then the instruction at the least address. -/
def planIssue (s : State) (c sl : Nat) (mm1 mm2 : Word) : Plan :=
  match getCore s c with
  | none => .over s
  | some x =>
    match aget x.strands sl with
    | none => .over s
    | some st =>
      if !st.due.isEmpty && st.bnd && st.st == .running then .run (.storeFaultDeliver c sl) s
      else
        match minPc st with
        | none => .run .emptyRound { s with cur := some { core := c, slot := sl, pc := 0, mask := 0, w0 := 0, ilen := 0, mm1 := 0, mm2 := 0 } }
        | some pc =>
          let m := atPc st pc
          let cur (w0 : Word) (n : Nat) : Option Cur :=
            some { core := c, slot := sl, pc := pc, mask := m, w0 := w0, ilen := n, mm1 := mm1 &&& m, mm2 := mm2 &&& m }
          match fetch s c (ctxNum s c) pc with
          | (s1, .words ws) => .run (instrOf ws) { s1 with cur := cur (ws.headD 0) ws.length }
          | (s1, .bad k a w0 n) => .run (.fetchFault (BitVec.ofNat 8 k.code) (BitVec.ofNat 64 a)) { s1 with cur := cur w0 n }
          | (s1, .wait w a w0) => .over (holdWalk s1 c sl w0 [(w, (lanesOf m).map fun l => (l, BitVec.ofNat 64 a))])
          | (s1, .park w a w0 n) => .run (.fetchFault 5 (BitVec.ofNat 64 a)) { walkJoin s1 w false true false with cur := cur w0 n }

/-- The round of a port. -/
def planPort (s : State) (c port : Nat) (mm1 mm2 : Word) : Plan :=
  match pickSlot s c port with
  | none => .over s
  | some sl => planIssue (portServed s c port) c sl mm1 mm2

/-- The instruction stalled: it has not issued. -/
def stalled (st : Strand) : Bool :=
  match st.hold with
  | some h => (match h.k with | .retry => true | .walks _ _ => true | _ => false)
  | none => false

/-- After a round that issued: AGE is clear and EFF is the base priority, but in a handler AGE stays and EFF is 255; lanes that were
YIELDED before it are READY (R12, R177). -/
def issueEnd (before : State) (s : State) : State :=
  match before.cur with
  | none => s
  | some u =>
    let yl := ((getStrand before u.core u.slot).map yieldedMask).getD 0
    let sid := (getStrand before u.core u.slot).map (·.sid)
    let s1 := modStrand s u.core u.slot fun st =>
      if some st.sid = sid ∧ !stalled st then
        { modLanes st yl (fun la => if la.st = .yielded then { la with st := .ready } else la) with
          age := if st.handler.isSome then st.age else 0, eff := if st.handler.isSome then 255 else st.prio, last := s.clock.toNat + 1, bnd := st.hold.isNone && !st.due.isEmpty }
      else if some st.sid = sid then { st with bnd := !st.due.isEmpty }
      else st
    { s1 with cur := none }

/-! ### The clock -/

/-- AGE reaches 4,096: it returns to 0 and EFF rises by one, up to 255 (R177). -/
def ageStep (st : Strand) : Strand :=
  if 4096 ≤ st.age then { st with age := 0, eff := if st.eff < 255 then st.eff + 1 else st.eff } else st

/-- A cycle of a strand, which is cycle `now`: AGE where it did not issue in it (R177), NPC, the count of SLEEP, and the end of a
stall at issue. -/
def tickStrand (now : Nat) (st : Strand) : Strand :=
  let waits := (st.st == .running || st.st == .inHandler) && (readyMask st != 0 || yieldedMask st != 0) && !inWait st &&
    st.last != now + 1
  let st1 := if waits then ageStep { st with age := st.age + 1 } else st
  let st2 := if st1.nopre && decide (st1.npc < Config.limit64k) then { st1 with npc := st1.npc + 1 } else st1
  match st2.hold with
  | some h =>
    (match h.k with
     | .sleep n => { st2 with hold := some { h with k := .sleep (n - 1) } }
     | .retry => { st2 with hold := none }
     | _ => st2)
  | none => st2

/-- One half of a 48-bit address in place of the other's (R64). -/
def setHalf (a : BitVec 48) (hi : Bool) (v : Word) : BitVec 48 :=
  if hi then v.extractLsb' 0 16 ++ a.extractLsb' 0 32 else a.extractLsb' 32 16 ++ v

/-- A write of %trapctl or of a half of %trapvec takes its place. -/
def sysLand (x : Core) (n : Nat) (v : Word) : Core :=
  if n = 0x40 then { x with trapctl := v } else { x with trapvec := setHalf x.trapvec (n = 0x42) v }

/-- The writes of a cycle govern from the next one; of ports that wrote one register, the highest stands (R70, R258). -/
def sysSettle (x : Core) : Core :=
  { (List.range 4).foldl (fun y p => (x.sysNext.filter fun w => w.2.1 = p).foldl (fun y w => sysLand y w.1 w.2.2) y) x with sysNext := [] }

/-- A cycle of the clock, of every strand, and of Sparge's quiescence count (R65, R83). Once CONTAINMENT_STOP has fired, the Cask
queues drain (R373). -/
def tick (s : State) : State :=
  let one (x : Core) : Core :=
    let y := sysSettle (mapCoreStrands (tickStrand s.clock.toNat) x)
    { y with quiet := if spargeQuiet y then y.quiet + 1 else 0, ported := 0, lastKey := 0 }
  { s with clock := s.clock + 1, turn := 0, cores := s.cores.map (fun p => (p.1, one p.2)),
           nvLog := if s.power = .stopped then [] else s.nvLog }

end Sys2Proof.Machine
end

