-- ==== Sys2Proof/Machine/Flags.lean ====
section
/-! DEFINITION. Flags and numbers: the bits of %fpflags (R69), integer wrapping and saturation (R216, R280), the float
formats (R206), rounding once from the exact value (R209 to R214), comparisons, and the float operations. -/

namespace Sys2Proof.Machine

/-! ### Bits of %fpflags (R69) -/

abbrev Flags := BitVec 9
def fNV : Flags := 1
def fDZ : Flags := 2
def fOF : Flags := 4
def fUF : Flags := 8
def fNX : Flags := 16
def fOVF : Flags := 32
def fNAN : Flags := 64
def fTCODE : Flags := 128
def fISAT : Flags := 256
def flagIf (b : Bool) (f : Flags) : Flags := if b then f else 0

/-! ### Integers -/

/-- A w-bit field read by its signedness. -/
def readInt (v : Nat) (w : Nat) (sgn : Bool) : Int :=
  let n := v % 2 ^ w
  if sgn && decide (2 ^ (w - 1) ≤ n) then (n : Int) - 2 ^ w else n

def intMin (w : Nat) (sgn : Bool) : Int := if sgn then -(2 ^ (w - 1) : Int) else 0
def intMax (w : Nat) (sgn : Bool) : Int := if sgn then 2 ^ (w - 1) - 1 else 2 ^ w - 1
/-- A value modulo 2^w. -/
def wrapInt (x : Int) (w : Nat) : DWord := BitVec.ofNat 64 ((x % (2 ^ w : Int)).toNat)

/-- An exact result delivered: wrapped, or under SAT clamped to the type with ISAT when it clamps (R280). -/
def deliverInt (x : Int) (w : Nat) (sgn sat : Bool) : DWord × Flags :=
  if sat then
    let r := if x < intMin w sgn then intMin w sgn else if intMax w sgn < x then intMax w sgn else x
    (wrapInt r w, flagIf (r != x) fISAT)
  else (wrapInt x w, 0)

/-! ### Formats (R206) -/

/-- A float format: exponent and fraction bits, bias; `e4m3` has no infinity; `ftz` reads and writes no subnormal. -/
structure Fmt where
  eb : Nat
  mb : Nat
  bias : Nat
  e4m3 : Bool
  ftz : Bool
  deriving DecidableEq, Repr

def fmtF32 : Fmt := { eb := 8, mb := 23, bias := 127, e4m3 := false, ftz := false }
def fmtF16 : Fmt := { eb := 5, mb := 10, bias := 15, e4m3 := false, ftz := false }
def fmtBf16 : Fmt := { eb := 8, mb := 7, bias := 127, e4m3 := false, ftz := true }
def fmtE4m3 : Fmt := { eb := 4, mb := 3, bias := 7, e4m3 := true, ftz := false }
def fmtE5m2 : Fmt := { eb := 5, mb := 2, bias := 15, e4m3 := false, ftz := false }

/-- The format of a TYPE code 4 to 8 (R235). -/
def fmtOf (t : BitVec 4) : Fmt :=
  if t = 5 then fmtF16 else if t = 6 then fmtBf16 else if t = 7 then fmtE4m3 else if t = 8 then fmtE5m2 else fmtF32

def Fmt.bits (t : Fmt) : Nat := 1 + t.eb + t.mb
/-- The canonical NaN. -/
def Fmt.nan (t : Fmt) : Nat :=
  if t.e4m3 then 0x7F else (2 ^ t.eb - 1) * 2 ^ t.mb + (if t.mb = 2 then 2 else 2 ^ (t.mb - 1))
def Fmt.sbit (t : Fmt) (s : Bool) : Nat := if s then 2 ^ (t.eb + t.mb) else 0
def Fmt.inf (t : Fmt) (s : Bool) : Nat := t.sbit s + (2 ^ t.eb - 1) * 2 ^ t.mb
/-- The largest finite encoding. -/
def Fmt.maxEnc (t : Fmt) : Nat := if t.e4m3 then 0x7E else (2 ^ t.eb - 1) * 2 ^ t.mb - 1

/-- A value: NaN, an infinity, or (−1)^s × m × 2^e. -/
inductive FVal where
  | nan
  | inf (s : Bool)
  | num (s : Bool) (m : Nat) (e : Int)
  deriving DecidableEq, Repr

/-- The value of an encoding (R206, R208, R211). -/
def Fmt.read (t : Fmt) (b : Nat) : FVal :=
  let v := b % 2 ^ t.bits
  let s := decide (2 ^ (t.eb + t.mb) ≤ v)
  let e := v / 2 ^ t.mb % 2 ^ t.eb
  let m := v % 2 ^ t.mb
  if t.e4m3 then
    (if e = 15 ∧ m = 7 then .nan
     else if e = 0 then .num s m (1 - (t.bias : Int) - t.mb) else .num s (m + 2 ^ t.mb) ((e : Int) - t.bias - t.mb))
  else if e = 2 ^ t.eb - 1 then (if m = 0 then .inf s else .nan)
  else if e = 0 then .num s (if t.ftz then 0 else m) (1 - (t.bias : Int) - t.mb)
  else .num s (m + 2 ^ t.mb) ((e : Int) - t.bias - t.mb)

/-- m × 2^k rounded to an integer in a mode (R209), m carrying a sticky bit below its last; and whether it was inexact. -/
def roundShift (mode : Nat) (s : Bool) (m : Nat) (sticky : Bool) (k : Int) : Nat × Bool :=
  if 0 ≤ k then
    let q := m * 2 ^ k.toNat
    (if sticky && ((mode = 2 && !s) || (mode = 3 && s)) then q + 1 else q, sticky)
  else
    let n := (-k).toNat
    let q := m / 2 ^ n
    let r := m % 2 ^ n
    let half := 2 ^ (n - 1)
    let inexact := r != 0 || sticky
    let up := if mode = 0 then decide (half < r) || (r == half && (sticky || q % 2 == 1))
      else if mode = 2 then inexact && !s else if mode = 3 then inexact && s else false
    (if up then q + 1 else q, inexact)

/-- m × 2^e ≤ n × 2^f, on naturals. -/
def leScaled (m : Nat) (e : Int) (n : Nat) (f : Int) : Bool :=
  if e ≤ f then decide (m ≤ n * 2 ^ (f - e).toNat) else decide (m * 2 ^ (e - f).toNat ≤ n)

/-- The value m × 2^e, m ≠ 0, rounded to the format's precision with the exponent unbounded. -/
def roundFree (t : Fmt) (mode : Nat) (s : Bool) (m : Nat) (sticky : Bool) (e : Int) : Nat × Int :=
  let k : Int := (t.mb : Int) - Nat.log2 m
  ((roundShift mode s m sticky k).1, e - k)

/-- The rounded value lies beyond the largest finite value. -/
def beyond (t : Fmt) (r : Nat × Int) : Bool :=
  let f := if t.e4m3 then (14, (5 : Int)) else (2 ^ (t.mb + 1) - 1, (2 ^ t.eb - 2 : Int) - t.bias - t.mb)
  !leScaled r.1 r.2 f.1 f.2

/-- Whether MOD[6] of the instruction saturates an E5M2 overflow, and whether it answers NaN to an E4M3 one (R213). -/
structure Over where
  sat : Bool
  nosat : Bool
  deriving DecidableEq, Repr

def Over.plain : Over := { sat := false, nosat := false }

/-- The encoding an overflow delivers (R209, R213). -/
def overEnc (t : Fmt) (mode : Nat) (o : Over) (s : Bool) : Nat :=
  if t.e4m3 then (if o.nosat then 0x7F else t.sbit s + 0x7E)
  else if o.sat then t.sbit s + t.maxEnc
  else if mode = 1 || (mode = 2 && s) || (mode = 3 && !s) then t.sbit s + t.maxEnc
  else t.inf s

/-- The value (−1)^s × m × 2^e, m ≠ 0, with a sticky bit, rounded once into the format: encoding and OF, UF, NX (R209 to
R211, R213). OF is set where the value is beyond the largest finite value rounded in the mode or, as R292's example has
it, to nearest (log 20). -/
def roundNum (t : Fmt) (mode : Nat) (o : Over) (s : Bool) (m : Nat) (sticky : Bool) (e : Int) : Nat × Flags :=
  let r := roundFree t mode s m sticky e
  if beyond t r then (overEnc t mode o s, fOF ||| fNX)
  else
    let of2 := flagIf (!t.e4m3 && beyond t (roundFree t 0 s m sticky e)) fOF
    let emin : Int := 1 - (t.bias : Int)
    let tiny := !leScaled 1 emin r.1 r.2
    if tiny && t.ftz then (t.sbit s, fUF ||| fNX)
    else
      let quantum : Int := if tiny then emin - t.mb else r.2
      let d := roundShift mode s m sticky (e - quantum)
      let fl := flagIf d.2 fNX ||| flagIf (tiny && d.2) fUF ||| of2
      if tiny then (t.sbit s + d.1, fl)
      else
        let n := Nat.log2 r.1
        let ex : Int := r.2 + n + t.bias
        let frac := if t.mb ≤ n then r.1 / 2 ^ (n - t.mb) else r.1 * 2 ^ (t.mb - n)
        (t.sbit s + ex.toNat * 2 ^ t.mb + (frac - 2 ^ t.mb), fl)

/-- Round a value into a format; `from` an infinite source of a conversion counts as overflow where R213 says. -/
def roundVal (t : Fmt) (mode : Nat) (o : Over) (v : FVal) : Nat × Flags :=
  match v with
  | .nan => (t.nan, 0)
  | .inf s => if t.e4m3 || o.sat then (overEnc t mode o s, fOF ||| fNX) else (t.inf s, 0)
  | .num s m e => if m = 0 then (t.sbit s, 0) else roundNum t mode o s m false e

/-! ### Exact operations on values -/

def fneg : FVal → FVal
  | .nan => .nan
  | .inf s => .inf (!s)
  | .num s m e => .num (!s) m e

/-- The exact sum of two numbers; an exact zero is −0 from two −0, and otherwise −0 under RD and +0 in the other
modes (R212). -/
def addNum (mode : Nat) (s : Bool) (m : Nat) (e : Int) (s' : Bool) (m' : Nat) (e' : Int) : FVal :=
  let f := if e ≤ e' then e else e'
  let a : Int := (if s then -1 else 1) * ((m * 2 ^ (e - f).toNat : Nat) : Int)
  let b : Int := (if s' then -1 else 1) * ((m' * 2 ^ (e' - f).toNat : Nat) : Int)
  let r := a + b
  if r = 0 then .num (if m = 0 && m' = 0 && s && s' then true else mode = 3) 0 f
  else .num (decide (r < 0)) r.natAbs f

/-- The exact sum, with NV for ∞ − ∞ or a NaN. -/
def fadd (mode : Nat) (a b : FVal) : FVal × Flags :=
  match a, b with
  | .nan, _ => (.nan, fNV)
  | _, .nan => (.nan, fNV)
  | .inf s, .inf s' => if s = s' then (.inf s, 0) else (.nan, fNV)
  | .inf s, _ => (.inf s, 0)
  | _, .inf s => (.inf s, 0)
  | .num s m e, .num s' m' e' => (addNum mode s m e s' m' e', 0)

/-- The exact product, with NV for 0 × ∞ or a NaN. -/
def fmul (a b : FVal) : FVal × Flags :=
  match a, b with
  | .nan, _ => (.nan, fNV)
  | _, .nan => (.nan, fNV)
  | .inf s, .inf s' => (.inf (s != s'), 0)
  | .inf s, .num s' m _ => if m = 0 then (.nan, fNV) else (.inf (s != s'), 0)
  | .num s m _, .inf s' => if m = 0 then (.nan, fNV) else (.inf (s != s'), 0)
  | .num s m e, .num s' m' e' => (.num (s != s') (m * m') (e + e'), 0)

/-- a × b + c exactly (R209): NV as R210 gives. -/
def ffma (mode : Nat) (a b c : FVal) : FVal × Flags :=
  let p := fmul a b
  match p.1, c with
  | .nan, _ => (.nan, fNV)
  | _, _ => let r := fadd mode p.1 c; (r.1, p.2 ||| r.2)

/-- An operation's exact value rounded, with its flags. -/
def finish (t : Fmt) (mode : Nat) (r : FVal × Flags) : Nat × Flags :=
  let d := roundVal t mode .plain r.1
  (d.1, r.2 ||| d.2)

/-- a / b, correctly rounded, with DZ and NV (R210, R292). -/
def fdiv (t : Fmt) (mode : Nat) (a b : FVal) : Nat × Flags :=
  match a, b with
  | .nan, _ => (t.nan, fNV)
  | _, .nan => (t.nan, fNV)
  | .inf _, .inf _ => (t.nan, fNV)
  | .inf s, .num s' _ _ => (t.inf (s != s'), 0)
  | .num s _ _, .inf s' => (t.sbit (s != s'), 0)
  | .num s m e, .num s' m' e' =>
    if m' = 0 then (if m = 0 then (t.nan, fNV) else (t.inf (s != s'), fDZ))
    else if m = 0 then (t.sbit (s != s'), 0)
    else
      let k : Nat := 64
      let n := m * 2 ^ k
      roundNum t mode .plain (s != s') (n / m') (n % m' != 0) (e - e' - (k : Int))

/-- The integer square root by n bit steps from the top. -/
def isqrt (v : Nat) : Nat → Nat → Nat
  | 0, r => r
  | n + 1, r => let c := r + 2 ^ n; isqrt v n (if c * c ≤ v then c else r)

/-- √a, correctly rounded (R292); √−0 is −0, below −0 NaN with NV. -/
def fsqrt (t : Fmt) (mode : Nat) (a : FVal) : Nat × Flags :=
  match a with
  | .nan => (t.nan, fNV)
  | .inf s => if s then (t.nan, fNV) else (t.inf false, 0)
  | .num s m e =>
    if m = 0 then (t.sbit s, 0)
    else if s then (t.nan, fNV)
    else
      let odd := e % 2 ≠ 0
      let m1 := (if odd then 2 * m else m) * 2 ^ 64
      let e1 : Int := (if odd then e - 1 else e) - 64
      let r := isqrt m1 48 0
      roundNum t mode .plain false r (r * r != m1) (e1 / 2)

/-- a rounded to an integral value in the mode, keeping the sign of zero; NV for NaN only (R292). -/
def frnd (t : Fmt) (mode : Nat) (a : FVal) : Nat × Flags :=
  match a with
  | .nan => (t.nan, fNV)
  | .inf s => (t.inf s, 0)
  | .num s m e =>
    let q := (roundShift mode s m false e).1
    (if q = 0 then t.sbit s else (roundVal t mode .plain (.num s q 0)).1, 0)

/-- a < b and a = b on values that are no NaN; −0 equals +0. -/
def fcmp (a b : FVal) : Ordering :=
  match a, b with
  | .inf s, .inf s' => if s = s' then .eq else if s then .lt else .gt
  | .inf s, _ => if s then .lt else .gt
  | _, .inf s => if s then .gt else .lt
  | .num s m e, .num s' m' e' =>
    match addNum 0 s m e (!s') m' e' with
    | .num r k _ => if k = 0 then .eq else if r then .lt else .gt
    | _ => .eq
  | _, _ => .eq

def FVal.isNan : FVal → Bool
  | .nan => true
  | _ => false

/-- The value's sign. -/
def FVal.neg : FVal → Bool
  | .nan => false
  | .inf s => s
  | .num s _ _ => s

/-- The condition codes of R286 from an ordering. -/
def condHolds (c : BitVec 3) (o : Ordering) : Bool :=
  if c = 0 then o == .eq else if c = 1 then o != .eq else if c = 2 then o == .lt else if c = 3 then o != .gt
  else if c = 4 then o == .gt else o != .lt

/-- FCMP (R293): with a NaN only `.ne` holds, and the ordered relations set NV. -/
def fcmpCond (c : BitVec 3) (a b : FVal) : Bool × Flags :=
  if a.isNan || b.isNan then (c = 1, flagIf (decide (2 ≤ c.toNat)) fNV) else (condHolds c (fcmp a b), 0)

/-- FMIN and FMAX on encodings (R212): −0 below +0, NaN gives the other operand. -/
def fminmax (t : Fmt) (max : Bool) (x y : Nat) : Nat × Flags :=
  let a := t.read x
  let b := t.read y
  let canon (z : Nat) : Nat := (roundVal t 0 .plain (t.read z)).1
  if a.isNan && b.isNan then (t.nan, fNV)
  else if a.isNan then (canon y, fNV)
  else if b.isNan then (canon x, fNV)
  else
    let less := match fcmp a b with
      | .lt => true
      | .gt => false
      | .eq => a.neg || !b.neg
    (canon (if less != max then x else y), 0)

/-- The class mask of R296. -/
def fclass (t : Fmt) (b : Nat) : Nat :=
  match t.read b with
  | .nan => 256
  | .inf s => if s then 1 else 128
  | .num s m _ =>
    if m = 0 then (if s then 8 else 16)
    else if b / 2 ^ t.mb % 2 ^ t.eb = 0 then (if s then 4 else 32)
    else (if s then 2 else 64)

/-- A value converted to an integer of w bits in a mode (R214): the integer and its flags. -/
def toInt (v : FVal) (mode w : Nat) (sgn : Bool) : Int × Flags :=
  match v with
  | .nan => (0, fNV)
  | .inf s => (if s then intMin w sgn else intMax w sgn, fNV)
  | .num s m e =>
    let r := roundShift mode s m false e
    let x : Int := if s then -(r.1 : Int) else r.1
    if x < intMin w sgn then (intMin w sgn, fNV)
    else if intMax w sgn < x then (intMax w sgn, fNV)
    else (x, flagIf r.2 fNX)

/-- An integer as a value. -/
def ofInt (x : Int) : FVal := .num (decide (x < 0)) x.natAbs 0

/-! ### Integer conditions -/

/-- The order of two integers. -/
def icmp (a b : Int) : Ordering := if a < b then .lt else if a = b then .eq else .gt

end Sys2Proof.Machine
end

