-- ==== Sys2Proof/Machine/Integer.lean ====
section
/-! DEFINITION. Majors 0x08 to 0x0E: integers, logic, shifts, bit fields, compares, selects, predicates, moves
(R275 to R291, R216). -/

namespace Sys2Proof.Machine

/-! ### Integer arithmetic (R280) -/

/-- Width and signedness of TYPE. -/
def intW (f : Form) : Nat := 32 * f.w64
def intSgn (f : Form) : Bool := intTySigned f.ty

/-- The integer of a source under TYPE. -/
def intOf (f : Form) (v : DWord) : Int := readInt v.toNat (intW f) (intSgn f)

/-- An instruction of one, two or three sources of the TYPE: the exact integer, delivered under R280. -/
def runInt (i : Instr) (f : Form) (s : State) (nb nc : Nat) (g : Int → Int → Int → Int) : Host.Outcome State Fault Refusal :=
  runAlu i f s f.w64 f.w64 nb nc fun a b c => deliverInt (g (intOf f a) (intOf f b) (intOf f c)) (intW f) (intSgn f) f.sat

/-- IADD (R280). -/
def execIadd (f : Form) (s : State) : Host.Outcome State Fault Refusal := runInt (.iadd f) f s f.w64 0 fun a b _ => a + b

/-- ISUB (R280). -/
def execIsub (f : Form) (s : State) : Host.Outcome State Fault Refusal := runInt (.isub f) f s f.w64 0 fun a b _ => a - b

/-- IMIN (R280). -/
def execImin (f : Form) (s : State) : Host.Outcome State Fault Refusal := runInt (.imin f) f s f.w64 0 fun a b _ => min a b

/-- IMAX (R280). -/
def execImax (f : Form) (s : State) : Host.Outcome State Fault Refusal := runInt (.imax f) f s f.w64 0 fun a b _ => max a b

/-- IABS (R280). -/
def execIabs (f : Form) (s : State) : Host.Outcome State Fault Refusal := runInt (.iabs f) f s 0 0 fun a _ _ => (a.natAbs : Int)

/-- INEG (R280). -/
def execIneg (f : Form) (s : State) : Host.Outcome State Fault Refusal := runInt (.ineg f) f s 0 0 fun a _ _ => -a

/-- ISAD (R280). -/
def execIsad (f : Form) (s : State) : Host.Outcome State Fault Refusal :=
  runInt (.isad f) f s f.w64 f.w64 fun a b c => ((a - b).natAbs : Int) + c

/-- IMUL (R280). -/
def execImul (f : Form) (s : State) : Host.Outcome State Fault Refusal := runInt (.imul f) f s f.w64 0 fun a b _ => a * b

/-- IMULH (R216): the high half of the exact product. -/
def execImulh (f : Form) (s : State) : Host.Outcome State Fault Refusal :=
  runInt (.imulh f) f s f.w64 0 fun a b _ => a * b / 2 ^ intW f

/-- IMAD (R280). -/
def execImad (f : Form) (s : State) : Host.Outcome State Fault Refusal :=
  runInt (.imad f) f s f.w64 f.w64 fun a b c => a * b + c

/-- IDIV (R216): all ones for a zero divisor. -/
def execIdiv (f : Form) (s : State) : Host.Outcome State Fault Refusal :=
  runAlu (.idiv f) f s f.w64 f.w64 f.w64 0 fun a b _ =>
    if intOf f b = 0 then (BitVec.allOnes 64, 0) else deliverInt ((intOf f a).tdiv (intOf f b)) (intW f) (intSgn f) f.sat

/-- IREM (R216): the dividend for a zero divisor. -/
def execIrem (f : Form) (s : State) : Host.Outcome State Fault Refusal :=
  runAlu (.irem f) f s f.w64 f.w64 f.w64 0 fun a b _ =>
    if intOf f b = 0 then (a, 0) else deliverInt ((intOf f a).tmod (intOf f b)) (intW f) (intSgn f) false

/-- IMULW (R216): the exact product of 32-bit sources in a pair. -/
def execImulw (f : Form) (s : State) : Host.Outcome State Fault Refusal :=
  runAlu (.imulw f) f s 2 1 1 0 fun a b _ => deliverInt (intOf f a * intOf f b) 64 (intSgn f) false

/-! ### Logic and shifts (R281, R282) -/

/-- A logic instruction on sources of the TYPE's width. -/
def runLogic (i : Instr) (f : Form) (s : State) (g : DWord → DWord → DWord) : Host.Outcome State Fault Refusal :=
  runAlu i f s f.w64 f.w64 f.w64 0 fun a b _ => (g a b, 0)

/-- AND (R281). -/
def execAnd (f : Form) (s : State) : Host.Outcome State Fault Refusal := runLogic (.and f) f s fun a b => a &&& b

/-- OR (R281). -/
def execOr (f : Form) (s : State) : Host.Outcome State Fault Refusal := runLogic (.or f) f s fun a b => a ||| b

/-- XOR (R281). -/
def execXor (f : Form) (s : State) : Host.Outcome State Fault Refusal := runLogic (.xor f) f s fun a b => a ^^^ b

/-- ANDN (R281). -/
def execAndn (f : Form) (s : State) : Host.Outcome State Fault Refusal := runLogic (.andn f) f s fun a b => a &&& ~~~b

/-- NOT (R281). -/
def execNot (f : Form) (s : State) : Host.Outcome State Fault Refusal :=
  runAlu (.not f) f s f.w64 f.w64 0 0 fun a _ _ => (~~~a, 0)

/-- The look-up of R282 on three words: bit i of the result is the table's bit for bits i of a, b and c. -/
def lutWord (tab : Nat) (a b c : Word) : Word :=
  (List.range 8).foldl (fun r i =>
    if tab.testBit i then
      r ||| ((if i.testBit 0 then a else ~~~a) &&& (if i.testBit 1 then b else ~~~b) &&& (if i.testBit 2 then c else ~~~c))
    else r) 0

/-- BLUT (R282). -/
def execBlut (f : Form) (s : State) : Host.Outcome State Fault Refusal :=
  runAlu (.blut f) f s 1 1 1 1 fun a b c => ((lutWord f.aux.toNat (a.extractLsb' 0 32) (b.extractLsb' 0 32) (c.extractLsb' 0 32)).setWidth 64, 0)

/-- A shift of a by a 32-bit count modulo the width. -/
def runShift (i : Instr) (f : Form) (s : State) (g : DWord → Nat → DWord) : Host.Outcome State Fault Refusal :=
  runAlu i f s f.w64 f.w64 1 0 fun a b _ => (g a (b.toNat % intW f), 0)

/-- a, w bits wide, rotated left by n below w. -/
def rotl (w : Nat) (a : DWord) (n : Nat) : DWord := (a <<< n) ||| (a >>> (w - n))

/-- SHL (R281). -/
def execShl (f : Form) (s : State) : Host.Outcome State Fault Refusal := runShift (.shl f) f s fun a n => a <<< n

/-- SHR (R281): zero-filled for every TYPE. -/
def execShr (f : Form) (s : State) : Host.Outcome State Fault Refusal := runShift (.shr f) f s fun a n => a >>> n

/-- SAR (R281): filled with the top bit for every TYPE. -/
def execSar (f : Form) (s : State) : Host.Outcome State Fault Refusal :=
  runShift (.sar f) f s fun a n => wrapInt (readInt a.toNat (intW f) true / 2 ^ n) 64

/-- ROTL (R281). -/
def execRotl (f : Form) (s : State) : Host.Outcome State Fault Refusal := runShift (.rotl f) f s fun a n => rotl (intW f) a n

/-- ROTR (R281). -/
def execRotr (f : Form) (s : State) : Host.Outcome State Fault Refusal :=
  runShift (.rotr f) f s fun a n => rotl (intW f) a ((intW f - n) % intW f)

/-- FSHL (R281). -/
def execFshl (f : Form) (s : State) : Host.Outcome State Fault Refusal :=
  runAlu (.fshl f) f s 1 1 1 1 fun a b c => ((((a <<< 32) ||| b) <<< (c.toNat % 32)) >>> 32, 0)

/-- FSHR (R281). -/
def execFshr (f : Form) (s : State) : Host.Outcome State Fault Refusal :=
  runAlu (.fshr f) f s 1 1 1 1 fun a b c => (((a <<< 32) ||| b) >>> (c.toNat % 32), 0)

/-! ### Bit counts, fields and bytes (R283 to R285) -/

/-- Leading zeros of a w-bit value, trailing zeros, ones, and its bits reversed. -/
def clz (v w : Nat) : Nat := if v = 0 then w else w - 1 - Nat.log2 v
def ctz (v w : Nat) : Nat := ((List.range w).find? v.testBit).getD w
def popc (v w : Nat) : Nat := ((List.range w).filter v.testBit).length
def brev (v w : Nat) : Nat := (List.range w).foldl (fun r i => if v.testBit i then r + 2 ^ (w - 1 - i) else r) 0

/-- A count or a reversal of a source of the TYPE's width into wd registers. -/
def runCount (i : Instr) (f : Form) (s : State) (wd : Nat) (g : Nat → Nat → Nat) : Host.Outcome State Fault Refusal :=
  runAlu i f s wd f.w64 0 0 fun a _ _ => (BitVec.ofNat 64 (g a.toNat (intW f)), 0)

/-- CLZ (R283). -/
def execClz (f : Form) (s : State) : Host.Outcome State Fault Refusal := runCount (.clz f) f s 1 clz

/-- CTZ (R283). -/
def execCtz (f : Form) (s : State) : Host.Outcome State Fault Refusal := runCount (.ctz f) f s 1 ctz

/-- POPC (R283). -/
def execPopc (f : Form) (s : State) : Host.Outcome State Fault Refusal := runCount (.popc f) f s 1 popc

/-- BREV (R283). -/
def execBrev (f : Form) (s : State) : Host.Outcome State Fault Refusal := runCount (.brev f) f s f.w64 brev

/-- Position and length of the field that a control operand names; length 0 for an empty field (R284). -/
def bitField (ctl : DWord) : Nat × Nat :=
  let p := ctl.toNat % 256
  let l := ctl.toNat / 256 % 256
  if 32 ≤ p ∨ l = 0 then (0, 0) else (p, min l (32 - p))

/-- BFE (R284). -/
def execBfe (f : Form) (s : State) : Host.Outcome State Fault Refusal :=
  runAlu (.bfe f) f s 1 1 1 0 fun a b _ =>
    let r := bitField b
    if r.2 = 0 then (0, 0) else (wrapInt (readInt (a.toNat / 2 ^ r.1) r.2 (intSgn f)) 32, 0)

/-- BFI (R284). -/
def execBfi (f : Form) (s : State) : Host.Outcome State Fault Refusal :=
  runAlu (.bfi f) f s 1 1 1 1 fun a b c =>
    let r := bitField b
    let m : DWord := BitVec.ofNat 64 ((2 ^ r.2 - 1) * 2 ^ r.1)
    ((c &&& ~~~m) ||| ((a <<< r.1) &&& m), 0)

/-- The bytes of a swizzle from byte k on, `prev` the byte below (R285). -/
def swizzle (a b : Nat) : Nat → Nat → Nat → Nat
  | 0, _, _ => 0
  | n + 1, k, prev =>
    let c := b / 8 ^ k % 8
    let x := if c < 4 then a / 256 ^ c % 256 else if c = 4 then 0 else if c = 5 then 255 else if c = 6 then prev
      else if 128 ≤ prev then 255 else 0
    x + 256 * swizzle a b n (k + 1) x

/-- BSWZ (R285). -/
def execBswz (f : Form) (s : State) : Host.Outcome State Fault Refusal :=
  runAlu (.bswz f) f s 1 1 1 0 fun a b _ => (BitVec.ofNat 64 (swizzle a.toNat b.toNat 4 0 0), 0)

/-! ### Compares, selects and predicates (R286 to R289) -/

/-- ICMP (R286). -/
def execIcmp (f : Form) (s : State) : Host.Outcome State Fault Refusal :=
  runCmp (.icmp f) f s f.w64 fun a b => (condHolds f.m64 (icmp (intOf f a) (intOf f b)), 0)

/-- The registers of a source as they stand, each with its own poison bit (R57). -/
def rdRegs (st : Strand) (n : Nat) (k : Bool) (l : Nat) : Nat → List RVal
  | 0 => []
  | w + 1 => rd32 st n k l :: rdRegs st (n + 1) k l w

/-- The second source register by register: SB's, or the literal's words (R237). -/
def bRegs (f : Form) (st : Strand) (l w : Nat) : List RVal :=
  if f.hasLit then ([f.lit.extractLsb' 0 32, f.lit.extractLsb' 32 32].take w).map fun v => { v := v, p := false }
  else rdRegs st f.sb.toNat f.kcb l w

/-- Register values poisoned as well by a selector (R51, R305). -/
def alsoPois (p : Bool) (l : List RVal) : List RVal := l.map fun v => { v with p := v.p || p }

/-- ISEL and FSEL (R287, R293): no guard; every lane at the issue address writes a or b. -/
def runSelect (i : Instr) (f : Form) (s : State) (w : Nat) : Host.Outcome State Fault Refusal :=
  runLanes i f s true fun _ st _ l =>
    let p := guardOf f (lane st l)
    .ok { vals := alsoPois p.2 (if p.1 then rdRegs st f.sa.toNat f.kca l w else bRegs f st l w), pred := none, flags := 0 }

/-- ISEL (R287). -/
def execIsel (f : Form) (s : State) : Host.Outcome State Fault Refusal := runSelect (.isel f) f s f.w64

/-- A predicate from predicates SA and SB, poisoned with those it reads (R288). -/
def runPred (i : Instr) (f : Form) (s : State) (two : Bool) (g : Bool → Bool → Bool) : Host.Outcome State Fault Refusal :=
  runLanes i f s false fun _ st _ l =>
    let a := readP (lane st l) f.sa.toNat
    let b := if two then readP (lane st l) f.sb.toNat else (false, false)
    .ok (outPred (g a.1 b.1) (a.2 || b.2) 0)

/-- PAND (R288). -/
def execPand (f : Form) (s : State) : Host.Outcome State Fault Refusal := runPred (.pand f) f s true (· && ·)

/-- POR (R288). -/
def execPor (f : Form) (s : State) : Host.Outcome State Fault Refusal := runPred (.por f) f s true (· || ·)

/-- PXOR (R288). -/
def execPxor (f : Form) (s : State) : Host.Outcome State Fault Refusal := runPred (.pxor f) f s true (· != ·)

/-- PNOT (R288). -/
def execPnot (f : Form) (s : State) : Host.Outcome State Fault Refusal := runPred (.pnot f) f s false fun a _ => !a

/-- PMOV (R288). -/
def execPmov (f : Form) (s : State) : Host.Outcome State Fault Refusal := runPred (.pmov f) f s false fun a _ => a

/-- PCHK (R289). -/
def execPchk (f : Form) (s : State) : Host.Outcome State Fault Refusal :=
  runLanes (.pchk f) f s false fun _ st _ l => .ok (outPred (opA f st l 1).p false 0)

/-! ### Moves and addresses (R290, R291) -/

/-- MOV (R290): each register with its poison bit. -/
def execMov (f : Form) (s : State) : Host.Outcome State Fault Refusal :=
  runLanes (.mov f) f s false fun _ st _ l => .ok { vals := rdRegs st f.sa.toNat f.kca l f.w64, pred := none, flags := 0 }

/-- The registers MOVI writes. -/
def moviRegs (f : Form) : List RVal :=
  if f.hasLit then [{ v := f.lit.extractLsb' 0 32, p := false }, { v := f.lit.extractLsb' 32 32, p := false }]
  else if f.ext then [{ v := f.aux, p := false }]
  else [{ v := (f.sa.extractLsb' 0 6 ++ f.sb.extractLsb' 0 6).signExtend 32, p := false }]

/-- MOVI (R290). -/
def execMovi (f : Form) (s : State) : Host.Outcome State Fault Refusal :=
  runLanes (.movi f) f s false fun _ _ _ _ => .ok { vals := moviRegs f, pred := none, flags := 0 }

/-- MOVK (R290): a uniform register from the lowest executing lane (R49), or the literal. -/
def execMovk (f : Form) (s : State) : Host.Outcome State Fault Refusal :=
  runLanes (.movk f) { f with dk := true } s false fun _ st _ l =>
    .ok { vals := if f.hasLit then [{ v := f.lit.extractLsb' 0 32, p := false }] else rdRegs st f.sa.toNat f.kca l 1, pred := none, flags := 0 }

/-- LEA (R290). -/
def execLea (f : Form) (s : State) : Host.Outcome State Fault Refusal :=
  runAlu (.lea f) f s 2 2 1 0 fun a b _ =>
    (a + ((if f.ty = 0 then (b.extractLsb' 0 32).signExtend 64 else b) <<< (f.aux.toNat % 8)), 0)

/-- An integer written under a type code: wrapped to its width, then extended to 32 bits (R276). -/
def intWrite (t : BitVec 4) (x : Int) : DWord :=
  let w := intTyBits t
  if w < 32 then wrapInt (readInt (wrapInt x w).toNat w (intTySigned t)) 32 else wrapInt x w

/-- CVTI (R291). -/
def execCvti (f : Form) (s : State) : Host.Outcome State Fault Refusal :=
  runAlu (.cvti f) f s f.w64 (wTy f.srcTy) 0 0 fun a _ _ =>
    (intWrite f.ty (readInt a.toNat (intTyBits f.srcTy) (intTySigned f.srcTy)), 0)

/-- GPC (R52, R290). -/
def execGpc (f : Form) (s : State) : Host.Outcome State Fault Refusal :=
  runLanes (.gpc f) f s false fun _ _ u _ => .ok (outWords 2 (u.pc.setWidth 64) false 0)

end Sys2Proof.Machine
end

