-- ==== Sys2Proof/Machine/Grist.lean ====
section
/-! DEFINITION. Writes that bypass holding (R190, R191), the equivalence engine (R156 to R158, R345 to R351) and signature
insertion (R153, R154). -/

namespace Sys2Proof.Machine

/-! ### Bypassing writes -/

/-- Bytes of one line written past the hold: write-ahead first, then the home (R191). The output of an engine's job, which the
core sees as others do (R183, R197). -/
def engineWrite (s : State) (c : Nat) (e : Pte) (pa : Nat) (w : Sender) (data : List Byte) (pois : Bool) : State :=
  let s1 := writeAhead s c e (lineKey e pa)
  performWrite s1 c (ctxNum s1 c) e pa w data pois none

/-- The same of a strand's own instruction: the core's held copy of the line takes the bytes (R183, R185). -/
def bypassWrite (s : State) (c : Nat) (e : Pte) (pa : Nat) (w : Sender) (data : List Byte) (pois : Bool) : State :=
  patchHeld (engineWrite s c e pa w data pois) c e pa data pois

/-! ### Forest descriptors (R156) -/

/-- Word n of a descriptor. -/
def kw (kf : List Word) (n : Nat) : Word := kf.getD n 0
def fTag (kf : List Word) : BitVec 4 := (kw kf 0).extractLsb' 28 4
def fParent (kf : List Word) : Nat := ((kw kf 0).extractLsb' 0 28).toNat * 65536
def fSize (kf : List Word) : Nat := ((kw kf 1).extractLsb' 0 28).toNat * 65536
def fCount (kf : List Word) : Nat := ((kw kf 2).extractLsb' 0 31).toNat + 1
def fLog (kf : List Word) : Nat := fSize kf + ((kw kf 3).extractLsb' 8 24).toNat * 65536
def fCap (kf : List Word) : Nat := ((kw kf 3).extractLsb' 3 5).toNat
def fLogged (kf : List Word) : Bool := (kw kf 3).getLsbD 0

/-- A breach that R345 calls ILLEGAL; `log`: the instruction needs logged mode. -/
def forestBad (kf : List Word) (log : Bool) : Bool :=
  (kw kf 1).extractLsb' 28 4 != 0 || (kw kf 2).getLsbD 31 || (kw kf 3).extractLsb' 1 2 != 0 ||
    (if fLogged kf then decide (fCap kf < 6) else (kw kf 3).extractLsb' 3 29 != 0 || log)

/-- The pointer of a word of the forest. -/
def fPtr (kf : List Word) (va : Nat) : DWord := 0#4 ++ fTag kf ++ BitVec.ofNat 56 va

/-! ### Accesses of the engine -/

/-- What a step of the engine gives: a value; a pointer whose page it waits for; a failed check; a damaged walk. -/
inductive GR (α : Type) where
  | ok (a : α) (s : State)
  | wait (ptr : DWord) (s : State)
  | bad (k : Cause) (ptr : DWord) (detail : Word) (s : State)
  | damaged (s : State)
  deriving DecidableEq, Repr

def GR.bind {α β : Type} : GR α → (α → State → GR β) → GR β
  | .ok a s, f => f a s
  | .wait v s, _ => .wait v s
  | .bad k p d s, _ => .bad k p d s
  | .damaged s, _ => .damaged s

/-- What the engine acts in: the core, its context, the forest; `atomic`: checks as an atomic, else as a load (R345); who its
writes are sent for. -/
structure GEnv where
  c : Nat
  cx : Ctx
  kf : List Word
  atomic : Bool
  by_ : Sender
  deriving DecidableEq, Repr

/-- The page of a word of the forest under R313 steps 5 and 9, with the tag at its home. A word whose page no TLB holds waits for
a walk (R102). -/
def gPage (g : GEnv) (s : State) (va : Nat) : GR (Pte × Nat) :=
  match xlate s g.c g.cx.num va with
  | .park _ => .wait (fPtr g.kf va) s
  | .wait _ => .wait (fPtr g.kf va) s
  | .miss => .wait (fPtr g.kf va) s
  | .hit e =>
    let pa := paOf e va
    let t := homeTag s e (pa / 32)
    if e.priv then .bad .priv (fPtr g.kf va) 0 s
    else if g.atomic && e.ro then .bad .roSt (fPtr g.kf va) 0 s
    else if e.tag && !tagOk (fTag g.kf) t then .bad (if g.atomic then .tagSt else .tagLd) (fPtr g.kf va) (t.setWidth 32) s
    else .ok (e, pa) s

/-- n bytes at an address as a home read; the core's own held bytes are written ahead first (R191, R345). A read of a remote home that
goes unanswered gives poison (R409). -/
def gRead (g : GEnv) (s : State) (va n : Nat) : GR (Nat × Bool) :=
  (gPage g s va).bind fun r s =>
    let s1 := writeAhead s g.c r.1 (lineKey r.1 r.2)
    .ok (bytesNat (homeBytes s1 r.1 r.2 n), homePois s1 r.1 r.2 n || lateRead s1 r.1) (noteLate s1 r.1)

/-- n bytes written at an address. -/
def gWrite (g : GEnv) (s : State) (va v n : Nat) (pois : Bool) : GR Unit :=
  (gPage g s va).bind fun r s => .ok () (bypassWrite s g.c r.1 r.2 { g.by_ with ptr := fPtr g.kf va } (natBytes v n) pois)

/-- Every address of a list passes the checks. -/
def gCheck (g : GEnv) (s : State) : List Nat → GR Unit
  | [] => .ok () s
  | va :: t => (gPage g s va).bind fun _ s => gCheck g s t

/-- Where the parent array of a forest begins: a page's home has one link sequencer for it, whatever maps it (R195, R346). -/
def forestHome (s : State) (die : Nat) (cx : Ctx) (kf : List Word) : Option Nat :=
  match pageNow s die cx (fParent kf) with
  | .present e _ => some ((if e.rem then (e.dev + 1) * 2 ^ 44 else 0) + paOf e (fParent kf))
  | .absent _ _ => none

/-- The forest's link sequencer has taken a step: running RELABEL jobs on it are RACED (R352). -/
def raceForest (g : GEnv) (s : State) : State :=
  let home := forestHome s (dieOf g.c) g.cx g.kf
  let hit (c : Nat) (x : Core) (j : Job) : Bool := match j.k, ctxOf s x with
    | .relabel kf _ _ _ _ _ _ _ _, some cx => home.isSome && forestHome s (dieOf c) cx kf == home
    | _, _ => false
  { s with cores := s.cores.map fun p => (p.1, { p.2 with jobs := p.2.jobs.map fun j => if hit p.1 p.2 j then { j with raced := true } else j }) }

/-! ### Walks (R346, R348) -/

/-- The walk from element x; `halve`: each step shortens the path. `fuel` counts parent words read. -/
def walkRoot (g : GEnv) (halve : Bool) : Nat → State → Nat → GR Nat
  | 0, s, _ => .damaged s
  | n + 1, s, x =>
    (gRead g s (fParent g.kf + 4 * x) 4).bind fun r s =>
      let p := r.1
      if r.2 || decide (fCount g.kf ≤ p) || (!fLogged g.kf && decide (x < p)) then .damaged s
      else if p = x then .ok x s
      else if halve then
        (gRead g s (fParent g.kf + 4 * p) 4).bind fun q s =>
          if q.2 || decide (fCount g.kf ≤ q.1) || decide (p < q.1) then .damaged s
          else if q.1 = p then walkRoot g halve n s p
          else (gWrite g s (fParent g.kf + 4 * x) q.1 4 false).bind fun _ s => walkRoot g halve n s q.1
      else walkRoot g halve n s p

/-- Parent words a walk may read: 33 in logged mode, else no more than the element's index allows. -/
def walkFuel (kf : List Word) (x : Nat) : Nat := if fLogged kf then 33 else x + 1

def walk (g : GEnv) (s : State) (x : Nat) : GR Nat := walkRoot g (!fLogged g.kf) (walkFuel g.kf x) s x
/-- A walk that only reads (RELABEL, R352). -/
def walkReading (g : GEnv) (s : State) (x : Nat) : GR Nat := walkRoot g false (walkFuel g.kf x) s x

/-! ### Operations (R347 to R351) -/

/-- A link of two roots at the sequencer (R347). -/
def gLink (g : GEnv) (s : State) (ra rb : Nat) : GR Bool :=
  let par (i : Nat) : Nat := fParent g.kf + 4 * i
  let siz (i : Nat) : Nat := fSize g.kf + 4 * i
  (gRead g s (siz ra) 4).bind fun za s =>
  (gRead g s (siz rb) 4).bind fun zb s =>
    let sum : Nat := (za.1 + zb.1) % 2 ^ 32
    let pois := za.2 || zb.2
    if fLogged g.kf then
      let aRoot : Bool := decide (zb.1 < za.1) || (decide (za.1 = zb.1) && decide (ra < rb))
      let root := if aRoot then ra else rb
      let child := if aRoot then rb else ra
      let zr := if aRoot then za else zb
      (gRead g s (fLog g.kf) 8).bind fun h s =>
        if 2 ^ fCap g.kf ≤ h.1 then
          (gRead g s (fLog g.kf + 8) 4).bind fun fl s =>
          (gWrite g s (fLog g.kf + 8) (fl.1 ||| 1) 4 fl.2).bind fun _ s => .ok false s
        else
          let rec_ := fLog g.kf + 64 + 16 * h.1
          (gCheck g s [rec_, par child, siz root]).bind fun _ s =>
          (gWrite g s rec_ (child + child * 2 ^ 32 + root * 2 ^ 64 + zr.1 * 2 ^ 96) 16 zr.2).bind fun _ s =>
          (gWrite g s (fLog g.kf) (h.1 + 1) 8 h.2).bind fun _ s =>
          (gWrite g s (par child) root 4 false).bind fun _ s =>
          (gWrite g s (siz root) sum 4 pois).bind fun _ s => .ok true (raceForest g s)
    else
      let child := max ra rb
      let root := min ra rb
      (gCheck g s [par child, siz root]).bind fun _ s =>
      (gWrite g s (par child) root 4 false).bind fun _ s =>
      (gWrite g s (siz root) sum 4 pois).bind fun _ s => .ok true (raceForest g s)

def gUnite (g : GEnv) (s : State) (a b : Nat) : GR Bool :=
  (walk g s a).bind fun ra s => (walk g s b).bind fun rb s => if ra = rb then .ok false s else gLink g s ra rb

def gSize (g : GEnv) (s : State) (a : Nat) : GR (Nat × Bool) :=
  (walk g s a).bind fun r s => gRead g s (fSize g.kf + 4 * r) 4

/-- The restores of R158, `n` records left above mark m. -/
def gRestore (g : GEnv) (m : Nat) : Nat → State → GR Unit
  | 0, s => .ok () s
  | n + 1, s =>
    let rec_ := fLog g.kf + 64 + 16 * (m + n)
    (gRead g s rec_ 16).bind fun r s =>
      let w (i : Nat) : Nat := r.1 / 2 ^ (32 * i) % 2 ^ 32
      let pa := fParent g.kf + 4 * w 0
      let sa := fSize g.kf + 4 * w 2
      (gCheck g s [pa, sa]).bind fun _ s =>
      (gWrite g s pa (w 1) 4 r.2).bind fun _ s =>
      (gWrite g s sa (w 3) 4 r.2).bind fun _ s => gRestore g m n (raceForest g s)

/-- HEAD is set and LOGFULL cleared. -/
def gSetHead (g : GEnv) (s : State) (m : Nat) : GR Unit :=
  (gRead g s (fLog g.kf + 8) 4).bind fun fl s =>
  (gWrite g s (fLog g.kf) m 8 false).bind fun _ s =>
  (gWrite g s (fLog g.kf + 8) (fl.1 &&& 0xFFFFFFFE) 4 fl.2).bind fun _ s => .ok () s

def gUndo (g : GEnv) (s : State) (m : Nat) : GR Unit :=
  (gRead g s (fLog g.kf) 8).bind fun h s =>
    if h.1 ≤ m then .ok () s
    else (gRestore g m (min h.1 (2 ^ fCap g.kf) - m) s).bind fun _ s => gSetHead g s m

/-- DINIT of n elements from f, in ascending order. -/
def gInitFrom (g : GEnv) (f : Nat) : Nat → State → GR Unit
  | 0, s => .ok () s
  | n + 1, s =>
    (gCheck g s [fParent g.kf + 4 * f, fSize g.kf + 4 * f]).bind fun _ s =>
    (gWrite g s (fParent g.kf + 4 * f) f 4 false).bind fun _ s =>
    (gWrite g s (fSize g.kf + 4 * f) 1 4 false).bind fun _ s => gInitFrom g (f + 1) n (raceForest g s)

def gInit (g : GEnv) (s : State) (f n : Nat) : GR Unit :=
  (gInitFrom g f n s).bind fun _ s => if f = 0 ∧ n = fCount g.kf ∧ fLogged g.kf then gSetHead g s 0 else .ok () s

/-! ### Signature insertion (R154) -/

/-- Bucket of a signature. -/
def sigBucket (sg : DWord) (n : Nat) : Nat := (sg.extractLsb' 32 32 ^^^ sg.extractLsb' 0 32).toNat % 2 ^ (n - 3)

/-- Offsets of the header and, for a signature that is not 0, of its bucket. -/
def sigOffs (sg : DWord) (n : Nat) : List (Nat × Nat) := if sg = 0 then [(0, 8)] else [(0, 8), (64 + 64 * sigBucket sg n, 64)]

/-- What an insertion finds among entries: seen; the empty entry that takes it; full. -/
inductive SigRes where
  | seen
  | new (e : Nat)
  | full
  deriving DecidableEq, Repr

/-- The search of a bucket; the flag: some entry compared is poisoned. -/
def sigScan (sg : DWord) (ents : List (DWord × Bool)) (i : Nat) (p : Bool) : SigRes × Bool :=
  match ents with
  | [] => (.full, p)
  | (v, q) :: t => if v = sg then (.seen, p || q) else if v = 0 then (.new i, p || q) else sigScan sg t (i + 1) (p || q)

/-- One set's storage: a read and a write of n bytes at an offset. -/
structure SigMem where
  read : State → Nat → Nat → List Byte × Bool
  write : State → Nat → List Byte → Bool → State

/-- One lane's insertion: the state, the answer new, its poison, and whether it answered full; `seen`: a found or zero
signature seen before. -/
structure SigAns where
  new : Bool
  pois : Bool
  full : Bool
  deriving DecidableEq, Repr

def sigWord (m : SigMem) (s : State) (o n : Nat) : Nat × Bool := let r := m.read s o n; (bytesNat r.1, r.2)

/-- A new answer counts, saturating. -/
def sigCount (m : SigMem) (s : State) : State :=
  let c := sigWord m s 0 4
  m.write s 0 (natBytes (if c.1 < 0xFFFFFFFF then c.1 + 1 else c.1) 4) c.2

def sigInsert (m : SigMem) (n : Nat) (s : State) (sg : DWord) : State × SigAns :=
  if sg = 0 then
    let fl := sigWord m s 4 4
    let new := fl.1 % 2 = 0
    let s1 := m.write s 4 (natBytes (fl.1 ||| 1) 4) fl.2
    (if new then sigCount m s1 else s1, { new := new, pois := fl.2, full := false })
  else
    let b := sigBucket sg n
    let ents := (List.range 8).map fun i => let r := sigWord m s (64 + 64 * b + 8 * i) 8; (BitVec.ofNat 64 r.1, r.2)
    match sigScan sg ents 0 false with
    | (.seen, p) => (s, { new := false, pois := p, full := false })
    | (.new i, p) => (sigCount m (m.write s (64 + 64 * b + 8 * i) (natBytes sg.toNat 8) false), { new := true, pois := p, full := false })
    | (.full, p) =>
      let fl := sigWord m s 4 4
      (m.write s 4 (natBytes (fl.1 ||| 2) 4) fl.2, { new := false, pois := p, full := true })

/-- The set in a core's scratchpad. -/
def sigLocal (c base : Nat) : SigMem :=
  { read := fun s o n => ((getCore s c).map fun x => locRead x (base + o) n).getD ([], false),
    write := fun s o d p => modCore s c fun x => locWrite x (base + o) d (List.replicate ((d.length + 3) / 4) p) }

/-- The home page of an address that an insertion reaches, none where no TLB holds it. -/
def sigPage (s : State) (c : Nat) (va : Nat) : Option (Pte × Nat) :=
  match xlate s c (ctxNum s c) va with
  | .hit e => some (e, paOf e va)
  | _ => none

/-- The first pointer of an insertion whose page no TLB holds any more: it waits for a walk (R102). -/
def sigMiss (s : State) (c : Nat) (base sg : DWord) (n : Nat) : Option DWord :=
  ((sigOffs sg n).map fun o => ptrAdd base o.1).find? fun p => (sigPage s c (ptrVa p)).isNone

/-- The core's own held bytes of the lines of an insertion go home first (R191). -/
def sigAhead (s : State) (c : Nat) (base sg : DWord) (n : Nat) : State :=
  (sigOffs sg n).foldl (fun s o => match sigPage s c (ptrVa (ptrAdd base o.1)) with
    | some (e, pa) => writeAhead s c e (lineKey e pa)
    | none => s) s

/-- The device form of a set, at a pointer; its writes are sent for `w`. -/
def sigDevice (c : Nat) (base : DWord) (w : Sender) : SigMem :=
  { read := fun s o n =>
      match sigPage s c (ptrVa (ptrAdd base o)) with
      | some (e, pa) => (homeBytes s e pa n, homePois s e pa n)
      | none => ([], false),
    write := fun s o d p =>
      match sigPage s c (ptrVa (ptrAdd base o)) with
      | some (e, pa) => bypassWrite s c e pa { w with ptr := ptrAdd base o } d p
      | none => s }

end Sys2Proof.Machine
end

