-- ==== Sys2Proof/Machine/Varlat.lean ====
section
/-! DEFINITION. Variable-latency operations (R60 to R63, R168): how a lane of one is performed, in what order, how its
results land and how it retires. -/

namespace Sys2Proof.Machine

/-! ### Values -/

/-- Bytes cut into 32-bit words. -/
def wordsOf (b : List Byte) : Nat → List Word
  | 0 => []
  | n + 1 => BitVec.ofNat 32 (bytesNat (b.take 4)) :: wordsOf (b.drop 4) n

/-- Bytes of an access of majors 0x30 and 0x31 by its TYPE, and its registers (R311). -/
def tyBytes (t : BitVec 4) : Nat :=
  if t = 9 ∨ t = 10 ∨ t = 13 then 1 else if t = 11 ∨ t = 12 ∨ t = 14 then 2 else if t = 5 then 8 else if t = 6 then 16 else 4
def tyWords (t : BitVec 4) : Nat := if t = 5 then 2 else if t = 6 then 4 else 1

/-- Loaded bytes as register values: s8 and s16 sign-extended, narrower others zero-extended (R311). -/
def loadVals (t : BitVec 4) (b : List Byte) (p : Bool) : List RVal :=
  if t = 9 then [{ v := ((BitVec.ofNat 8 (bytesNat b)).signExtend 32), p := p }]
  else if t = 11 then [{ v := ((BitVec.ofNat 16 (bytesNat b)).signExtend 32), p := p }]
  else (wordsOf b (tyWords t)).map fun w => { v := w, p := p }

/-- Bytes of an integer atomic's word by its TYPE (R322). -/
def atomBytes (t : BitVec 4) : Nat := if t = 2 ∨ t = 3 then 8 else 4

/-- The new value of an atomic operation (R322). -/
def atomOp (op : Nat) (t : BitVec 4) (m b : DWord) : DWord :=
  let w := 8 * atomBytes t
  let sgn := t = 0 || t = 2
  let less := decide (readInt m.toNat w sgn < readInt b.toNat w sgn)
  if op = 0 then m + b else if op = 1 then (if less then m else b) else if op = 2 then (if less then b else m)
  else if op = 3 then m &&& b else if op = 4 then m ||| b else if op = 5 then m ^^^ b else b

/-- FADD under RNE of encodings, without flags (R324). -/
def faddBits (t : Fmt) (a b : Nat) : Nat := (finish t 0 (fadd 0 (t.read a) (t.read b))).1

/-- AFADD: f32, or each half of a pair (R324). -/
def afaddOp (ty : BitVec 4) (m b : Word) : Word :=
  if ty = 4 then BitVec.ofNat 32 (faddBits fmtF32 m.toNat b.toNat)
  else
    let t := fmtOf ty
    BitVec.ofNat 32 (faddBits t (m.toNat % 65536) (b.toNat % 65536) + 65536 * faddBits t (m.toNat / 65536) (b.toNat / 65536))

/-! ### What a lane of an operation does -/

/-- A lane is performed, with its values; or waits for a page; or its write has gone to a remote device. -/
inductive LRes where
  | done (s : State) (vals : List RVal)
  | wait (s : State) (ptr : DWord)
  | sent (s : State)
  deriving DecidableEq, Repr

/-- A request goes out for a lane on a remote page (R408): one that writes, when the core's dirty bytes of its line have been sent
ahead of it and acknowledged (R191). -/
def remoteAsk (s : State) (c ctx id slot : Nat) (pc : BitVec 48) (l : OLane) (data : List Byte) : State :=
  let ask (s : State) : State := remoteWrite s c ctx l.e l.pa data { ptr := l.ptr, lane := l.lane, slot := slot, pc := pc, op := some (id, l.lane) } true
  if !l.e.rem then s
  else if data.isEmpty then ask s
  else
    let s1 := writeAhead s c l.e (lineKey l.e l.pa)
    if aheadDue s1 c l.e l.pa then s1 else ask s1

/-- The request of an atomic on a remote page has yet to go out. -/
def askDue (s : State) (o : Op) (l : OLane) : Bool := l.e.rem && !(s.remote.any fun r => r.ask && r.op == some (o.id, l.lane))

/-- An atomic update of n bytes at a home: the new value from the old, and whether an operand is poisoned (R314, R323). Of a
remote device the request itself is the write (R408). -/
def homeUpdate (s : State) (c : Nat) (o : Op) (l : OLane) (n : Nat) (p : Bool) (f : DWord → DWord) : State × DWord × Bool :=
  let s1 := if l.e.rem then s else writeAhead s c l.e (lineKey l.e l.pa)
  let m : DWord := BitVec.ofNat 64 (bytesNat (homeBytes s1 l.e l.pa n))
  let mp := homePois s1 l.e l.pa n
  let s2 := if l.e.rem then s1 else performWrite s1 c (ctxNum s1 c) l.e l.pa (opSender o l) (natBytes (f m).toNat n) (mp || p) none
  (patchHeld s2 c l.e l.pa (natBytes (f m).toNat n) (mp || p), m, mp)

/-- Registers that hold a value of n bytes. -/
def valsOf (v : DWord) (n : Nat) (p : Bool) : List RVal :=
  if n = 8 then [{ v := v.extractLsb' 0 32, p := p }, { v := v.extractLsb' 32 32, p := p }] else [{ v := v.extractLsb' 0 32, p := p }]

/-- A record-only fault of an operation: IMPR, and REJECT for a refused walk (R345, R361). -/
def recordOnly (s : State) (c : Nat) (slot : Nat) (pc : BitVec 48) (f : LFault) (flags : Nat) : State :=
  match getCore s c with
  | some x => coreRecord s x (laneRec s c slot x f (flagImpr + flags) 0 pc)
  | none => s

/-- The result of a Grist operation of a lane: a failed check or a damaged walk gives `bad` poisoned (R345, R346). -/
def gristDone {α : Type} (c : Nat) (o : Op) (l : OLane) (r : GR α) (bad : List RVal) (good : α → List RVal) : LRes :=
  match r with
  | .ok a s => .done s (good a)
  | .damaged s => .done s bad
  | .bad k p d s => .done (recordOnly s c o.slot o.pc { lane := l.lane, cause := k, addr := p, detail := d } 0) bad
  | .wait p s =>
    if o.refused.contains (l.lane, ptrVa p / 65536) then
      .done (recordOnly s c o.slot o.pc { lane := l.lane, cause := .pageAbsent, addr := p, detail := 0 } flagReject) bad
    else .wait s p

def one (v : Nat) (p : Bool) : RVal := { v := BitVec.ofNat 32 v, p := p }

/-- Every byte of an access is the core's own unpublished byte. -/
def ownAll (x : Core) (e : Pte) (pa n : Nat) : Bool :=
  (List.range n).all fun i => (queueByte x e (pa + i)).isSome || (dirtyByte (lineOf x (lineKey e pa)) ((pa + i) % 64)).isSome

/-- A default load: its line becomes held for reading unless every byte is the core's own (R185, R186). -/
def heldLoad (s : State) (c : Nat) (e : Pte) (pa n : Nat) : State × List Byte × Bool :=
  let own := ((getCore s c).map fun x => ownAll x e pa n).getD false
  let s1 := if own then modCore s c fun x => (let h := lineOf x (lineKey e pa); setLine x (lineKey e pa) { h with want := false })
            else fillLine s c e pa
  match getCore s1 c with
  | some x => let r := viewRead s1 x e pa n true; (s1, r.1, r.2)
  | none => (s1, [], false)

/-- A direct load (R186). -/
def directLoad (s : State) (c : Nat) (e : Pte) (pa n : Nat) : List Byte × Bool :=
  match getCore s c with
  | some x => viewRead s x e pa n false
  | none => ([], false)

/-- The engine's environment for a lane of an operation. -/
def opEnv (s : State) (c : Nat) (o : Op) (l : OLane) (kf : List Word) (atomic : Bool) : Option GEnv :=
  ((getCore s c).bind (ctxOf s)).map fun cx => { c := c, cx := cx, kf := kf, atomic := atomic, by_ := opSender o l }

/-- An atomic of a lane: its request goes out first where it has not, on a remote page; else it is performed by `g`. -/
def atomLane (s : State) (c : Nat) (o : Op) (l : OLane) (g : LRes) : LRes :=
  if askDue s o l then .sent (remoteAsk s c (ctxNum s c) o.id o.slot o.pc l l.data) else g

/-- An insertion of a lane of SIGINS.dev (R154). One whose page no TLB holds any more waits for its walk; where the host refuses the
page, the lane gets a record and a poisoned answer, as a Grist operation's does (R141, R345). -/
def insertLane (s : State) (c : Nat) (o : Op) (l : OLane) (base : DWord) (n : Nat) : LRes :=
  match sigMiss s c base l.b.v n with
  | some p =>
    if o.refused.contains (l.lane, ptrVa p / 65536) then
      .done (recordOnly s c o.slot o.pc { lane := l.lane, cause := .pageAbsent, addr := p, detail := 0 } flagReject) [one 0 true, one 0 false]
    else .wait s p
  | none =>
    let r := sigInsert (sigDevice c base (opSender o l)) n (sigAhead s c base l.b.v n) l.b.v
    .done r.1 [one r.2.new.toNat r.2.pois, one r.2.full.toNat false]

/-- One lane of an operation is performed. -/
def performLane (s : State) (c : Nat) (o : Op) (l : OLane) : LRes :=
  match o.k with
  | .load held ty =>
    if held && l.e.cache != 2 then (let r := heldLoad s c l.e l.pa (tyBytes ty); .done r.1 (loadVals ty r.2.1 r.2.2))
    else (let r := directLoad s c l.e l.pa (tyBytes ty); .done s (loadVals ty r.1 r.2))
  | .value => .done s l.vals
  | .ldr _ => .done s l.vals
  | .str => .done s []
  | .atom op ty =>
    let r := homeUpdate s c o l (atomBytes ty) l.b.p fun m => atomOp op ty m l.b.v
    atomLane s c o l <| .done r.1 (if o.dest = .none then [] else valsOf r.2.1 (atomBytes ty) r.2.2)
  | .acas ty =>
    let n := atomBytes ty
    let r := homeUpdate s c o l n (l.b.p || l.c.p) fun m => if m = l.b.v then l.c.v else m
    atomLane s c o l <| .done r.1 (valsOf r.2.1 n r.2.2)
  | .afadd ty =>
    let r := homeUpdate s c o l 4 l.b.p fun m => (afaddOp ty (m.extractLsb' 0 32) l.b.lo).setWidth 64
    atomLane s c o l <| .done r.1 (valsOf r.2.1 4 r.2.2)
  | .store => let s1 := arriveLane s c o l; if l.e.rem then .sent s1 else .done s1 []
  | .unite kf =>
    (match opEnv s c o l kf true with
     | some g => gristDone c o l (gUnite g s l.b.v.toNat l.c.v.toNat) [one 0 true] fun b => [one b.toNat false]
     | none => .done s [])
  | .find kf =>
    (match opEnv s c o l kf (!fLogged kf) with
     | some g => gristDone c o l (walk g s l.b.v.toNat) [one 0xFFFFFFFF true] fun r => [one r false]
     | none => .done s [])
  | .dsize kf =>
    (match opEnv s c o l kf (!fLogged kf) with
     | some g => gristDone c o l (gSize g s l.b.v.toNat) [one 0 true] fun r => [one r.1 r.2]
     | none => .done s [])
  | .dsnap kf =>
    (match opEnv s c o l kf false with
     | some g => gristDone c o l (gRead g s (fLog kf) 8) [one 0 true, one 0 true] fun r => valsOf (BitVec.ofNat 64 r.1) 8 r.2
     | none => .done s [])
  | .dundo kf =>
    (match opEnv s c o l kf true with
     | some g => gristDone c o l (gUndo g s l.b.v.toNat) [] fun _ => []
     | none => .done s [])
  | .dinit kf =>
    (match opEnv s c o l kf true with
     | some g => gristDone c o l (gInit g s l.b.v.toNat l.c.v.toNat) [] fun _ => []
     | none => .done s [])
  | .sigins base n => insertLane s c o l base n

/-! ### The order of operations -/

/-- The operation acts on words it finds as it goes. -/
def opWide (k : OpK) : Bool :=
  match k with
  | .unite _ => true | .find _ => true | .dsize _ => true | .dsnap _ => true | .dundo _ => true | .dinit _ => true
  | .sigins _ _ => true
  | _ => false

/-- Bytes of an operation's access in a lane; 0 where it accesses no global memory when it is performed. -/
def opBytes (k : OpK) (l : OLane) : Nat :=
  match k with
  | .load _ ty => tyBytes ty
  | .atom _ ty => atomBytes ty
  | .acas ty => atomBytes ty
  | .afadd _ => 4
  | .store => l.data.length
  | _ => 0

/-- Lines that lanes not yet performed will access. -/
def opKeys (o : Op) : List Nat :=
  (o.lanes.map fun l => if l.done then [] else linesOf l.e l.pa (opBytes o.k l)).flatten

def meets (a b : List Nat) : Bool := a.any fun k => b.contains k

/-- Operations of the core that must be performed before an access of the lines: those on a line of it, and every one
that acts on words it finds (R183). -/
def before (o : Op) (keys : List Nat) (wide : Bool) : Bool :=
  o.lanes.any (fun l => !l.done) && ((opWide o.k && (wide || !keys.isEmpty)) || (wide && !(opKeys o).isEmpty) || meets (opKeys o) keys)

/-- The operation may write what it walks: it is checked as an atomic (R345). -/
def opAtomic (k : OpK) : Bool :=
  match k with
  | .find kf => !fLogged kf
  | .dsize kf => !fLogged kf
  | .dsnap _ => false
  | _ => true

/-- A lane of an operation waits for a page: a walk is started for it (R102). -/
def opWaits (s : State) (c : Nat) (o : Op) (l : Nat) (ptr : DWord) : State :=
  let r := startWalk s (dieOf c) (ctxNum s c) (ptrVa ptr) (opAtomic o.k) false (opAtomic o.k)
  modCore r.2 c fun x => { x with ops := x.ops.map fun p =>
    if p.id = o.id then { p with wait := some r.1, at_ := (l, ptrVa ptr / 65536) } else p }

/-- A remote request of a lane is answered. -/
def answered (s : State) (id l : Nat) : State := { s with remote := s.remote.filter fun r => !r.ask || r.op != some (id, l) }

/-- Lanes of an operation are performed in ascending order, up to one that must wait; answers the lanes. -/
def performLanes (s : State) (c : Nat) (o : Op) (m : Word) : List OLane → State × List OLane
  | [] => (s, [])
  | l :: t =>
    if l.done || !inMask m l.lane then (let r := performLanes s c o m t; (r.1, l :: r.2))
    else
      match performLane s c o l with
      | .done s1 vals =>
        let r := performLanes (answered s1 o.id l.lane) c o m t
        (r.1, { l with done := true, vals := vals } :: r.2)
      | .wait s1 p => (opWaits s1 c o l.lane p, l :: t)
      | .sent s1 => let r := performLanes s1 c o m t; (r.1, l :: r.2)

/-- The operation with some lanes performed. An operation that waits for a page performs none. -/
def performOp (s : State) (c : Nat) (id : Nat) (m : Word) : State :=
  match (getCore s c).bind fun x => x.ops.find? fun o => o.id = id with
  | none => s
  | some o =>
    if o.wait.isSome then s
    else
      let r := performLanes s c o m o.lanes
      modCore r.1 c fun x => { x with ops := x.ops.map fun p => if p.id = o.id then { p with lanes := r.2 } else p }

/-- Of operations, oldest first, those that must come before an access, with those that must come before these: each brings its own
lines along (R183). -/
def mustPrecede (id : Nat) (keys : List Nat) (wide : Bool) (ops : List Op) : List Nat × List Nat × Bool :=
  ops.foldr (fun o r =>
    if decide (o.id < id) && before o r.2.1 r.2.2 then (o.id :: r.1, opKeys o ++ r.2.1, opWide o.k || r.2.2) else r) ([], keys, wide)

/-- Some earlier operation that must come before an access is not performed yet. -/
def blockedBefore (s : State) (c : Nat) (id : Nat) (keys : List Nat) (wide : Bool) : Bool :=
  match getCore s c with
  | none => false
  | some x => x.ops.any fun o => decide (o.id < id) && before o keys wide

/-- An operation is performed, but not past an older one that has to come first and waits. -/
def performNext (s : State) (c : Nat) (id : Nat) : State :=
  match (getCore s c).bind fun x => x.ops.find? fun o => o.id = id with
  | none => s
  | some o => if blockedBefore s c id (opKeys o) (opWide o.k) then s else performOp s c id 0xFFFFFFFF

/-- Earlier operations that must come before an access are performed, in issue order (R183). -/
def performBefore (s : State) (c : Nat) (id : Nat) (keys : List Nat) (wide : Bool) : State :=
  match getCore s c with
  | none => s
  | some x => (mustPrecede id keys wide x.ops).1.foldl (fun s o => performNext s c o) s

/-! ### Landing and retirement -/

/-- Words of a lane land in the strand that issued the operation. -/
def landLane (st : Strand) (o : Op) (l : OLane) (regs : BitVec 4) : Strand × OLane :=
  let first := (o.lanes.head?.map (·.lane)).getD 0
  let skip := match o.dest with
    | .k _ _ _ => l.lane != first
    | _ => false
  let st1 := l.vals.zipIdx.foldl (fun st v =>
    if regs.getLsbD v.2 && !l.landed.getLsbD v.2 && !skip then landOne st o.dest l.lane v.2 v.1 else st) st
  let st2 := match o.k with
    | .sigins _ _ => if regs.getLsbD 0 && ((l.vals.getD 1 RVal.zero).v == 1) then { st1 with sigstat := true } else st1
    | _ => st1
  (st2, { l with landed := l.landed ||| regs })

/-- Every word of a performed lane has landed. -/
def laneLanded (o : Op) (l : OLane) : Bool :=
  l.done && (o.dest == .none || (l.vals.zipIdx.all fun v => l.landed.getLsbD v.2))

/-- Lanes of a finished SIGINS.drop that answered seen: they exit (R356). -/
def seenLanes (o : Op) : Word :=
  maskOf fun i => o.lanes.any fun l => l.lane = i && (l.vals.getD 0 RVal.zero).v == 0 && (l.vals.getD 1 RVal.zero).v == 0

/-- The lane's access was misaligned: its bytes went one by one (R368). -/
def laneSplit (l : OLane) : Bool := !l.data.isEmpty && l.ptr.toNat % l.data.length != 0

/-- An operation all of whose lanes have landed retires; under `.dur` its writes are durable first (R120, R168). -/
def finishOp (s : State) (c id : Nat) : State :=
  match getCore s c with
  | none => s
  | some x =>
    match x.ops.find? fun o => o.id = id with
    | none => s
    | some o =>
      if !(o.lanes.all (laneLanded o)) || remoteDue s o.id then s
      else
        let keys := (o.lanes.map fun l => linesOf l.e l.pa (max 1 l.data.length)).flatten
        let s1 := if o.dur then nvCommit s fun w => w.core == c && w.seg.isNone && (opWide o.k || o.lanes.any laneSplit || keys.contains w.line) else s
        let s2 := modCore s1 c fun x => settlePend { x with ops := x.ops.filter fun p => p.id ≠ id }
        match strandAt s2 c o.slot o.sid with
        | none => s2
        | some st =>
          let s3 := retireOut s2 c o.slot id
          match st.hold with
          | some h =>
            if h.k = .drop id then
              let s4 := modStrand s3 c o.slot fun st => { st with hold := none, bnd := !st.due.isEmpty }
              if seenLanes o = 0 then s4 else exitLanes s4 c o.slot (seenLanes o)
            else s3
          | none => s3

/-- Performed lanes of an operation land some of their words. -/
def landOp (s : State) (c id : Nat) (m : Word) (regs : BitVec 4) : State :=
  match getCore s c with
  | none => s
  | some x =>
    match x.ops.find? fun o => o.id = id with
    | none => s
    | some o =>
      let hit (l : OLane) : Bool := l.done && inMask m l.lane
      let lanes := o.lanes.map fun l => if hit l then { l with landed := l.landed ||| regs } else l
      let s1 := modCore s c fun x => { x with ops := x.ops.map fun p => if p.id = id then { p with lanes := lanes } else p }
      let s2 := match strandAt s1 c o.slot o.sid with
        | none => s1
        | some _ => modStrand s1 c o.slot fun st => (o.lanes.filter hit).foldl (fun st l => (landLane st o l regs).1) st
      finishOp s2 c id

/-- Lanes of an operation whose bytes meet those of a lane of the mask. -/
def sharing (o : Op) (m : Word) : Word :=
  maskOf fun i => o.lanes.any fun a => a.lane = i && o.lanes.any fun b => inMask m b.lane && (b.lane = i ||
    (a.e.rem == b.e.rem && a.e.dev == b.e.dev && overlap a.pa (opBytes o.k a) b.pa (opBytes o.k b)))

/-- The lanes that are performed when those of a mask are to be: with loads, those; with atomics those that share a location,
consecutively (R315); with other writes every lower lane too, for lanes go in ascending order (R315, R347); with DSNAP and
SIGINS, all, at one point (R154, R350). -/
def performMask (o : Op) (m : Word) : Word :=
  match o.k with
  | .load _ _ => m
  | .value => m
  | .dsnap _ => 0xFFFFFFFF
  | .sigins _ _ => 0xFFFFFFFF
  | .atom _ _ => sharing o m
  | .acas _ => sharing o m
  | .afadd _ => sharing o m
  | _ => maskOf fun l => (lanesOf m).any fun i => decide (l ≤ i)

/-- VARLAT_COMPLETE: lanes of an operation are performed, after the operations that come before it, and their words land. -/
def completeOp (s : State) (c id : Nat) (m : Word) (regs : BitVec 4) (land : Bool) : State :=
  match (getCore s c).bind fun x => x.ops.find? fun o => o.id = id with
  | none => s
  | some o =>
    let keys := opKeys o
    let s1 := performBefore s c id keys (opWide o.k)
    if blockedBefore s1 c id keys (opWide o.k) then s1
    else
      let s2 := match o.k with
        | .ldr _ => s1
        | .str => s1
        | _ => performOp s1 c id (performMask o m)
      if land then landOp s2 c id m regs else finishOp s2 c id

/-- A new operation of the issuing strand. -/
def pushOp (s : State) (c : Nat) (o : Op) : State := modCore s c fun x => { x with ops := x.ops ++ [o] }

/-- A strand waits no more for a remote write. -/
def unwaitRemote (id : Nat) (st : Strand) : Strand :=
  match st.hold with
  | some h => (match h.k with | .remote ids => { st with hold := some { h with k := .remote (ids.filter (· ≠ id)) } } | _ => st)
  | none => st

/-- A write that a remote device has acknowledged, or dropped (R409): its lane is done, an operation that ends with it retires, and
strands that wait for it go on (R190, R332, R357, R408). -/
def ackOne (s : State) (r : RReq) : State :=
  let s2 := modCore s r.core (mapCoreStrands (unwaitRemote r.id))
  let s3 := match r.op with
    | some (id, l) => finishOp (modCore s2 r.core fun x => { x with ops := x.ops.map fun o =>
        if o.id = id ∧ o.k = .store then { o with lanes := o.lanes.map fun y => if y.lane = l then { y with done := true } else y } else o }) r.core id
    | none => s2
  settleHolds s3 r.core

/-- Requests that only write have been acknowledged and go. -/
def ackRemote (s : State) : State :=
  if s.remote.all (·.ask) then s
  else (s.remote.filter fun r => !r.ask).foldl ackOne { s with remote := s.remote.filter (·.ask) }

end Sys2Proof.Machine
end

