-- ==== Sys2Proof/Machine/Lanes.lean ====
section
/-! DEFINITION. How an instruction that accesses memory issues: the steps of R313 lane by lane, the waits that keep it from
issuing, and what each lane's access does. -/

namespace Sys2Proof.Machine

/-! ### What steps 1 to 4 of R313 give for a lane -/

/-- An access that passed steps 1 to 3: n bytes at a pointer, local or window address; store bytes, operands, and the poison of
each 32-bit word of the store bytes. -/
structure Acc where
  lane : Nat
  ptr : DWord
  n : Nat
  data : List Byte
  b : WVal
  c : WVal
  pw : List Bool := []
  deriving DecidableEq, Repr

/-- What befalls a lane: nothing, a fault, a value without an access, a dropped store, a bound verdict, an access. -/
inductive Pre where
  | skip
  | bad (f : LFault)
  | val (vs : List RVal)
  | drop
  | bound (a : Acc) (lim : Word)
  | acc (a : Acc)
  deriving DecidableEq, Repr

def badLane (l : Nat) (k : Cause) (addr : DWord) : Pre := .bad { lane := l, cause := k, addr := addr, detail := 0 }

/-- The guard and a lasting datapath mismatch come first (R233, R367). -/
def preOf (f : Form) (st : Strand) (u : Cur) (g : Nat → Pre) (l : Nat) : Pre :=
  let gd := guardOf f (lane st l)
  if gd.2 then badLane l .poisonUse 0
  else if !gd.1 then .skip
  else if mismatched u l then badLane l .pipeErr 0
  else g l

def presOf (f : Form) (st : Strand) (u : Cur) (g : Nat → Pre) : List (Nat × Pre) :=
  (lanesOf u.mask).map fun l => (l, preOf f st u g l)

def accsOf (ps : List (Nat × Pre)) : List Acc := ps.filterMap fun p => match p.2 with | .acc a => some a | _ => none
def badsOf (ps : List (Nat × Pre)) : List LFault := ps.filterMap fun p => match p.2 with | .bad f => some f | _ => none

/-- Lanes that pass the instruction without an access. -/
def idleLanes (ps : List (Nat × Pre)) : Word :=
  maskOf fun l => ps.any fun p => p.1 = l && (match p.2 with | .skip => true | .drop => true | _ => false)

/-- Some lane executes the instruction without a fault. -/
def anyGoes (ps : List (Nat × Pre)) : Bool :=
  ps.any fun p => match p.2 with | .val _ => true | .bound _ _ => true | .acc _ => true | .drop => true | _ => false

/-! ### Addresses (R310) -/

def offOf (f : Form) : Int := f.aux.toInt
/-- The pointer of a global access, with the poison of its pair. -/
def gAddr (f : Form) (st : Strand) (l : Nat) : DWord × Bool := let a := opA f st l 2; (ptrAdd a.v (offOf f), a.p)
/-- The address of a local or window access. -/
def lAddr (f : Form) (st : Strand) (l : Nat) : Nat × Bool :=
  let a := opA f st l 1
  ((BitVec.ofInt 32 ((a.v.toNat : Int) + offOf f)).toNat, a.p)

def nat64 (n : Nat) : DWord := BitVec.ofNat 64 n

/-- Steps 1 and 2 of a global access. -/
def preGlobal (f : Form) (st : Strand) (l n : Nat) (data : List Byte) (b c : WVal) : Pre :=
  let a := gAddr f st l
  if a.2 then badLane l .poisonUse a.1
  else if !ptrForm a.1 then badLane l .addrForm a.1
  else .acc { lane := l, ptr := a.1, n := n, data := data, b := b, c := c }

/-- Steps 1 and 2 of a local access (R110). -/
def preLocal (scr : Nat) (f : Form) (st : Strand) (l n : Nat) (data : List Byte) (b c : WVal) : Pre :=
  let a := lAddr f st l
  if a.2 then badLane l .poisonUse (nat64 a.1)
  else if !localIn scr a.1 n then badLane l .addrForm (nat64 a.1)
  else .acc { lane := l, ptr := nat64 a.1, n := n, data := data, b := b, c := c }

/-- Steps 1 and 2 of a window access (R114). -/
def preWindow (scr : Nat) (f : Form) (st : Strand) (l n : Nat) (data : List Byte) (b : WVal) : Pre :=
  let a := lAddr f st l
  if a.2 then badLane l .poisonUse (nat64 a.1)
  else if 2 ^ 22 ≤ a.1 ∨ scr < a.1 % 2 ^ 20 + n then badLane l .addrForm (nat64 a.1)
  else .acc { lane := l, ptr := nat64 a.1, n := n, data := data, b := b, c := { v := 0, p := false } }

/-- The bytes of a datum of w registers, by width, and the poison of each. -/
def dataOf (st : Strand) (r : Nat) (k : Bool) (l w n : Nat) : List Byte × List Bool :=
  let x (i : Nat) : RVal := rd32 st (r + i) k l
  if w = 4 then
    (natBytes ((x 0).v.toNat + (x 1).v.toNat * 2 ^ 32 + (x 2).v.toNat * 2 ^ 64 + (x 3).v.toNat * 2 ^ 96) 16,
      [(x 0).p, (x 1).p, (x 2).p, (x 3).p])
  else (natBytes (rdW st r k l w).v.toNat n, (List.range w).map fun i => (x i).p)

/-- Store data: SB, or the literal (R311). -/
def storeData (f : Form) (st : Strand) (l : Nat) : List Byte × List Bool :=
  if f.hasLit then (natBytes f.lit.toNat f.memBytes, []) else dataOf st f.sb.toNat f.kcb l f.memW f.memBytes

/-- The access of a store, with its data. -/
def Pre.withData (p : Pre) (d : List Byte × List Bool) : Pre :=
  let put (a : Acc) : Acc := { a with data := d.1, pw := d.2, b := { v := 0, p := d.2.any id } }
  match p with
  | .acc a => .acc (put a)
  | .bound a lim => .bound (put a) lim
  | q => q

def misaligned (a : Acc) : Bool := a.ptr.toNat % a.n != 0

/-! ### Translation at issue (R102, R105) -/

/-- Addresses whose pages an access needs: its first byte and, when it is misaligned, its last. -/
def pagesOf (a : Acc) : List DWord := if misaligned a then [a.ptr, ptrAdd a.ptr (a.n - 1)] else [a.ptr]

/-- The walks that lanes wait for: started for each miss; each with its lanes and their pointers. -/
def startWalks (s : State) (c ctx : Nat) (wr atomic : Bool) :
    List (Nat × DWord) → List (Nat × List (Nat × DWord)) → State × List (Nat × List (Nat × DWord))
  | [], l => (s, l)
  | (ln, p) :: t, l =>
    match xlate s c ctx (ptrVa p) with
    | .hit _ => startWalks s c ctx wr atomic t l
    | .park _ => startWalks s c ctx wr atomic t l
    | _ =>
      let r := startWalk s (dieOf c) ctx (ptrVa p) wr false atomic
      let m := (aget l r.1).getD []
      startWalks r.2 c ctx wr atomic t (aput l r.1 (if (aget m ln).isSome then m else aput m ln p))

/-- Addresses of accesses that no TLB entry and no walk that ended serves. -/
def unready (s : State) (c ctx : Nat) (l : List (Nat × DWord)) : Bool :=
  l.any fun p => match xlate s c ctx (ptrVa p.2) with | .miss => true | .wait _ => true | _ => false

/-- The walk that the first absent page of some addresses parks a lane on, with the address. -/
def firstPark (s : State) (c ctx : Nat) (l : List DWord) : Option (Nat × DWord) :=
  l.findSome? fun p => match xlate s c ctx (ptrVa p) with | .park w => some (w, p) | _ => none

/-- The walk an access parks on before any of it is performed: of the page of its first byte. The bytes of a misaligned access
reach a later absent page in their turn (R313, R368). -/
def parkOf (s : State) (c ctx : Nat) (a : Acc) : Option (Nat × DWord) := firstPark s c ctx [a.ptr]

/-- The page of a byte, known present. -/
def hitOf (s : State) (c ctx va : Nat) : Pte :=
  match xlate s c ctx va with
  | .hit e => e
  | _ => { dev := 0, frame := 0, size := 0, cache := 0, rem := false, priv := true, tag := false, nv := false, xn := true, ro := true }

/-! ### One lane's access -/

/-- A lane's access: it goes on in a new state, with what it leaves; or it faults. -/
inductive Go (α : Type) where
  | ok (s : State) (a : α)
  | bad (s : State) (f : LFault)
  deriving DecidableEq, Repr

/-- Accesses of lanes in ascending order: what the passing ones leave, and the faults. -/
def goAll {α : Type} (s : State) (g : State → Acc → Go α) : List Acc → State × List α × List LFault
  | [] => (s, [], [])
  | a :: t =>
    match g s a with
    | .ok s1 x => let r := goAll s1 g t; (r.1, x :: r.2.1, r.2.2)
    | .bad s1 f => let r := goAll s1 g t; (r.1, r.2.1, f :: r.2.2)

def fault1 (a : Acc) (k : Cause) (addr : DWord) (d : Word) : LFault := { lane := a.lane, cause := k, addr := addr, detail := d }

/-- Held lines that n bytes would newly hold would be more than a core may hold (R109). -/
def phaseFull (x : Core) (key : Nat) : Bool := !isHeld (lineOf x key) && decide (Config.heldMax ≤ heldCount x)

/-- The tag that fails the check of n bytes in the core's view, or at the homes (R104, R200). -/
def tagFails (s : State) (x : Core) (e : Pte) (ptr : DWord) (pa n : Nat) (home snap : Bool) : Option (BitVec 4) :=
  if e.tag then
    ((granules pa n).map fun g => if home then homeTag s e g else viewTag s x e g snap).find? fun t => !tagOk (ptrTag ptr) t
  else none

/-- The checks of R313 steps 5, 6 and 9 and of R109 for a load of n bytes within a line. -/
def loadChecks (s : State) (x : Core) (a : Acc) (ptr : DWord) (e : Pte) (pa n : Nat) (held : Bool) : Option LFault :=
  if e.priv then some (fault1 a .priv ptr 0)
  else if locked x 2 (ptrVa ptr) n false then some (fault1 a .rangeLock ptr 0)
  else
    match tagFails s x e ptr pa n false held with
    | some t => some (fault1 a .tagLd ptr (t.setWidth 32))
    | none => if held && phaseFull x (lineKey e pa) then some (fault1 a .phaseFull ptr 0) else none

/-- The checks of R313 steps 5 to 7 and of R109 for a store of n bytes within a line. -/
def storeChecks (x : Core) (a : Acc) (ptr : DWord) (e : Pte) (pa n : Nat) (pois held : Bool) : Option LFault :=
  if e.priv then some (fault1 a .priv ptr 0)
  else if locked x 2 (ptrVa ptr) n true then some (fault1 a .rangeLock ptr 0)
  else if pois && (e.nv || e.rem || e.cache == 2) then some (fault1 a .poisonUse 0 0)
  else if held && phaseFull x (lineKey e pa) then some (fault1 a .phaseFull ptr 0)
  else none

/-- The checks of R313 steps 5 to 7 and 9 for an atomic of n bytes. -/
def atomChecks (s : State) (x : Core) (a : Acc) (ptr : DWord) (e : Pte) (pa n : Nat) (pois : Bool) : Option LFault :=
  if e.priv then some (fault1 a .priv ptr 0)
  else if locked x 2 (ptrVa ptr) n true then some (fault1 a .rangeLock ptr 0)
  else if pois && (e.nv || e.rem || e.cache == 2) then some (fault1 a .poisonUse 0 0)
  else if e.ro then some (fault1 a .roSt ptr 0)
  else
    match tagFails s x e ptr pa n true false with
    | some t => some (fault1 a .tagSt ptr (t.setWidth 32))
    | none => none

/-- An operation's lane. -/
def olane (a : Acc) (e : Pte) (pa : Nat) : OLane :=
  { lane := a.lane, ptr := a.ptr, pa := pa, e := e, b := a.b, c := a.c, data := a.data, done := false, vals := [], landed := 0 }

/-- A lane whose values are known at issue. -/
def vlane (l : Nat) (vs : List RVal) : OLane :=
  { lane := l, ptr := 0, pa := 0,
    e := { dev := 0, frame := 0, size := 0, cache := 0, rem := false, priv := false, tag := false, nv := false, xn := false, ro := false },
    b := { v := 0, p := false }, c := { v := 0, p := false }, data := [], done := true, vals := vs, landed := 0 }

/-- The line is counted for a read to come (R109). -/
def wantLine (s : State) (c : Nat) (e : Pte) (pa : Nat) : State :=
  modCore s c fun x => let h := lineOf x (lineKey e pa); setLine x (lineKey e pa) { h with want := h.want || h.read.isNone, nv := e.nv }

/-- Bytes of a misaligned access, in ascending order: each is translated, checked and performed by `g`; the first failure is
the lane's, an absent page as PAGE_ABSENT at the byte's pointer (R313, R368). -/
def eachByte (c ctx : Nat) (a : Acc) (g : State → DWord → Pte → Nat → Nat → Go (Byte × Bool)) : Nat → Nat → State → Go (List (Byte × Bool))
  | 0, _, s => .ok s []
  | n + 1, i, s =>
    let ptr := ptrAdd a.ptr i
    match xlate s c ctx (ptrVa ptr) with
    | .park _ => .bad s (fault1 a .pageAbsent ptr 0)
    | _ =>
      let e := hitOf s c ctx (ptrVa ptr)
      match g s ptr e (paOf e (ptrVa ptr)) i with
      | .bad s1 f => .bad s1 f
      | .ok s1 b =>
        match eachByte c ctx a g n (i + 1) s1 with
        | .bad s2 f => .bad s2 f
        | .ok s2 l => .ok s2 (b :: l)

/-- Every operation of the core that must come before an access of a line is performed (R183). -/
def settleLine (s : State) (c : Nat) (e : Pte) (pa : Nat) : State := performBefore s c s.nextId [lineKey e pa] false

/-- A load of one lane: an operation's lane to perform later, or performed byte by byte when it is misaligned. -/
def goLoad (c ctx : Nat) (dir : Bool) (ty : BitVec 4) (s : State) (a : Acc) : Go OLane :=
  match getCore s c with
  | none => .ok s (vlane a.lane [])
  | some x =>
    if misaligned a then
      let r := eachByte c ctx a (fun s ptr e pa _ =>
        let s1 := settleLine s c e pa
        let held := !dir && e.cache != 2
        match loadChecks s1 ((getCore s1 c).getD x) a ptr e pa 1 held with
        | some f => .bad s1 f
        | none =>
          let far := farRead s1 c e pa 1 held
          if held then (let r := heldLoad far.1 c e pa 1; .ok r.1 (r.2.1.headD 0, far.2.2 || r.2.2))
          else .ok far.1 (far.2.1.headD 0, far.2.2)) a.n 0 s
      match r with
      | .bad s1 f => .bad s1 f
      | .ok s1 bs => .ok s1 (vlane a.lane (loadVals ty (bs.map (·.1)) (bs.any (·.2))))
    else
      let e := hitOf s c ctx (ptrVa a.ptr)
      let pa := paOf e (ptrVa a.ptr)
      let held := !dir && e.cache != 2
      match loadChecks s x a a.ptr e pa a.n held with
      | some f => .bad s f
      | none => .ok (if held then wantLine s c e pa else s) (olane a e pa)

/-- A byte or an aligned lane of a store joins the open segment of an NV page (R119). -/
def storeLane (s : State) (c : Nat) (a : Acc) (ptr : DWord) (e : Pte) (pa : Nat) (data : List Byte) (pw : List Bool) (held : Bool) : State × SLane :=
  let sg := if e.nv && held then ((getCore s c).map (·.seg)).getD 0 else 0
  let s1 := modCore s c fun x =>
    let x1 := if e.nv && held then { x with segOpen := true } else x
    if held then (let h := lineOf x1 (lineKey e pa); setLine x1 (lineKey e pa) { h with cnt := true, nv := e.nv }) else x1
  (s1, { lane := a.lane, ptr := ptr, pa := pa, e := e, data := data, pw := pw, seg := sg, bound := none })

/-- The oldest entries of the store queue go until none is left, and stores on their way to homes arrive: the emulator
waits for the stores of a byte (R368). -/
def storeThrough (s : State) (c id : Nat) : State := completeOp (storeDrainAll s c) c id 0xFFFFFFFF 0xF true

/-- A store of one aligned lane: its lane of the store-queue entry. -/
def goStore (c ctx : Nat) (dir : Bool) (s : State) (a : Acc) : Go SLane :=
  match getCore s c with
  | none => .bad s (fault1 a .illegal 0 0)
  | some x =>
    let e := hitOf s c ctx (ptrVa a.ptr)
    let pa := paOf e (ptrVa a.ptr)
    let held := !dir && e.cache != 2
    let s1 := settleLine s c e pa
    match storeChecks ((getCore s1 c).getD x) a a.ptr e pa a.n a.b.p held with
    | some f => .bad s1 f
    | none => let r := storeLane s1 c a a.ptr e pa a.data a.pw held; .ok r.1 r.2

/-- n bytes of a misaligned store from number i on, in ascending order, up to one that fails (R313, R368): each is translated and
checked, and those that `keep` admits are stored through the queue, each an entry of its own. Answers how many passed, and the failure. -/
def storeBytes (c ctx : Nat) (dir : Bool) (u : Cur) (st : Strand) (a : Acc) (keep : Nat → Bool) : Nat → Nat → State → State × Nat × Option LFault
  | 0, i, s => (s, i, none)
  | n + 1, i, s =>
    let ptr := ptrAdd a.ptr i
    match xlate s c ctx (ptrVa ptr), getCore s c with
    | .park _, _ => (s, i, some (fault1 a .pageAbsent ptr 0))
    | _, none => (s, i, none)
    | _, some x =>
      let e := hitOf s c ctx (ptrVa ptr)
      let pa := paOf e (ptrVa ptr)
      let held := !dir && e.cache != 2
      let s1 := settleLine s c e pa
      match storeChecks ((getCore s1 c).getD x) a ptr e pa 1 (a.pw.getD (i / 4) false) held with
      | some f => (s1, i, some f)
      | none =>
        if !keep i then storeBytes c ctx dir u st a keep n (i + 1) s1
        else
          let r := storeLane s1 c a ptr e pa [a.data.getD i 0] [a.pw.getD (i / 4) false] held
          let id := r.1.nextId
          let q : SEntry := { id := id, slot := u.slot, sid := st.sid, pc := u.pc, w0 := u.w0, seq := st.seq, dir := dir, str := false, lanes := [r.2] }
          storeBytes c ctx dir u st a keep n (i + 1) (storeThrough (modCore { r.1 with nextId := id + 1 } c fun x => { x with sq := x.sq ++ [q] }) c id)

/-- An atomic of one lane: an operation's lane, or a read and then a write of its bytes when it is misaligned (R368).
`f` gives the new value from the old. -/
def goAtom (u : Cur) (c ctx : Nat) (w : Nat) (ret : Bool) (f : Acc → DWord → DWord) (s : State) (a : Acc) : Go OLane :=
  match getCore s c with
  | none => .ok s (vlane a.lane [])
  | some x =>
    let pois := a.b.p || a.c.p
    if misaligned a then
      let r := eachByte c ctx a (fun s ptr e pa _ =>
        let s1 := settleLine s c e pa
        match atomChecks s1 ((getCore s1 c).getD x) a ptr e pa 1 pois with
        | some g => .bad s1 g
        | none =>
          let s2 := writeAhead s1 c e (lineKey e pa)
          .ok (noteLate s2 e) ((homeBytes s2 e pa 1).headD 0, homePois s2 e pa 1 || lateRead s2 e)) a.n 0 s
      match r with
      | .bad s1 g => .bad s1 g
      | .ok s1 bs =>
        let m : DWord := BitVec.ofNat 64 (bytesNat (bs.map (·.1)))
        let mp := bs.any (·.2)
        let new := natBytes (f a m).toNat a.n
        let r2 := eachByte c ctx a (fun s ptr e pa i =>
          .ok (bypassWrite s c e pa { ptr := ptr, lane := a.lane, slot := u.slot, pc := u.pc, op := none } [new.getD i 0] (mp || pois)) (0, false)) a.n 0 s1
        match r2 with
        | .bad s2 g => .bad s2 g
        | .ok s2 _ => .ok s2 { vlane a.lane (if ret then valsOf m w mp else []) with ptr := a.ptr, data := new }
    else
      let e := hitOf s c ctx (ptrVa a.ptr)
      let pa := paOf e (ptrVa a.ptr)
      match atomChecks s x a a.ptr e pa a.n pois with
      | some g => .bad s g
      | none => .ok s (olane a e pa)

/-! ### The end of the issue -/

/-- Executing lanes pass the instruction, parked ones wait, faults are raised (R362). -/
def endIssue (s : State) (u : Cur) (f : Form) (done : Word) (parked : List (Nat × Nat × DWord)) (bads : List LFault) : State :=
  let s1 := modStrand s u.core u.slot fun st =>
    let st1 := advLanes st done f.bytes
    { st1 with lanes := st1.lanes.mapIdx fun l la => match aget parked l with | some w => { la with st := .faultParked w.1 w.2 u.w0 } | none => la }
  let s2 := if u.mm1 = 0 then s1 else countMismatch s1 u (lanesOf u.mask)
  if bads.isEmpty then s2 else raiseFaults s2 u.core u.slot bads u.w0 u.ilen

/-- The lanes of faults PAGE_ABSENT, which park on the walks of their pointers (R362 step 1), and the other faults. -/
def absentParks (s : State) (c ctx : Nat) (bads : List LFault) : List (Nat × Nat × DWord) :=
  bads.filterMap fun g => if g.cause = .pageAbsent then (match xlate s c ctx (ptrVa g.addr) with | .park w => some (g.lane, w, g.addr) | _ => none) else none
def otherFaults (bads : List LFault) : List LFault := bads.filter fun g => g.cause ≠ .pageAbsent

/-- The end of an issue of global accesses, among whose failures absent pages may stand; `wr`, `atomic`: what the accesses were. -/
def endGlobal (s : State) (u : Cur) (f : Form) (wr atomic : Bool) (done : Word) (parked : List (Nat × Nat × DWord)) (bads : List LFault) : State :=
  let more := absentParks s u.core (ctxNum s u.core) bads
  endIssue (parkJoin s more wr atomic) u f done (parked ++ more) (otherFaults bads)

/-- The mask of lanes in a list. -/
def laneMask (l : List Nat) : Word := maskOf fun i => l.contains i

/-- A counter at its limit: 63 of a class, 255 of a copy tag. -/
def atLimit (st : Strand) (k : Cls) : Bool :=
  match k with
  | .tag _ => decide (255 ≤ outCount st k)
  | _ => decide (63 ≤ outCount st k)

/-- A global access issues once every page it needs is known: `k` gets the accesses of present pages and the lanes that
park. Until then the strand waits on the walks. -/
def withPages (s : State) (u : Cur) (x : Core) (wr atomic : Bool) (ps : List (Nat × Pre))
    (k : Nat → List Acc → List (Nat × Nat × DWord) → State) : State :=
  let ctx := ((gangOf s x).map (·.ctx)).getD 0
  let vas := ((accsOf ps).map fun a => (pagesOf a).map fun va => (a.lane, va)).flatten
  if unready s u.core ctx vas then
    let r := startWalks s u.core ctx wr atomic vas []
    holdWalk r.1 u.core u.slot u.w0 r.2
  else
    let parked := (accsOf ps).filterMap fun a => (parkOf s u.core ctx a).map fun w => (a.lane, w)
    parkJoin (k ctx ((accsOf ps).filter fun a => !(parked.any fun p => p.1 = a.lane)) parked) parked wr atomic

/-- Requests go out for the lanes of an operation on remote pages. -/
def askAll (s : State) (u : Cur) (ctx id : Nat) (lanes : List OLane) (data : OLane → List Byte) : State :=
  lanes.foldl (fun s l => if l.done then s else remoteAsk s u.core ctx id u.slot u.pc l (data l)) s

/-- An operation is issued and counted. -/
def issueOp (s : State) (u : Cur) (st : Strand) (cls : Cls) (k : OpK) (dest : Dest) (dur : Bool) (lanes : List OLane) : State :=
  let o : Op := { id := s.nextId, slot := u.slot, sid := st.sid, pc := u.pc, w0 := u.w0, k := k, dest := dest, seq := 0, dur := dur,
                  wait := none, at_ := (0, 0), refused := [], lanes := lanes }
  let s1 := pushOp { s with nextId := s.nextId + 1 } u.core o
  modStrand s1 u.core u.slot fun st => issueOut st cls o.id

/-- The destination of DST as value registers, as uniform registers, as a predicate. -/
def destV (st : Strand) (f : Form) (n : Nat) : Dest :=
  if f.dk then .k f.dst.toNat n (st.handler.map (·.fid)) else .v (curFid st) f.dst.toNat n
def destP (st : Strand) (f : Form) : Dest := .pred (f.dst.toNat % 8) (st.handler.map (·.fid))

/-- The lanes of an operation in ascending order. -/
def insLane (l : OLane) : List OLane → List OLane
  | [] => [l]
  | a :: t => if l.lane ≤ a.lane then l :: a :: t else a :: insLane l t
def sortLanes (l : List OLane) : List OLane := l.foldr insLane []

/-- An operation of class LD or ST that reads or updates global memory lane by lane. -/
def runGlobal (i : Instr) (f : Form) (s : State) (cls : Cls) (k : OpK) (dur wr : Bool) (dest : Strand → Dest)
    (pre : Core → Strand → Nat → Pre) (go : Cur → Nat → State → Acc → Go OLane) (sent : OLane → List Byte) :
    Host.Outcome State Fault Refusal :=
  onIssue i f s fun x st u =>
    let ps := presOf f st u (pre x st)
    if anyGoes ps && atLimit st cls then stallIssue s u
    else withPages s u x wr wr ps fun ctx accs parked =>
      let r := goAll s (go u ctx) accs
      let vals := ps.filterMap fun p => match p.2 with | .val vs => some (vlane p.1 vs) | _ => none
      let lanes := sortLanes (vals ++ r.2.1)
      let s1 := if lanes.isEmpty then r.1
        else askAll (issueOp r.1 u st cls k (dest st) dur lanes) u ctx r.1.nextId lanes sent
      endGlobal s1 u f wr wr (idleLanes ps ||| laneMask (lanes.map (·.lane))) parked (badsOf ps ++ r.2.2)

/-! ### Local accesses -/

/-- Regions of a list that are ABSENT: a touch of each starts a fill, which needs an entry of the range-lock table (R151). -/
def absentOf (x : Core) (l : List Nat) : List Nat :=
  (l.foldl (fun a r => if a.contains r then a else a ++ [r]) []).filter fun r => ((aget x.regions r).map (·.st)) = some .absent

/-- What a local access meets first: of a misaligned one, its bytes in ascending order (R313, R368). -/
def accLock (x : Core) (a : Acc) (wr : Bool) : LockRes :=
  if misaligned a && decide (a.n ≤ 16) then
    ((List.range a.n).map fun i => localLock x (a.ptr.toNat + i) 1 wr).find? (· != .free) |>.getD .free
  else localLock x a.ptr.toNat a.n wr

/-- A local access of the lanes meets a missing chunk: the strand waits for it and touches it (R147, R148); touches that
start fills need entries of the range-lock table, else the instruction stalls (R151). Of the chunks that several lanes miss,
the lowest lane's is touched last and so is fetched first (log 60). -/
def chunkWait (s : State) (u : Cur) (x : Core) (wr : Bool) (accs : List Acc) : Option State :=
  let miss := accs.filterMap fun a => match accLock x a wr with
    | .chunk r c => some (a, r, c)
    | _ => none
  match miss with
  | [] => none
  | (_, r, c) :: _ =>
    if !lockRoom x (absentOf x (miss.map (·.2.1))).length then some (stallIssue s u)
    else
      let mine := (miss.filter fun q => q.2.1 = r && q.2.2 = c).map (·.1)
      let s1 := miss.foldr (fun q s => touchChunk s u.core q.2.1 q.2.2 u.slot) s
      some (holdStrand s1 u (.chunk r c (mine.map fun a => (a.lane, a.ptr)) u.w0) (laneMask (mine.map (·.lane))) 0)

/-- A local access goes on when no lane waits for a chunk. -/
def withChunks (s : State) (u : Cur) (x : Core) (wr : Bool) (accs : List Acc) (k : State) : State :=
  (chunkWait s u x wr accs).getD k

/-- The first of n bytes at a that the range-lock table keeps from the access. -/
def firstLocked (x : Core) (a n : Nat) (wr : Bool) : Option Nat :=
  (List.range n).find? fun i => localLock x (a + i) 1 wr == .lock

/-- A local access of one lane under step 6; a misaligned one goes byte by byte, and `part` performs the bytes before a
failing one. -/
def goLocal {α : Type} (c : Nat) (wr : Bool) (part : Core → Acc → Nat → Core) (g : Core → Acc → Core × α) (s : State) (a : Acc) : Go α :=
  match getCore s c with
  | none => .bad s (fault1 a .illegal 0 0)
  | some x =>
    match firstLocked x a.ptr.toNat a.n wr with
    | some i =>
      if misaligned a then .bad (setCore s c (part x a i)) (fault1 a .rangeLock (a.ptr + nat64 i) 0)
      else .bad s (fault1 a .rangeLock a.ptr 0)
    | none => let r := g x a; .ok (setCore s c r.1) r.2

/-- Local accesses whose lanes each give values (class LD). -/
def runLocal (i : Instr) (f : Form) (s : State) (wr : Bool) (nd : Nat) (pre : Nat → Strand → Nat → Pre)
    (g : State → Cur → Core → Acc → Core × List RVal) : Host.Outcome State Fault Refusal :=
  onIssue i f s fun x st u =>
    let ps := presOf f st u (pre (scrOf s x) st)
    if anyGoes ps && atLimit st .ld then stallIssue s u
    else withChunks s u x wr (accsOf ps)
      (let r := goAll s (goLocal u.core wr (fun x _ _ => x) fun y a => let v := g s u y a; (v.1, vlane a.lane v.2)) (accsOf ps)
       let s1 := if r.2.1.isEmpty then r.1 else issueOp r.1 u st .ld .value (destV st f nd) false r.2.1
       endIssue s1 u f (idleLanes ps ||| laneMask (r.2.1.map (·.lane))) [] (badsOf ps ++ r.2.2))

end Sys2Proof.Machine
end

