-- ==== Sys2Proof/Machine/Memory.lean ====
section
/-! DEFINITION. Majors 0x30 to 0x34: loads, stores, atomics, copies, region windows, tags and segments (R309 to R334). -/

namespace Sys2Proof.Machine

abbrev Result := Host.Outcome State Fault Refusal

def wz : WVal := { v := 0, p := false }
def noData (_ : OLane) : List Byte := []

/-! ### Loads (R316, R317, R320, R321) -/

/-- LD (R316). -/
def execLd (f : Form) (s : State) : Result :=
  runGlobal (.ld f) f s .ld (.load (!f.dir) f.ty) false false (fun st => destV st f f.memW)
    (fun _ st l => preGlobal f st l f.memBytes [] wz wz) (fun u ctx => goLoad u.core ctx f.dir f.ty) noData

/-- A buffer descriptor at kN (R320): BASE, LIMIT, its flags, some register poisoned. -/
def bufDesc (st : Strand) (n : Nat) : DWord × Word × Word × Bool :=
  let k (i : Nat) : RVal := readK st (n + i)
  ((k 1).v ++ (k 0).v, (k 2).v, (k 3).v, (k 0).p || (k 1).p || (k 2).p || (k 3).p)

/-- What a buffer access of w bytes at an index gives (R321): its pointer, and whether it is in range. -/
def bufAddr (base : DWord) (lim fl : Word) (i : Word) (off : Int) (w : Nat) : DWord × Bool :=
  let o : Int := (i.toNat * 2 ^ (fl.extractLsb' 0 3).toNat : Nat) + off
  (ptrAdd base o, decide (0 ≤ o) && decide (o + w ≤ lim.toNat))

/-- Steps 1 to 3 of a buffer access (R313, R320, R321). -/
def preBuf (f : Form) (st : Strand) (l n : Nat) (load : Bool) : Pre :=
  let d := bufDesc st f.sa.toNat
  let fl := d.2.2.1
  let i := opB f st l 1
  if d.2.2.2 then badLane l .poisonUse 0
  else if fl.extractLsb' 5 27 != 0 || fl.getLsbD 3 || decide (4 < (fl.extractLsb' 0 3).toNat) then badLane l .illegal 0
  else
    let a := bufAddr d.1 d.2.1 fl i.lo (offOf f) n
    let acc : Acc := { lane := l, ptr := a.1, n := n, data := [], b := wz, c := wz }
    if i.p then badLane l .poisonUse a.1
    else if !ptrForm a.1 then badLane l .addrForm a.1
    else if a.2 then .acc acc
    else if fl.getLsbD 4 then (if load then .val (List.replicate f.memW RVal.zero) else .drop)
    else if load then .bad { lane := l, cause := .boundLd, addr := a.1, detail := d.2.1 }
    else .bound acc d.2.1

/-- LDB (R321). -/
def execLdb (f : Form) (s : State) : Result :=
  runGlobal (.ldb f) f s .ld (.load (!f.dir) f.ty) false false (fun st => destV st f f.memW)
    (fun _ st l => preBuf f st l f.memBytes true) (fun u ctx => goLoad u.core ctx f.dir f.ty) noData

/-- LDS (R316): the local array at issue. -/
def execLds (f : Form) (s : State) : Result :=
  runLocal (.lds f) f s false f.memW (fun scr st l => preLocal scr f st l f.memBytes [] wz wz)
    fun s u x a => let r := strRead s u.core x u.core x a.ptr.toNat a.n s.nextId; (x, loadVals f.ty r.1 r.2)

/-- The strand issues nothing until its operations from name `id` on are done: the supervisor serves the bytes of misaligned window
accesses (R368). -/
def emulated (s : State) (u : Cur) (mis : Bool) (id : Nat) : State :=
  if mis then holdStrand s u (.emul id) 0 0 else s

/-- LDR (R316): a request to the core that the window names, performed when it arrives (R196). -/
def execLdr (f : Form) (s : State) : Result :=
  onIssue (.ldr f) f s fun x st u =>
    let ps := presOf f st u fun l => preWindow (scrOf s x) f st l f.memBytes [] wz
    if anyGoes ps && atLimit st .ld then stallIssue s u
    else
      let ok := (accsOf ps).filter fun a => ticketOk s u.core x a.ptr.toNat
      let bad := (accsOf ps).filterMap fun a => if ticketOk s u.core x a.ptr.toNat then none else some (fault1 a .gangTicket a.ptr 0)
      let lanes := ok.map fun a => { vlane a.lane [] with done := false, ptr := a.ptr, pa := a.ptr.toNat }
      let s1 := if lanes.isEmpty then s
        else emulated (issueOp s u st .ld (.ldr f.ty) (destV st f f.memW) false lanes) u (ok.any misaligned) s.nextId
      endIssue s1 u f (idleLanes ps ||| laneMask (lanes.map (·.lane))) [] (badsOf ps ++ bad)

/-- A strand instruction's access to one pointer: the page at hand, or every executing lane waits or parks (R246). -/
def strandPage (s : State) (u : Cur) (x : Core) (m : Word) (ptr : DWord) (wr atomic : Bool) (k : Nat → Pte → Left) : Left :=
  let ctx := ((gangOf s x).map (·.ctx)).getD 0
  match xlate s u.core ctx (ptrVa ptr) with
  | .hit e => k ctx e
  | .park w => clean (parkLanes (walkJoin s w wr false atomic) u.core u.slot m w ptr u.w0)
  | _ =>
    let r := startWalk s (dieOf u.core) ctx (ptrVa ptr) wr false atomic
    clean (holdWalk r.2 u.core u.slot u.w0 [(r.1, (lanesOf m).map fun l => (l, ptr))])

/-- The pages of all pointers are known, present or absent, before a strand's access goes on byte by byte or line by line. -/
def strandPages (s : State) (u : Cur) (x : Core) (m : Word) (ptrs : List DWord) (wr atomic : Bool) (k : Nat → Left) : Left :=
  let ctx := ((gangOf s x).map (·.ctx)).getD 0
  if unready s u.core ctx (ptrs.map fun p => (0, p)) then
    let r := startWalks s u.core ctx wr atomic (ptrs.map fun p => (lanesOf m).map fun l => (l, p)).flatten []
    clean (holdWalk r.1 u.core u.slot u.w0 r.2)
  else k ctx

/-- What fails a strand's access fails it for every executing lane (R246): a page found absent parks them, `at_` the pointer that
met it and `ptr` the one that the access presented. -/
def strandFail (s : State) (u : Cur) (ctx : Nat) (m : Word) (wr atomic : Bool) (g : LFault) (at_ : DWord) : Left :=
  if g.cause = .pageAbsent then
    (match xlate s u.core ctx (ptrVa at_) with
     | .park w => clean (parkLanes (walkJoin s w wr false atomic) u.core u.slot m w g.addr u.w0)
     | _ => clean s)
  else (s, (lanesOf m).map fun i => { g with lane := i })

/-- LDK (R317): one access for the strand, into uniform registers. -/
def execLdk (f : Form) (s : State) : Result :=
  runStrand (.ldk f) f s fun s x st u m =>
    let l := lowLane m
    let a := gAddr f st l
    let dest : Dest := .k f.dst.toNat f.memW (st.handler.map (·.fid))
    if a.2 then failAll s u m .poisonUse a.1
    else if !ptrForm a.1 then failAll s u m .addrForm a.1
    else if atLimit st .ld then clean (stallIssue s u)
    else
      let acc : Acc := { lane := l, ptr := a.1, n := f.memBytes, data := [], b := wz, c := wz }
      strandPages s u x m (pagesOf acc) false false fun ctx =>
        match parkOf s u.core ctx acc with
        | some _ => strandFail s u ctx m false false (fault1 acc .pageAbsent a.1 0) a.1
        | none =>
          match goLoad u.core ctx f.dir f.ty s acc with
          | .bad s1 g => strandFail s1 u ctx m false false g g.addr
          | .ok s1 o => clean (doneStrand (askAll (issueOp s1 u st .ld (.load (!f.dir) f.ty) dest false [o]) u ctx s1.nextId [o] noData) u f m)

/-! ### Stores (R318, R321) -/

/-- Store-fault records due in the core (R134). -/
def dueStores (x : Core) : Nat :=
  (x.strands.map fun p => (p.2.due.filter fun d => match d with | .store _ _ _ _ _ => true | .nopre => false).length).sum

/-- A store cannot issue: its counter, the store queue or the store-fault record queue is full (R133, R136). -/
def storeStalls (x : Core) (st : Strand) : Bool :=
  atLimit st .st || decide (Config.sqDepth ≤ x.sq.length) || decide (Config.sfDepth ≤ dueStores x)

/-- The lanes of a store in ascending order. -/
def insSLane (l : SLane) : List SLane → List SLane
  | [] => [l]
  | a :: t => if l.lane ≤ a.lane then l :: a :: t else a :: insSLane l t

/-- A store takes its entry of the queue (R133). -/
def takeEntry (s : State) (u : Cur) (st : Strand) (dir str : Bool) (lanes : List SLane) : State :=
  let q : SEntry := { id := s.nextId, slot := u.slot, sid := st.sid, pc := u.pc, w0 := u.w0, seq := st.seq, dir := dir, str := str, lanes := lanes }
  let s1 := modCore { s with nextId := s.nextId + 1 } u.core fun x => { x with sq := x.sq ++ [q] }
  modStrand s1 u.core u.slot fun st => issueOut { st with seq := st.seq + 1 } .st q.id

/-- A store whose lanes are all done at issue is counted: it retires at once when no older one of its class is outstanding (R168). -/
def countDone (st : Strand) (k : Cls) (id : Nat) : Strand := { st with out := retireList (st.out ++ [{ cls := k, id := id, done := true }]) [] }

/-- Byte i of a misaligned store is also one of an aligned lane above it, whose byte stands (R315). -/
def coveredByte (s : State) (c ctx : Nat) (al : List Acc) (a : Acc) (i : Nat) : Bool :=
  let at_ (p : DWord) : Nat × Nat := let e := hitOf s c ctx (ptrVa p); (if e.rem then e.dev + 1 else 0, paOf e (ptrVa p))
  let q := at_ (ptrAdd a.ptr i)
  al.any fun b => a.lane < b.lane && (let p := at_ b.ptr; p.1 = q.1 && decide (p.2 ≤ q.2) && decide (q.2 < p.2 + b.n))

/-- Bytes of misaligned lanes, lane by lane: of each, `n` from the first on, those that `keep` admits. Answers for each lane how many passed
their checks, and the failures. -/
def storeLanes (ctx : Nat) (dir : Bool) (u : Cur) (st : Strand) (keep : Acc → Nat → Bool) :
    List (Acc × Nat) → State → State × List (Acc × Nat) × List LFault
  | [], s => (s, [], [])
  | (a, n) :: t, s =>
    let r := storeBytes u.core ctx dir u st a (keep a) n 0 s
    let q := storeLanes ctx dir u st keep t r.1
    (q.1, (a, r.2.1) :: q.2.1, r.2.2.toList ++ q.2.2)

/-- The lanes of an ST or STB (R133, R315, R318, R368). The aligned ones, with the bound verdicts `q`, take one entry; a store that needs no
entry is counted as done when some lane executes it (R168). Bytes of misaligned lanes go through the queue one by one: those that an
aligned lane above covers before the entry, the others behind it, so that the highest lane's byte stands. -/
def storeRuns (ctx : Nat) (dir : Bool) (u : Cur) (st : Strand) (dropped : Bool) (accs : List Acc) (s : State) (q : List SLane) : State × List LFault :=
  let al := accs.filter fun a => !misaligned a
  let covered (a : Acc) (i : Nat) : Bool := coveredByte s u.core ctx al a i
  let r1 := storeLanes ctx dir u st covered ((accs.filter misaligned).map fun a => (a, a.n)) s
  let r2 := goAll r1.1 (goStore u.core ctx dir) al
  let entry := q ++ r2.2.1
  let s2 := if !entry.isEmpty then takeEntry r2.1 u st dir false (entry.foldr insSLane [])
    else if dropped || r1.2.1.any (fun a => a.2 = a.1.n) then modStrand r2.1 u.core u.slot fun st => countDone st .st r2.1.nextId
    else r2.1
  let r3 := storeLanes ctx dir u st (fun a i => !covered a i) r1.2.1 s2
  (r3.1, r1.2.2 ++ r2.2.2 ++ r3.2.2)

/-- ST and STB. -/
def runStore (i : Instr) (f : Form) (s : State) (pre : Strand → Nat → Pre) : Result :=
  onIssue i f s fun x st u =>
    let ps := presOf f st u (pre st)
    if anyGoes ps && storeStalls x st then stallIssue s u
    else withPages s u x true false ps fun ctx accs parked =>
      let keys := (accs.map fun a => (pagesOf a).map fun p => let e := hitOf s u.core ctx (ptrVa p); lineKey e (paOf e (ptrVa p))).flatten
      if blockedBefore (performBefore s u.core s.nextId keys false) u.core s.nextId keys false then
        stallIssue (performBefore s u.core s.nextId keys false) u
      else
      let bounds := ps.filterMap fun p => match p.2 with
        | .bound a lim => some { lane := a.lane, ptr := a.ptr, pa := 0, e := (vlane 0 []).e, data := [], pw := [], seg := 0, bound := some lim }
        | _ => none
      let dropped := ps.any fun p => match p.2 with | .drop => true | _ => false
      let r := storeRuns ctx f.dir u st dropped accs s bounds
      let failed := badsOf ps ++ r.2
      let done := maskOf fun l => ps.any fun p => p.1 = l && !(failed.any fun g => g.lane = l) && (aget parked l).isNone
      endGlobal r.1 u f true false done parked failed

/-- ST (R318). -/
def execSt (f : Form) (s : State) : Result :=
  runStore (.st f) f s fun st l => (preGlobal f st l f.memBytes [] wz wz).withData (storeData f st l)

/-- STB (R321). -/
def execStb (f : Form) (s : State) : Result :=
  runStore (.stb f) f s fun st l => (preBuf f st l f.memBytes false).withData (dataOf st f.sc.toNat f.kcc l f.memW f.memBytes)

/-- STS (R318): performed at issue in the local array. -/
def execSts (f : Form) (s : State) : Result :=
  onIssue (.sts f) f s fun x st u =>
    let ps := presOf f st u fun l => (preLocal (scrOf s x) f st l f.memBytes [] wz wz).withData (storeData f st l)
    if anyGoes ps && atLimit st .st then stallIssue s u
    else withChunks s u x true (accsOf ps)
      (let put (x : Core) (a : Acc) (n : Nat) : Core := locWrite x a.ptr.toNat (a.data.take n) a.pw
       let r := goAll s (goLocal u.core true put fun x a => (put x a a.n, a.lane)) (accsOf ps)
       let s1 := if r.2.1.isEmpty then r.1 else modStrand r.1 u.core u.slot fun st => countDone st .st s.nextId
       endIssue s1 u f (idleLanes ps ||| laneMask r.2.1) [] (badsOf ps ++ r.2.2))

/-- A byte of a misaligned STR takes an entry of its own (R318, R368); the oldest entry leaves a queue that is full first. -/
def strByte (u : Cur) (st : Strand) (s : State) (a : Acc) (i : Nat) : State :=
  let full := ((getCore s u.core).map fun x => decide (Config.sqDepth ≤ x.sq.length)).getD false
  let s1 := if full then storeCheckHead s u.core else s
  let l : SLane := { lane := a.lane, ptr := a.ptr + nat64 i, pa := a.ptr.toNat + i, e := (vlane 0 []).e, data := [a.data.getD i 0],
                     pw := [a.pw.getD (i / 4) false], seg := 0, bound := none }
  let q : SEntry := { id := s1.nextId, slot := u.slot, sid := st.sid, pc := u.pc, w0 := u.w0, seq := st.seq, dir := false, str := true, lanes := [l] }
  modCore { s1 with nextId := s1.nextId + 1 } u.core fun x => { x with sq := x.sq ++ [q] }

/-- A byte of a misaligned STR is also one of an aligned lane above it. -/
def coveredLocal (al : List Acc) (a : Acc) (i : Nat) : Bool :=
  al.any fun b => a.lane < b.lane && decide (b.ptr.toNat ≤ a.ptr.toNat + i) && decide (a.ptr.toNat + i < b.ptr.toNat + b.n)

/-- Bytes of misaligned STRs that `keep` admits, in order. -/
def strBytes (u : Cur) (st : Strand) (keep : Acc → Nat → Bool) (l : List Acc) (s : State) : State :=
  l.foldl (fun s a => ((List.range a.n).filter (keep a)).foldl (fun s i => strByte u st s a i) s) s

/-- STR (R318): one entry of the store queue, sent to the target when it leaves it; of a misaligned lane an entry for each byte, and
the strand waits until they are done (R368). -/
def execStr (f : Form) (s : State) : Result :=
  onIssue (.str f) f s fun x st u =>
    let ps := presOf f st u fun l => (preWindow (scrOf s x) f st l f.memBytes [] wz).withData (storeData f st l)
    if anyGoes ps && storeStalls x st then stallIssue s u
    else
      let al := (accsOf ps).filter fun a => !misaligned a
      let mis := (accsOf ps).filter misaligned
      let lanes : List SLane := al.map fun a =>
        { lane := a.lane, ptr := a.ptr, pa := a.ptr.toNat, e := (vlane 0 []).e, data := a.data, pw := a.pw, seg := 0, bound := none }
      let s1 := strBytes u st (coveredLocal al) mis s
      let s2 := if !lanes.isEmpty then takeEntry s1 u st false true lanes
        else if mis.isEmpty then s1 else modStrand s1 u.core u.slot fun st => countDone st .st s1.nextId
      let s3 := emulated (strBytes u st (fun a i => !coveredLocal al a i) mis s2) u (!mis.isEmpty) s.nextId
      endIssue s3 u f (idleLanes ps ||| laneMask ((accsOf ps).map (·.lane))) [] (badsOf ps)

/-! ### Atomics (R322 to R326) -/

/-- The operands of an atomic, before translation. -/
def preAtom (f : Form) (st : Strand) (l n w : Nat) (third : Bool) : Pre :=
  preGlobal f st l n (natBytes (opB f st l w).v.toNat n) (opB f st l w) (if third then opC f st l w else wz)

def atomDur (f : Form) : Bool := f.scope == 5
def atomSent (l : OLane) : List Byte := l.data

/-- ATOM (R323). -/
def execAtom (f : Form) (s : State) : Result :=
  runGlobal (.atom f) f s .ld (.atom f.m64.toNat f.ty) (atomDur f) true (fun st => destV st f f.w64)
    (fun _ st l => preAtom f st l (atomBytes f.ty) f.w64 false)
    (fun u ctx => goAtom u u.core ctx f.w64 true fun a m => atomOp f.m64.toNat f.ty m a.b.v) atomSent

/-- ACAS (R323). -/
def execAcas (f : Form) (s : State) : Result :=
  runGlobal (.acas f) f s .ld (.acas f.ty) (atomDur f) true (fun st => destV st f f.w64)
    (fun _ st l => preAtom f st l (atomBytes f.ty) f.w64 true)
    (fun u ctx => goAtom u u.core ctx f.w64 true fun a m => if m = a.b.v then a.c.v else m) atomSent

/-- AFADD (R324). -/
def execAfadd (f : Form) (s : State) : Result :=
  runGlobal (.afadd f) f s .ld (.afadd f.ty) (atomDur f) true (fun st => destV st f 1)
    (fun _ st l => preAtom f st l 4 1 false)
    (fun u ctx => goAtom u u.core ctx 1 true fun a m => (afaddOp f.ty (m.extractLsb' 0 32) a.b.lo).setWidth 64) atomSent

/-- RED (R326): ATOM without a return, counted ST. -/
def execRed (f : Form) (s : State) : Result :=
  runGlobal (.red f) f s .st (.atom f.m64.toNat f.ty) (atomDur f) true (fun _ => .none)
    (fun _ st l => preAtom f st l (atomBytes f.ty) f.w64 false)
    (fun u ctx => goAtom u u.core ctx f.w64 false fun a m => atomOp f.m64.toNat f.ty m a.b.v) atomSent

/-- The old value in scratchpad and the core with the new one (R325). -/
def localAtom (x : Core) (a : Acc) (n : Nat) (p : Bool) (g : DWord → DWord) : Core × List RVal :=
  let r := locRead x a.ptr.toNat n
  let m : DWord := BitVec.ofNat 64 (bytesNat r.1)
  (locWrite x a.ptr.toNat (natBytes (g m).toNat n) (List.replicate (n / 4) (r.2 || p)), valsOf m n r.2)

/-- ATOMS (R325). -/
def execAtoms (f : Form) (s : State) : Result :=
  runLocal (.atoms f) f s true f.w64
    (fun scr st l => preLocal scr f st l (atomBytes f.ty) [] (opB f st l f.w64) wz)
    fun _ _ x a => localAtom x a (atomBytes f.ty) a.b.p fun m => atomOp f.m64.toNat f.ty m a.b.v

/-- ACASS (R325). -/
def execAcass (f : Form) (s : State) : Result :=
  runLocal (.acass f) f s true f.w64
    (fun scr st l => preLocal scr f st l (atomBytes f.ty) [] (opB f st l f.w64) (opC f st l f.w64))
    fun _ _ x a => localAtom x a (atomBytes f.ty) (a.b.p || a.c.p) fun m => if m = a.b.v then a.c.v else m

/-! ### Per-lane copies (R327) -/

/-- v bytes from a pointer as runs within one line each. -/
def spansOf (c ctx : Nat) (s : State) (p : DWord) (v : Nat) : List Span :=
  let first := 64 - ptrVa p % 64
  let mk (p : DWord) (n : Nat) : Span := let e := hitOf s c ctx (ptrVa p); { ptr := p, pa := paOf e (ptrVa p), n := n, e := e }
  if v = 0 then [] else if v ≤ first then [mk p v] else [mk p first, mk (ptrAdd p first) (v - first)]

/-- Addresses of the pages that v bytes from a pointer meet. -/
def spanPages (p : DWord) (v : Nat) : List DWord :=
  if v = 0 then [] else if ptrVa p / 65536 = ptrVa (ptrAdd p (v - 1)) / 65536 then [p] else [p, ptrAdd p (v - 1)]

/-- A lane of CPA before translation: an access whose `b` holds the destination and `c` the count. A destination in a chunk of a FILLING
window that is PRESENT is no conflict: the cell of R152 can be read either way, and the model lets it through (log 74). -/
def preCpa (scr : Nat) (x : Core) (f : Form) (st : Strand) (l : Nat) : Pre :=
  let d := rd32 st f.dst.toNat false l
  let p := opA f st l 2
  let v := opB f st l 1
  if d.p || p.p || v.p then badLane l .poisonUse p.v
  else if 32 < v.v.toNat then badLane l .addrForm p.v
  else if d.v.toNat % 32 ≠ 0 ∨ !localIn scr d.v.toNat 32 then badLane l .addrForm (d.v.setWidth 64)
  else if localLock x d.v.toNat 32 true != .free then badLane l .rangeLock (d.v.setWidth 64)
  else if 0 < v.v.toNat ∧ !ptrForm p.v then badLane l .addrForm p.v
  else .acc { lane := l, ptr := p.v, n := 0, data := [], b := { v := d.v.setWidth 64, p := false }, c := v }

/-- A CPA lane's source checks (R100), as a default load's. -/
def goCpa (c ctx : Nat) (s : State) (a : Acc) : Go CLane :=
  let sp := spansOf c ctx s a.ptr a.c.v.toNat
  match getCore s c with
  | none => .ok s { lane := a.lane, dst := 0, spans := [], put := 0, pw := 0, done := false }
  | some x =>
    match sp.findSome? fun q => if q.e.priv then some (fault1 a .priv q.ptr 0)
        else (tagFails s x q.e q.ptr q.pa q.n false true).map fun t => fault1 a .tagLd q.ptr (t.setWidth 32) with
    | some g => .bad s g
    | none => .ok s { lane := a.lane, dst := a.b.v.toNat, spans := sp, put := 0, pw := 0, done := false }

/-- Entries of a strand in the copy issue queue (R128). -/
def copyDepth : Nat := 8

/-- CPA (R327). A lane one of whose source pages is absent parks, whatever its other page would fail (log 74). -/
def execCpa (f : Form) (s : State) : Result :=
  onIssue (.cpa f) f s fun x st u =>
    let ps := presOf f st u (preCpa (scrOf s x) x f st)
    let tag := f.md.toNat
    let ctx := ((gangOf s x).map (·.ctx)).getD 0
    let die := u.core
    let pages (a : Acc) : List DWord := spanPages a.ptr a.c.v.toNat
    if anyGoes ps && (atLimit st (.tag tag) || decide (copyDepth ≤ (x.cpas.filter fun q => q.sid = st.sid).length)) then stallIssue s u
    else
      let vas := ((accsOf ps).map fun a => (pages a).map fun va => (a.lane, va)).flatten
      if unready s die ctx vas then
        let r := startWalks s die ctx false false vas []
        holdWalk r.1 u.core u.slot u.w0 r.2
      else
        let parkW (a : Acc) : Option (Nat × DWord) := firstPark s die ctx (pages a)
        let parked := (accsOf ps).filterMap fun a => (parkW a).map fun w => (a.lane, w)
        let r := goAll s (goCpa u.core ctx) ((accsOf ps).filter fun a => (parkW a).isNone)
        let s1 :=
          if r.2.1.isEmpty then r.1
          else
            let q : Cpa := { id := r.1.nextId, slot := u.slot, sid := st.sid, tag := tag, lanes := r.2.1 }
            modStrand (modCore { r.1 with nextId := r.1.nextId + 1 } u.core fun x => { x with cpas := x.cpas ++ [q] }) u.core u.slot
              fun st => issueOut st (.tag tag) q.id
        endIssue s1 u f (idleLanes ps ||| laneMask (r.2.1.map (·.lane))) parked (badsOf ps ++ r.2.2)

/-! ### Region windows (R328 to R331) -/

/-- A region entry from its 128 bytes, with the state and bitmap that binding gives (R145, R328); none where it breaks R145
or R146. -/
def regionFrom (scr : Nat) (b : List Byte) (slot : Nat) (preset : Bool) : Option Region :=
  let fld (o n : Nat) : Nat := recField b o n
  let ctl := fld 14 1
  let ew := ctl % 4
  let trn := ctl / 4 % 2 = 1
  let nofill := ctl / 16 % 2 = 1
  let nchk := fld 12 2
  let bits := if ew = 0 then 4 else if ew = 1 then 8 else if ew = 2 then 16 else 32
  let cols := fld 16 4
  let rows := fld 20 4
  let planes := fld 24 2
  let ok := (preset || decide (fld 0 8 < 2 ^ 60)) && decide (fld 8 4 % 512 = 0) && decide (nchk < 512) && decide (ctl < 32) &&
    decide (1 ≤ cols) && decide (cols ≤ 2 ^ 20) && decide (1 ≤ rows) && decide (rows ≤ 2 ^ 20) && decide (1 ≤ planes) &&
    decide (planes ≤ 4096) && decide (fld 26 6 = 0) && decide (fld 32 8 < 2 ^ 40) && decide (fld 40 8 < 2 ^ 48) &&
    (ew != 0 || (decide (cols % 2 = 0) && (!trn || decide (rows % 2 = 0)))) &&
    decide (planes * rows * cols * bits ≤ (nchk + 1) * 512 * 8) && decide (fld 8 4 + (nchk + 1) * 512 ≤ scr)
  if ok then
    some { src := BitVec.ofNat 64 (fld 0 8), wbase := fld 8 4, nchk := nchk, ew := BitVec.ofNat 2 ew, trn := trn,
           wr := decide (ctl / 8 % 2 = 1), nofill := nofill, st := if nofill then .present else .absent, cols := cols, rows := rows,
           planes := planes, sstride := fld 32 8, pstride := fld 40 8,
           bitmap := if nofill then BitVec.allOnes 512 else BitVec.allOnes 512 <<< (nchk + 1),
           poison := false, fault := false, cause := 0, binder := slot, preset := preset, order := [], first := (0, 0, 0), flush := [] }
  else none

/-- The window of an entry meets one that is bound. -/
def windowMeets (x : Core) (r : Region) : Bool := x.regions.any fun p => overlap p.2.wbase (regionBytes p.2) r.wbase (regionBytes r)

/-- RGNSET (R328). The 128 bytes are read as default loads at issue. -/
def execRgnset (f : Form) (s : State) : Result :=
  runStrand (.rgnset f) f s fun s x st u m =>
    let p := opA f st (lowLane m) 2
    let rn := f.aux.toNat
    if p.p then failAll s u m .poisonUse p.v
    else if !ptrForm p.v ∨ p.v.toNat % 128 ≠ 0 then failAll s u m .addrForm p.v
    else strandPage s u x m p.v false false fun _ e =>
      let pa := paOf e (ptrVa p.v)
      let held := e.cache != 2
      let acc : Acc := { lane := lowLane m, ptr := p.v, n := 128, data := [], b := wz, c := wz }
      let s0 := settleLine (settleLine s u.core e pa) u.core e (pa + 64)
      let x0 := (getCore s0 u.core).getD x
      let half (s : State) (i : Nat) : State × List Byte × Bool :=
        let far := farRead s u.core e (pa + 64 * i) 64 held
        if held then (let r := heldLoad far.1 u.core e (pa + 64 * i) 64; (r.1, r.2.1, far.2.2 || r.2.2)) else far
      match loadChecks s0 x0 acc p.v e pa 128 held with
      | some g => (s0, (lanesOf m).map fun i => { g with lane := i })
      | none =>
        let r0 := half s0 0
        let x1 := (getCore r0.1 u.core).getD x
        if held && phaseFull x1 (lineKey e (pa + 64)) then failAll r0.1 u m .phaseFull p.v
        else
          let r1 := half r0.1 1
          let x2 := (getCore r1.1 u.core).getD x
          if r0.2.2 || r1.2.2 then failAll r1.1 u m .poisonUse 0
          else if (aget x2.regions rn).isSome then failAll r1.1 u m .illegal 0
          else
            match regionFrom (scrOf s x) (r0.2.1 ++ r1.2.1) u.slot false with
            | none => failAll r1.1 u m .illegal 0
            | some g =>
              if windowMeets x2 g then failAll r1.1 u m .illegal 0
              else clean (doneStrand (modCore r1.1 u.core fun x => { x with regions := aput x.regions rn g }) u f m)

/-- The lanes of a core parked in CHKW on an entry become READY (R329, R331). `ready`: which waits end. -/
def releaseChkw (x : Core) (rn : Nat) (ready : Nat → Word → Bool) : Core :=
  mapCoreStrands (fun st =>
    let inH := st.handler.isSome
    let ends (l : LaneState) : Bool := match l with
      | .parked (.chkw r w m) => r = rn && ready w m
      | _ => false
    { st with lanes := st.lanes.map fun la =>
        let la1 := if ends la.st then releaseIn false 12 la else la
        if inH && la.st != .exited && ends la.sst then releaseIn true 12 la1 else la1 }) x

/-- The strand waits for a chunk of an entry that `p` admits. -/
def chunkHeld (rn : Nat) (p : Nat → Bool) (st : Strand) : Bool :=
  match st.hold with
  | some h => (match h.k with | .chunk r c _ _ => r = rn && p c | _ => false)
  | none => false

/-- Strands that wait for a chunk of an entry wait no longer; `p` tells which chunks. -/
def releaseChunk (x : Core) (rn : Nat) (p : Nat → Bool) : Core :=
  mapCoreStrands (fun st => if chunkHeld rn p st then { st with hold := none } else st) x

/-- The accesses that waited for chunks of an entry are performed next, in the cycle (R148, R166). -/
def touchNext (s : State) (c : Nat) (x : Core) (rn : Nat) (p : Nat → Bool) : State :=
  { s with agenda := (x.strands.filterMap fun q => if chunkHeld rn p q.2 then some (.touch c q.1) else none) ++ s.agenda }

/-- A lane that is FAULT_PARKED on the page of a source of a window, by its access to the window, re-executes. -/
def unparkWindow (s : State) (r : Region) (st : Strand) : Strand :=
  let pages := ((List.range (r.nchk + 1)).map (chunkPtrs r)).flatten.map fun p => ptrVa p / 65536
  let mine (l : LaneState) : Bool := match l with
    | .faultParked w p _ => decide (r.wbase ≤ p.toNat) && decide (p.toNat < r.wbase + regionBytes r) && s.walks.any fun v => v.id = w && pages.contains v.page
    | _ => false
  { st with lanes := st.lanes.map fun la =>
      { la with st := if mine la.st then .ready else la.st, sst := if mine la.sst then .ready else la.sst } }

/-- An entry becomes EMPTY: its waits end, and a fill of it stops (R147, R329). Its accesses that waited go on; an RGNFL that
waited for the fill retires, with nothing copied out (log 61). -/
def clearRegion (s : State) (c rn : Nat) : State :=
  match getCore s c with
  | none => s
  | some x =>
    let fills := x.jobs.filter fun j => j.k == .fill rn
    let x1 := { x with regions := adel x.regions rn, jobs := x.jobs.filter fun j => j.k != .fill rn }
    let x2 := releaseChunk (releaseChkw x1 rn fun _ _ => true) rn fun _ => true
    let x3 := match aget x.regions rn with | some r => if r.st = .filling then mapCoreStrands (unparkWindow s r) x2 else x2 | none => x2
    let s1 := touchNext (setCore s c x3) c x rn fun _ => true
    let s2 := if fills.isEmpty then s1 else fire s1 .rangeRelease c rn
    (((aget x.regions rn).map (·.flush)).getD []).foldl (fun s q => retireOut s c q.2 q.1) s2

/-- Strands whose RGNCLR waits for a copy-out of the entry. -/
def clearWaits (x : Core) (rn : Nat) : Bool :=
  x.strands.any fun p => match p.2.hold with | some h => h.k == .rgnclr rn | none => false

/-- RGNCLR (R329). -/
def execRgnclr (f : Form) (s : State) : Result :=
  runStrand (.rgnclr f) f s fun s x _ u m =>
    let rn := f.aux.toNat
    match aget x.regions rn with
    | none => clean (doneStrand s u f m)
    | some r =>
      clean (if r.st = .flushing then holdStrand s u (.rgnclr rn) m f.bytes else doneStrand (clearRegion s u.core rn) u f m)

/-- The bytes of the strided source block of a region, first to last (R151). -/
def regionBlock (r : Region) : Nat :=
  let bits := if r.ew = 0 then 4 else if r.ew = 1 then 8 else if r.ew = 2 then 16 else 32
  (r.planes - 1) * r.pstride + (r.rows - 1) * r.sstride + (r.cols * bits + 7) / 8

/-- A copy-out starts: its two ranges are registered and the entry is FLUSHING (R149, R151). -/
def startCopyout (s : State) (c rn id slot : Nat) : State :=
  match getCore s c with
  | none => s
  | some x =>
    match aget x.regions rn with
    | none => s
    | some r =>
      let ent (space : Nat) (wr : Bool) (b l : Nat) : REnt := { space := space, write := wr, chunked := none, base := b, len := l, tmask := 0, twmask := 0 }
      let j : Job := { id := s.nextId, slot := slot, sid := ((aget x.strands slot).map (·.sid)).getD 0, pc := curPc s, k := .copyout rn id, sent := false, raced := false, wait := none,
                       at_ := (0, 0), refused := [],
                       ents := [ent 0 false r.wbase (regionBytes r), ent 2 true (ptrVa r.src) (regionBlock r)] }
      fire (setCore { s with nextId := s.nextId + 1 } c
        { x with regions := aput x.regions rn { r with st := .flushing }, jobs := x.jobs ++ [j] }) .rangeRegister c s.nextId

/-- RGNFL (R330). -/
def execRgnfl (f : Form) (s : State) : Result :=
  runStrand (.rgnfl f) f s fun s x st u m =>
    let rn := f.aux.toNat
    match aget x.regions rn with
    | none => failAll s u m .illegal 0
    | some r =>
      if !r.wr then failAll s u m .illegal 0
      else if atLimit st .cp || (r.st == .present && !lockRoom x 2) || (r.st == .absent && !lockRoom x 1) then clean (stallIssue s u)
      else
        let id := s.nextId
        let s1 := modStrand { s with nextId := id + 1 } u.core u.slot fun st => issueOut st .cp id
        let later (s : State) : State := modCore s u.core fun x =>
          { x with regions := amod x.regions rn fun r => { r with flush := r.flush ++ [(id, u.slot)] } }
        let s2 := match r.st with
          | .present => startCopyout s1 u.core rn id u.slot
          | .absent => later (touchChunk s1 u.core rn 0 u.slot)
          | .filling => later s1
          | .flushing => later s1
        clean (doneStrand s2 u f m)

/-- Every chunk that a mask of word w names is present (R331). -/
def chunksReady (x : Core) (rn w : Nat) (m : Word) : Bool :=
  match aget x.regions rn with
  | none => true
  | some r => (List.range 32).all fun i => !m.getLsbD i || r.bitmap.getLsbD (32 * w + i)

/-- The region, the mask word and the lane's mask of CHKW and CHKT. -/
def chkRegion (f : Form) : Nat := f.aux.toNat % 32
def chkWord (f : Form) : Nat := f.aux.toNat / 32 % 16

/-- CHKW (R331): lanes whose chunks are missing are PARKED. -/
def execChkw (f : Form) (s : State) : Result :=
  onIssue (.chkw f) f s fun x st u =>
    let rn := chkRegion f
    let w := chkWord f
    let mask (l : Nat) : Word := (opB f st l 1).lo
    let ps := presOf f st u fun l => if (opB f st l 1).p then badLane l .poisonUse 0 else .val []
    let go := (ps.filter fun p => match p.2 with | .val _ => true | _ => false).map (·.1)
    let first := go.find? fun l => mask l != 0
    let starts := ((aget x.regions rn).map (·.st)) = some .absent && first.isSome
    if starts && !lockRoom x 1 then stallIssue s u
    else
      let s1 := match first with
        | some l => if starts then touchChunk s u.core rn (32 * w + ((List.range 32).find? fun i => (mask l).getLsbD i).getD 0) u.slot else s
        | none => s
      let parks := go.filter fun l => !chunksReady x rn w (mask l)
      let s2 := modStrand s1 u.core u.slot fun st => parks.foldl (fun st l => modLane st l fun la => { la with st := .parked (.chkw rn w (mask l)) }) st
      endIssue s2 u f (idleLanes ps ||| laneMask (go.filter fun l => !parks.contains l)) [] (badsOf ps)

/-- CHKT (R331). -/
def execChkt (f : Form) (s : State) : Result :=
  runLanes (.chkt f) f s false fun x st _ l =>
    let m := opB f st l 1
    if m.p then .bad { lane := l, cause := .poisonUse, addr := 0, detail := 0 }
    else .ok (outPred (chunksReady x (chkRegion f) (chkWord f) m.lo) false 0)

/-! ### Tags and segments (R332, R333) -/

/-- A granule is among the source bytes that an engine of another core has checked and not yet read: a copy's, or those of a job that
loads a tile. The tag changes after these (R200). -/
def tagAwaited (s : State) (c : Nat) (e : Pte) (g : Nat) : Bool :=
  let hit (q : Span) : Bool := !e.rem && !q.e.rem && (granules q.pa q.n).contains g
  s.cores.any fun p => p.1 ≠ c && (p.2.cpas.any (fun q => q.lanes.any fun l => !l.done && l.spans.any hit) ||
    p.2.jobs.any fun j => match j.k with | .tldG _ _ rows => rows.any fun r => r.any hit | _ => false)

/-- Accesses of every core that have passed their checks have reached the home before a tag there changes (R105, R200). -/
def settleTags (s : State) (key : Nat) : State := s.cores.foldl (fun s p => performBefore s p.1 s.nextId [key] false) s

/-- A tag is written at its home and in the core's copy (R200). -/
def setTag (s : State) (u : Cur) (ctx : Nat) (e : Pte) (pa : Nat) (ptr : DWord) (lane : Nat) (t : BitVec 4) : State :=
  let c := u.core
  let s1 := if e.rem then remoteWrite s c ctx e pa [t.setWidth 8] { ptr := ptr, lane := lane, slot := u.slot, pc := u.pc, op := none } false
    else homeSetTag (settleTags s (lineKey e pa)) (pa / 32) t c
  modCore s1 c fun x =>
    let k := lineKey e pa
    let h := lineOf x k
    match h.read with
    | none => x
    | some (b, t0, t1, p0, p1) =>
      setLine x k { h with read := some (b, if pa / 32 % 2 = 0 then t else t0, if pa / 32 % 2 = 1 then t else t1, p0, p1) }

/-- The page checks of TSET and TGET. -/
def tagPage (a : Acc) (e : Pte) (set : Bool) : Option LFault :=
  if e.priv then some (fault1 a .priv a.ptr 0)
  else if e.ro then some (fault1 a .roSt a.ptr 0)
  else if !e.tag then some (fault1 a (if set then .tagSt else .tagLd) a.ptr 0)
  else none

/-- The strand waits until some remote requests are acknowledged; its lanes have passed the instruction. -/
def awaitRemote (s : State) (u : Cur) (ids : List Nat) : State :=
  if ids.isEmpty then s else holdStrand s u (.remote ids) 0 0

/-- The request that a state sends next goes out, where a page is remote. -/
def nextSent (s : State) (e : Pte) : Option Nat := if e.rem then some s.nextId else none

/-- TSET (R332): it waits for what other cores' engines have checked against the old tag and not yet read (R200). -/
def execTset (f : Form) (s : State) : Result :=
  onIssue (.tset f) f s fun x st u =>
    let ps := presOf f st u fun l =>
      let t := opB f st l 1
      if t.p then badLane l .poisonUse 0 else preGlobal f st l 1 [] t wz
    withPages s u x true false ps fun ctx accs parked =>
      if accs.any fun a => let e := hitOf s u.core ctx (ptrVa a.ptr); (tagPage a e true).isNone && tagAwaited s u.core e (paOf e (ptrVa a.ptr) / 32) then
        stallIssue s u
      else
      let r := goAll s (fun s a =>
        let e := hitOf s u.core ctx (ptrVa a.ptr)
        match tagPage a e true with
        | some g => .bad s g
        | none => .ok (setTag s u ctx e (paOf e (ptrVa a.ptr)) a.ptr a.lane (a.b.v.extractLsb' 0 4)) (a.lane, nextSent s e)) accs
      endIssue (awaitRemote r.1 u (r.2.1.filterMap (·.2))) u f (idleLanes ps ||| laneMask (r.2.1.map (·.1))) parked (badsOf ps ++ r.2.2)

/-- TGET (R332). -/
def execTget (f : Form) (s : State) : Result :=
  onIssue (.tget f) f s fun x st u =>
    let ps := presOf f st u fun l => preGlobal f st l 1 [] wz wz
    withPages s u x false false ps fun ctx accs parked =>
      let r := goAll s (fun s a =>
        let e := hitOf s u.core ctx (ptrVa a.ptr)
        match tagPage a e false with
        | some g => .bad s g
        | none =>
          let g := paOf e (ptrVa a.ptr) / 32
          let far := e.rem && (lineOf x (lineKey e (32 * g))).read.isNone
          .ok (if far then remoteWrite s u.core ctx e (32 * g) []
              { ptr := a.ptr, lane := a.lane, slot := u.slot, pc := u.pc, op := none, dest := .v (curFid st) f.dst.toNat 1 } false else s)
            (a.lane, ({ v := (viewTag s x e g true).setWidth 32, p := viewPois s x e g true } : RVal), if far then some s.nextId else none)) accs
      let s1 := modStrand r.1 u.core u.slot fun st => r.2.1.foldl (fun st v => writeVs st f.dst.toNat v.1 [v.2.1]) st
      endIssue (awaitRemote s1 u (r.2.1.filterMap (·.2.2))) u f (idleLanes ps ||| laneMask (r.2.1.map (·.1))) parked (badsOf ps ++ r.2.2)

/-- PBAR (R333): the open segment closes. -/
def execPbar (f : Form) (s : State) : Result :=
  runStrand (.pbar f) f s fun s _ _ u m => clean (doneStrand (closeSeg s u.core) u f m)

end Sys2Proof.Machine
end

