-- ==== Sys2Proof/Machine/Tiles.lean ====
section
/-! DEFINITION. Major 0x3C: tiles and matrix jobs (R54 to R56, R219 to R223, R336 to R344), at issue and when the engine
performs them. -/

namespace Sys2Proof.Machine

/-! ### Shapes and tile storage (R54 to R56) -/

/-- Element width in bits of a tile control value; 0 where EW is 0 or reserved. -/
def tcW (tc : Word) : Nat :=
  let e := (tc.extractLsb' 0 3).toNat
  if e = 1 then 2 else if e = 2 then 4 else if e = 3 then 8 else if e = 4 then 16 else if e = 5 then 32 else 0
def tcRows (tc : Word) : Nat := (tc.extractLsb' 4 6).toNat + 1
def tcCols (tc : Word) : Nat := (tc.extractLsb' 10 8).toNat + 1

/-- A value that R55 rejects. -/
def tcBad (tc : Word) : Bool :=
  tcW tc = 0 || tc.getLsbD 3 || tc.extractLsb' 18 14 != 0 || decide (131072 < tcRows tc * tcCols tc * tcW tc)

/-- %tcN of a core. -/
def tcOf (x : Core) (t : Nat) : Word := sget 0 x.tc t

/-- The key of word i of tile t. -/
def tileKey (t i : Nat) : Nat := 4096 * t + i
def tileWord (m : SMap RVal) (t i : Nat) : RVal := sget RVal.zero m (tileKey t i)

/-- Element number e of width w of a tile, with its word's poison. -/
def tileElem (m : SMap RVal) (t w e : Nat) : Nat × Bool :=
  let r := tileWord m t (e * w / 32)
  (r.v.toNat / 2 ^ (e * w % 32) % 2 ^ w, r.p)

/-- A word with an element in it, its poison joined. -/
def withElem (r : RVal) (w sh v : Nat) (p : Bool) : RVal :=
  let m : Word := BitVec.ofNat 32 ((2 ^ w - 1) * 2 ^ sh)
  { v := (r.v &&& ~~~m) ||| (BitVec.ofNat 32 (v * 2 ^ sh) &&& m), p := r.p || p }

/-- Elements (number, value, poison) of width w written: a word written to takes the OR of the poison of what is
written into it (R56). -/
def putElems (m : SMap RVal) (t w : Nat) (l : List (Nat × Nat × Bool)) : SMap RVal :=
  let key (e : Nat) : Nat := tileKey t (e * w / 32)
  let clean := l.foldl (fun m x => let r := sget RVal.zero m (key x.1); sset RVal.zero m (key x.1) { r with p := false }) m
  l.foldl (fun m x => sset RVal.zero m (key x.1) (withElem (sget RVal.zero m (key x.1)) w (x.1 * w % 32) x.2.1 x.2.2)) clean

/-! ### Registration (R151, R336) -/

/-- The tile entry of a job: tiles touched, tiles written. -/
def tileEnt (touch write : List Nat) : REnt :=
  let m (l : List Nat) : BitVec 16 := l.foldl (fun m t => setBit m t true) 0
  { space := 1, write := !write.isEmpty, chunked := none, base := 0, len := 0, tmask := m (touch ++ write), twmask := m write }

/-- A byte range of local (0) or global virtual (2) space. -/
def rangeEnt (space : Nat) (wr : Bool) (b l : Nat) : REnt :=
  { space := space, write := wr, chunked := none, base := b, len := l, tmask := 0, twmask := 0 }

/-- A counted engine job is registered; its strand counts it and its executing lanes advance. -/
def startJob (s : State) (u : Cur) (f : Form) (m : Word) (cls : Cls) (k : JobK) (ents : List REnt) : State :=
  let id := s.nextId
  let s1 := modCore { s with nextId := id + 1 } u.core fun x =>
    let sid := ((aget x.strands u.slot).map (·.sid)).getD 0
    { x with jobs := x.jobs ++ [{ id := id, slot := u.slot, sid := sid, pc := u.pc, ents := ents, k := k, sent := false, raced := false, wait := none,
                                   at_ := (0, 0), refused := [] }] }
  doneStrand (modStrand (fire s1 .rangeRegister u.core id) u.core u.slot fun st => issueOut st cls id) u f m

/-- Some entry names the tile. -/
def tileNamed (x : Core) (t : Nat) : Bool := x.jobs.any fun j => j.ents.any fun e => e.space = 1 && e.tmask.getLsbD t

/-- A job waits at issue for its counter or for entries of the table. -/
def jobStalls (x : Core) (st : Strand) (cls : Cls) (n : Nat) : Bool := atLimit st cls || !lockRoom x n

def tileDst (f : Form) : Nat := f.dst.toNat % 16

/-! ### TCFG (R337) -/

/-- TCFG (R337). -/
def execTcfg (f : Form) (s : State) : Result :=
  runStrand (.tcfg f) f s fun s x st u m =>
    let v : WVal := if f.hasLit then { v := f.lit, p := false } else opA f st (lowLane m) 1
    if v.p then failAll s u m .poisonUse 0
    else if tcBad v.lo then failAll s u m .illegal 0
    else if tileNamed x (tileDst f) then clean (stallIssue s u)
    else clean (doneStrand (modCore s u.core fun x => { x with tc := sset 0 x.tc (tileDst f) v.lo }) u f m)

/-! ### TLD and TST (R338) -/

/-- n bytes from a pointer as runs within one granule each. -/
def granuleSpans (s : State) (c ctx : Nat) (p : DWord) : Nat → Nat → List Span
  | 0, _ => []
  | _, 0 => []
  | fuel + 1, n =>
    let e := hitOf s c ctx (ptrVa p)
    let k := min n (32 - ptrVa p % 32)
    { ptr := p, pa := paOf e (ptrVa p), n := k, e := e } :: granuleSpans s c ctx (ptrAdd p k) fuel (n - k)

/-- Rows of a block: the offset of each row's first byte. -/
def rowOffs (rows : Nat) (stride : Int) : List Int := (List.range rows).map fun (i : Nat) => (i : Int) * stride

/-- The pages of global addresses present: else every executing lane waits for the walks, or parks (R246). -/
def presentPages (s : State) (u : Cur) (x : Core) (m : Word) (ptrs : List DWord) (wr : Bool) (k : Nat → Left) : Left :=
  strandPages s u x m ptrs wr false fun ctx =>
    match firstPark s u.core ctx ptrs with
    | some w => clean (parkLanes (walkJoin s w.1 wr false false) u.core u.slot m w.1 w.2 u.w0)
    | none => k ctx

/-- The first check of R100 that a run of TLD fails. -/
def tldFails (s : State) (x : Core) (q : Span) : Option (Cause × DWord × Word) :=
  if q.e.priv then some (.priv, q.ptr, 0)
  else (tagFails s x q.e q.ptr q.pa q.n false true).map fun t => (.tagLd, q.ptr, t.setWidth 32)

/-- The first check of R100 that a run of TST fails; `pois`: its bytes are poisoned. -/
def tstFails (s : State) (x : Core) (q : Span) (pois : Bool) : Option (Cause × DWord × Word) :=
  if q.e.priv then some (.priv, q.ptr, 0)
  else if pois && (q.e.nv || q.e.rem || q.e.cache == 2) then some (.poisonUse, 0, 0)
  else if q.e.ro then some (.roSt, q.ptr, 0)
  else (tagFails s x q.e q.ptr q.pa q.n false true).map fun t => (.tagSt, q.ptr, t.setWidth 32)

/-- A failure of a strand instruction, for every executing lane. -/
def failWith (s : State) (m : Word) (r : Cause × DWord × Word) : Left :=
  (s, (lanesOf m).map fun l => { lane := l, cause := r.1, addr := r.2.1, detail := r.2.2 })

/-- The range from the lowest to the highest byte of rows of n bytes. -/
def blockRange (rows : List Nat) (n : Nat) : Nat × Nat :=
  let lo := rows.foldl min (rows.headD 0)
  (lo, rows.foldl max 0 + n - lo)

/-- Bytes of a tile from byte o on, with their words' poison. -/
def tileBytes (m : SMap RVal) (t o n : Nat) : List Byte × Bool :=
  ((List.range n).map fun i => BitVec.ofNat 8 (tileElem m t 8 (o + i)).1, (List.range n).any fun i => (tileElem m t 8 (o + i)).2)

/-- Each run of the rows with the tile byte that its first byte stands for. -/
def spanOffs (rows : List (List Span)) (len : Nat) : List (Span × Nat) :=
  (rows.zipIdx.map fun r =>
    (r.1.foldl (fun (a : List (Span × Nat) × Nat) q => (a.1 ++ [(q, a.2)], a.2 + q.n)) ([], r.2 * len)).1).flatten

/-- Chunks of a window that rows of n bytes meet and that are not present, in the order of the rows. -/
def rowChunks (r : Region) (rows : List Nat) (n : Nat) : List Nat :=
  (rows.map fun a => missing r a n).flatten.foldl (fun l k => if l.contains k then l else l ++ [k]) []

/-- The touches of a TLD or TST of local rows: of an ABSENT window its first chunk, which starts the fill; of a FILLING one every
missing chunk, so that the first of them is fetched first (R147, R148). -/
def touchRows (s : State) (c slot : Nat) (x : Core) (rows : List Nat) (n : Nat) : State :=
  x.regions.foldl (fun s p =>
    let ks := rowChunks p.2 rows n
    if p.2.st = .absent then (match ks with | k :: _ => touchChunk s c p.1 k slot | [] => s)
    else ks.foldr (fun k s => touchChunk s c p.1 k slot) s) s

/-- ABSENT windows that the rows meet. -/
def rowsAbsent (x : Core) (rows : List Nat) (n : Nat) : Nat := (x.regions.filter fun p => p.2.st == .absent && !(rowChunks p.2 rows n).isEmpty).length

/-- TLD and TST at issue (R338). -/
def runTileMem (i : Instr) (f : Form) (s : State) (store : Bool) (tile : Nat) : Result :=
  runStrand i f s fun s x st u m =>
    let tc := tcOf x tile
    let len := tcCols tc * tcW tc / 8
    let loc := f.md.getLsbD 0
    let l := lowLane m
    let b := opB f st l 1
    let stride := b.lo.toInt
    let g := gAddr f st l
    let a := lAddr f st l
    let addr : DWord := if loc then nat64 a.1 else g.1
    if tcW tc = 0 ∨ tcCols tc * tcW tc % 8 ≠ 0 then failAll s u m .illegal 0
    else if (if loc then a.2 else g.2) then failAll s u m .poisonUse addr
    else if b.p then failAll s u m .poisonUse 0
    else if addr.toNat % 4 ≠ 0 ∨ b.v.toNat % 4 ≠ 0 then failAll s u m .addrForm addr
    else if loc then
      let rows := (rowOffs (tcRows tc) stride).map fun o => (BitVec.ofInt 32 ((a.1 : Int) + o)).toNat
      match rows.find? fun r => decide (min (scrOf s x) codeBase < r + len) with
      | some r => failAll s u m .addrForm (nat64 r)
      | none =>
        let rg := blockRange rows len
        if jobStalls x st .tl (2 + rowsAbsent x rows len) then clean (stallIssue s u)
        else
          let rl := rows.map fun r => (r, len)
          clean <| startJob (touchRows s u.core u.slot x rows len) u f m .tl (if store then .tstL tile tc rl else .tldL tile tc rl)
            [rangeEnt 0 store rg.1 rg.2, tileEnt (if store then [tile] else []) (if store then [] else [tile])]
    else if !ptrForm addr then failAll s u m .addrForm addr
    else
      let ptrs := (rowOffs (tcRows tc) stride).map fun o => ptrAdd addr o
      presentPages s u x m ((ptrs.map fun p => [p, ptrAdd p (len - 1)]).flatten) store fun ctx =>
        let rows := ptrs.map fun p => granuleSpans s u.core ctx p len len
        let late := store && (rows.any fun r => r.any fun q => q.e.nv || q.e.rem || q.e.cache == 2) &&
          x.jobs.any fun j => j.ents.any fun e => e.space = 1 && e.twmask.getLsbD tile
        let fails := (spanOffs rows len).findSome? fun q =>
          if store then tstFails s x q.1 (tileBytes x.tiles tile q.2 q.1.n).2 else tldFails s x q.1
        let rg := blockRange (ptrs.map ptrVa) len
        match fails with
        | some r => if late && r.1 == .poisonUse then clean (stallIssue s u) else failWith s m r
        | none =>
          if late || jobStalls x st .tl 2 then clean (stallIssue s u)
          else
            clean <| startJob s u f m .tl (if store then .tstG tile tc rows else .tldG tile tc rows)
              [rangeEnt 2 store rg.1 rg.2, tileEnt (if store then [tile] else []) (if store then [] else [tile])]

/-- TLD (R338). -/
def execTld (f : Form) (s : State) : Result := runTileMem (.tld f) f s false (tileDst f)

/-- TST (R338). -/
def execTst (f : Form) (s : State) : Result := runTileMem (.tst f) f s true (f.sc.toNat % 16)

/-! ### TZERO and TMOV (R339, R340) -/

/-- TZERO (R339). -/
def execTzero (f : Form) (s : State) : Result :=
  runStrand (.tzero f) f s fun s x st u m =>
    if tcW (tcOf x (tileDst f)) = 0 then failAll s u m .illegal 0
    else if jobStalls x st .tl 1 then clean (stallIssue s u)
    else clean <| startJob s u f m .tl (.tzero (tileDst f)) [tileEnt [] [tileDst f]]

/-- The destination of TMOV into registers (R49, R340). -/
def tmovDest (st : Strand) (f : Form) : Dest :=
  if f.dk then .k f.dst.toNat 1 (st.handler.map (·.fid)) else .v (curFid st) f.dst.toNat 1

/-- TMOV (R340). -/
def execTmov (f : Form) (s : State) : Result :=
  runStrand (.tmov f) f s fun s x st u m =>
    let toTile := f.md.getLsbD 0
    let tile := if toTile then tileDst f else f.sa.toNat % 16
    let tc := tcOf x tile
    let e := f.aux.toNat % 65536
    if tcW tc = 0 then failAll s u m .illegal 0
    else if jobStalls x st .tl 1 then clean (stallIssue s u)
    else if toTile then
      clean <| startJob s u f m .tl (.tmovT tile tc e ((lanesOf m).map fun l => (l, rd32 st f.sa.toNat f.kca l))) [tileEnt [] [tile]]
    else clean <| startJob s u f m .tl (.tmovR tile tc e (tmovDest st f) m) [tileEnt [tile] []]

/-! ### Matrix jobs (R341 to R344) -/

/-- The quarters that take part: those with an executing lane. -/
def quartersOf (m : Word) : List Nat := (List.range 4).filter fun q => m.extractLsb' (8 * q) 8 != 0

/-- The rows of the quarters taking part. -/
def bandRows (qs : List Nat) (rows : Nat) : List (Nat × Nat) :=
  (qs.map fun q => ((List.range rows).filter fun i => decide (q * rows / 4 ≤ i) && decide (i < (q + 1) * rows / 4)).map fun i => (q, i)).flatten

/-- A shape that R342 rejects, D being no source and the element widths wd, wa, wb. -/
def shapeBad (d a b : Nat) (td ta tb : Word) (wd wa wb : Nat) : Bool :=
  decide (d = a) || decide (d = b) || tcW td != wd || tcW ta != wa || tcW tb != wb || tcRows ta != tcRows td ||
    tcCols ta != tcRows tb || tcCols tb != tcCols td

/-- The formats of A, B and D that MOD names (R342). -/
def mmaFmtA (md : BitVec 11) : Fmt :=
  let n := (md &&& 7).toNat
  if n = 0 then fmtBf16 else if n = 1 then fmtF16 else if n = 2 ∨ n = 3 then fmtE4m3 else fmtE5m2
def mmaFmtB (md : BitVec 11) : Fmt :=
  let n := (md &&& 7).toNat
  if n = 0 then fmtBf16 else if n = 1 then fmtF16 else if n = 2 ∨ n = 4 then fmtE4m3 else fmtE5m2
def mmaFmtD (md : BitVec 11) : Fmt :=
  let n := (md.extractLsb' 3 2).toNat
  if n = 0 then fmtF32 else if n = 1 then fmtF16 else fmtBf16

/-- The entry of a matrix job. -/
def mmaEnt (d a b : Nat) : REnt := tileEnt [a, b] [d]

/-- MMA (R342). -/
def execMma (f : Form) (s : State) : Result :=
  runStrand (.mma f) f s fun s x st u m =>
    let d := tileDst f
    let a := f.sa.toNat % 16
    let b := f.sb.toNat % 16
    let td := tcOf x d
    let ta := tcOf x a
    let tb := tcOf x b
    if shapeBad d a b td ta tb (mmaFmtD f.md).bits (mmaFmtA f.md).bits (mmaFmtB f.md).bits then failAll s u m .illegal 0
    else if jobStalls x st .tl 1 then clean (stallIssue s u)
    else clean <| startJob s u f m .tl (.mma d a b td ta tb f.md (quartersOf m)) [mmaEnt d a b]

/-- The lanes' values of n registers from r on, register by register. -/
def scaleRegs (st : Strand) (r n : Nat) : List RVal :=
  ((List.range n).map fun g => (List.range 32).map fun l => readV st (r + g) l).flatten

/-- Groups of sixteen of the K of an MMAS: the registers that each scale operand takes. -/
def scaleGroups (f : Form) (x : Core) : Nat := (tcCols (tcOf x (f.aux.toNat % 16)) + 15) / 16

/-- A scale register lies past the frame (R46, R343). -/
def scalesOut (f : Form) (x : Core) (st : Strand) : Bool :=
  tcW (tcOf x (f.aux.toNat % 16)) != 0 &&
    (decide (8 * curGran st < f.sa.toNat + scaleGroups f x) || decide (8 * curGran st < f.sb.toNat + scaleGroups f x))

/-- MMAS (R343): a scale register past the frame is ILLEGAL for every lane at the issue address, whatever its guard (R46, R242). -/
def execMmas (f : Form) (s : State) : Result :=
  match issuer s with
  | none => .fault .noIssuer
  | some (x, st, u) =>
  if scalesOut f x st then .next (illegalAll s u) else
  runStrand (.mmas f) f s fun s x st u m =>
    let d := tileDst f
    let a := f.aux.toNat % 16
    let b := f.aux.toNat / 16 % 16
    let td := tcOf x d
    let ta := tcOf x a
    let tb := tcOf x b
    let g := scaleGroups f x
    if shapeBad d a b td ta tb (mmaFmtD f.md).bits (mmaFmtA f.md).bits (mmaFmtB f.md).bits then failAll s u m .illegal 0
    else if jobStalls x st .tl 1 then clean (stallIssue s u)
    else
      clean <| startJob s u f m .tl
        (.mmas d a b td ta tb f.md (quartersOf m) (f.aux.toNat / 256 % 4) (f.aux.toNat / 1024 % 4)
          (scaleRegs st f.sa.toNat g) (scaleRegs st f.sb.toNat g)) [mmaEnt d a b]

/-- MTRN (R344). -/
def execMtrn (f : Form) (s : State) : Result :=
  runStrand (.mtrn f) f s fun s x st u m =>
    let d := tileDst f
    let a := f.sa.toNat % 16
    let b := f.sb.toNat % 16
    let td := tcOf x d
    let ta := tcOf x a
    let tb := tcOf x b
    if shapeBad d a b td ta tb 32 2 8 then failAll s u m .illegal 0
    else if jobStalls x st .tl 1 then clean (stallIssue s u)
    else clean <| startJob s u f m .tl (.mtrn d a b td ta tb f.md (quartersOf m)) [mmaEnt d a b]

/-! ### What the jobs compute -/

/-- A scale byte's value (R221). -/
def scaleVal (b : Nat) : FVal :=
  let x := readInt b 8 true
  let c : Nat := if x % 4 = 0 then 0x800000 else if x % 4 = 1 then 0x9837F0 else if x % 4 = 2 then 0xB504F3 else 0xD744FD
  .num false c (x / 4 - 23)

/-- The exact sum of the products of a group, with NV (R219). -/
def groupSum (l : List (FVal × FVal)) : FVal × Flags :=
  match l with
  | [] => (.num false 0 0, 0)
  | (a, b) :: t => t.foldl (fun acc p => let q := fmul p.1 p.2; let r := fadd 0 acc.1 q.1; (r.1, acc.2 ||| q.2 ||| r.2)) (fmul a b)

/-- K cut into groups of sixteen: their numbers with the indices of each. -/
def groupsOf (k : Nat) : List (Nat × List Nat) :=
  (List.range ((k + 15) / 16)).map fun g => (g, (List.range (min 16 (k - 16 * g))).map fun j => 16 * g + j)

/-- One element of D under R219 and R220: `terms g` the products' operands of a group, `scale g` its factor. -/
def dotElem (fd : Fmt) (d0 : Nat) (groups : List (Nat × List Nat)) (term : Nat → FVal × FVal) (scale : Nat → Option FVal) : Nat × Flags :=
  let acc := groups.foldl (fun (acc : FVal × Flags) g =>
    let s := groupSum (g.2.map term)
    let sc : FVal × Flags := match scale g.1 with | some v => fmul s.1 v | none => (s.1, 0)
    let t := finish fmtF32 0 (sc.1, s.2)
    let r := finish fmtF32 0 (fadd 0 acc.1 (fmtF32.read t.1))
    (fmtF32.read r.1, acc.2 ||| t.2 ||| r.2)) (fd.read d0, 0)
  let e := finish fd 0 acc
  (e.1, e.2)

/-- Element (i, j) of D under MMA or MMAS, with its poison and flags: tiles, formats, K, C, and the scales. -/
def mmaElem (m : SMap RVal) (d a b : Nat) (fd fa fb : Fmt) (k c : Nat) (sa sb : Nat → Option (Nat × Bool)) (i j : Nat) : Nat × Bool × Flags :=
  let el (t : Nat) (f : Fmt) (n : Nat) : Nat × Bool := tileElem m t f.bits n
  let d0 := el d fd (i * c + j)
  let term (x : Nat) : FVal × FVal := (fa.read (el a fa (i * k + x)).1, fb.read (el b fb (x * c + j)).1)
  let pois := d0.2 || (List.range k).any (fun x => (el a fa (i * k + x)).2 || (el b fb (x * c + j)).2) ||
    (List.range ((k + 15) / 16)).any (fun g => ((sa g).map (·.2)).getD false || ((sb g).map (·.2)).getD false)
  let scale (g : Nat) : Option FVal := match sa g, sb g with
    | some p, some q => some (fmul (scaleVal p.1) (scaleVal q.1)).1
    | _, _ => none
  let r := dotElem fd d0.1 (groupsOf k) term scale
  (r.1, pois, r.2)

/-- A byte of a scale register (R222). -/
def scaleByte (regs : List RVal) (g l sel : Nat) : Option (Nat × Bool) :=
  let r := regs.getD (32 * g + l) RVal.zero
  some (r.v.toNat / 256 ^ sel % 256, r.p)

/-- Element (i, j) of D under MTRN (R223): groups in order, each sum added and wrapped or clamped. -/
def mtrnElem (m : SMap RVal) (d a b : Nat) (md : BitVec 11) (k c i j : Nat) : Nat × Bool × Flags :=
  let d0 := tileElem m d 32 (i * c + j)
  let w (x : Nat) : Nat × Bool := tileElem m a 2 (i * k + x)
  let v (x : Nat) : Nat × Bool := tileElem m b 8 (x * c + j)
  let term (x : Nat) : Int :=
    let n := readInt (v x).1 8 (!md.getLsbD 0)
    if (w x).1 = 1 then n else if (w x).1 = 3 then -n else 0
  let pois := d0.2 || (List.range k).any fun x => (w x).2 || (v x).2
  let code := flagIf ((List.range k).any fun x => (w x).1 = 2) fTCODE
  let r := (groupsOf k).foldl (fun (acc : Nat × Flags) g =>
    let n := deliverInt (readInt acc.1 32 true + (g.2.map term).sum) 32 true (md.getLsbD 6)
    (n.1.toNat, acc.2 ||| n.2)) (d0.1, code)
  (r.1, pois, r.2)

/-- Rows of D computed: the elements to write, and each quarter's flags. -/
def bandElems (qs : List Nat) (td : Word) (g : Nat → Nat → Nat × Bool × Flags) : List (Nat × Nat × Bool) × List (Nat × Flags) :=
  let c := tcCols td
  let rows := (bandRows qs (tcRows td)).map fun r => (r.1, (List.range c).map fun j => (r.2 * c + j, g r.2 j))
  ((rows.map fun r => r.2.map fun e => (e.1, e.2.1, e.2.2.1)).flatten,
   qs.map fun q => (q, rows.foldl (fun f r => if r.1 = q then r.2.foldl (fun f e => f ||| e.2.2.2) f else f) 0))

/-- Register words or flags of a finished job are on their way to their lanes, where each lands by itself (R60, R61); the job
is retired when all have. -/
def landLater (s : State) (c : Nat) (j : Job) (dest : Dest) (lanes : List OLane) : State :=
  if lanes.isEmpty ∨ (strandAt s c j.slot j.sid).isNone then s
  else
    let o : Op := { id := j.id, slot := j.slot, sid := j.sid, pc := j.pc, w0 := 0, k := .value, dest := dest, seq := 0, dur := false, wait := none,
                    at_ := (0, 0), refused := [], lanes := lanes }
    modCore s c fun x => { x with ops := insOp o x.ops }

/-- Flags for every lane of each quarter (R69). -/
def quarterFlags (l : List (Nat × Flags)) : List OLane :=
  (l.map fun p => if p.2 = 0 then [] else (List.range 8).map fun i => vlane (8 * p.1 + i) [{ v := p.2.setWidth 32, p := false }]).flatten

/-- A matrix job's results: D, and the flags for the strand that issued it. -/
def landMatrix (s : State) (c : Nat) (j : Job) (d w : Nat) (r : List (Nat × Nat × Bool) × List (Nat × Flags)) : State :=
  landLater (modCore s c fun x => { x with tiles := putElems x.tiles d w r.1 }) c j .flags (quarterFlags r.2)

/-- TLD: the bytes of a run with the poison of its granule, as elements of eight bits. -/
def loadRun (c : Nat) (a : State × List (Nat × Nat × Bool)) (q : Span × Nat) : State × List (Nat × Nat × Bool) :=
  let r := farRead a.1 c q.1.e q.1.pa q.1.n true
  (r.1, a.2 ++ r.2.1.zipIdx.map fun b => (q.2 + b.2, b.1.toNat, r.2.2))

/-- The word that TMOV gives a lane: its element from e on (R340). -/
def tmovWord (x : Core) (tile : Nat) (tc : Word) (e l : Nat) : RVal :=
  if e + l < tcRows tc * tcCols tc then (let r := tileElem x.tiles tile (tcW tc) (e + l); { v := BitVec.ofNat 32 r.1, p := r.2 }) else RVal.zero

/-- Who the writes of a job are sent for. -/
def jobSender (j : Job) (ptr : DWord) : Sender := { ptr := ptr, lane := 0, slot := j.slot, pc := j.pc, op := some (j.id, 0) }

/-- What a tile job does when the engine performs it. -/
def performTile (s : State) (c : Nat) (x : Core) (j : Job) : State :=
  let tiles (m : SMap RVal) : State := modCore s c fun x => { x with tiles := m }
  match j.k with
  | .tldG t tc rows =>
    let r := (spanOffs rows (tcCols tc * tcW tc / 8)).foldl (loadRun c) (s, [])
    modCore r.1 c fun x => { x with tiles := putElems x.tiles t 8 r.2 }
  | .tldL t tc rows =>
    let len := tcCols tc * tcW tc / 8
    tiles (putElems x.tiles t 8 (rows.zipIdx.map fun r => (List.range r.1.2).map fun i =>
      let b := locRead x (r.1.1 + i) 1
      (r.2 * len + i, (b.1.headD 0).toNat, b.2)).flatten)
  | .tstG t tc rows =>
    (spanOffs rows (tcCols tc * tcW tc / 8)).foldl (fun s q =>
      let b := tileBytes x.tiles t q.2 q.1.n
      engineWrite s c q.1.e q.1.pa (jobSender j q.1.ptr) b.1 b.2) s
  | .tstL t tc rows =>
    let len := tcCols tc * tcW tc / 8
    modCore s c fun x => rows.zipIdx.foldl (fun y r => (List.range (r.1.2 / 4)).foldl (fun y i =>
      let b := tileBytes x.tiles t (r.2 * len + 4 * i) 4
      locWrite y (r.1.1 + 4 * i) b.1 [b.2])
      (let n := r.1.2 / 4 * 4
       let b := tileBytes x.tiles t (r.2 * len + n) (r.1.2 - n)
       locWrite y (r.1.1 + n) b.1 [b.2])) x
  | .tzero t => tiles (x.tiles.filter fun p => p.1 / 4096 != t)
  | .mma d a b td ta _ md qs =>
    landMatrix s c j d (tcW td) (bandElems qs td (mmaElem x.tiles d a b (mmaFmtD md) (mmaFmtA md) (mmaFmtB md) (tcCols ta) (tcCols td)
      (fun _ => none) (fun _ => none)))
  | .mmas d a b td ta _ md qs selA selB sa sb =>
    landMatrix s c j d (tcW td) (bandElems qs td fun i n => mmaElem x.tiles d a b (mmaFmtD md) (mmaFmtA md) (mmaFmtB md) (tcCols ta) (tcCols td)
      (fun g => scaleByte sa g (i / 2) selA) (fun g => scaleByte sb g (n / 8) selB) i n)
  | .mtrn d a b td ta _ md qs => landMatrix s c j d 32 (bandElems qs td (mtrnElem x.tiles d a b md (tcCols ta) (tcCols td)))
  | .tmovR t tc e dest m => landLater s c j dest ((lanesOf m).map fun l => vlane l [tmovWord x t tc e l])
  | .tmovT t tc e vals =>
    let l := vals.filterMap fun p => if e + p.1 < tcRows tc * tcCols tc then some (e + p.1, p.2.v.toNat % 2 ^ tcW tc, p.2.p) else none
    tiles (putElems x.tiles t (tcW tc) l)
  | _ => s

/-- A job leaves the table: RANGE_RELEASE, its strand's counter unless words of it have still to land, granules of freed frames
(R63, R168). -/
def endJob (s : State) (c : Nat) (j : Job) : State :=
  let s1 := modCore s c fun x => settlePend { x with jobs := x.jobs.filter fun k => k.id ≠ j.id }
  let s2 := fire s1 .rangeRelease c j.id
  match strandAt s2 c j.slot j.sid with
  | some _ => if ((getCore s2 c).map fun x => x.ops.any fun o => o.id = j.id).getD false then s2 else retireOut s2 c j.slot j.id
  | none => s2

/-- A job of the tile engine. -/
def isTileJob (k : JobK) : Bool :=
  match k with
  | .relabel _ _ _ _ _ _ _ _ _ => false
  | .fill _ => false
  | .copyout _ _ => false
  | .trial _ => false
  | _ => true

end Sys2Proof.Machine
end

