-- ==== Sys2Proof/Machine/Search.lean ====
section
/-! DEFINITION. Majors 0x3D and 0x3E: the equivalence engine's instructions (R345 to R352), candidate trials (R353 to R355,
R171, R244), signature sets (R356, R357), the keyed generator and the fold (R224, R225, R358, R359). -/

namespace Sys2Proof.Machine

/-! ### Words at pointers -/

/-- Each lane's addresses are known: else the strand waits for the walks; `k` gets the lanes that park. -/
def withLanePages (s : State) (u : Cur) (x : Core) (wr atomic : Bool) (l : List (Nat × List DWord))
    (k : Nat → List (Nat × Nat × DWord) → State) : State :=
  let ctx := ((gangOf s x).map (·.ctx)).getD 0
  let vas := (l.map fun p => p.2.map fun va => (p.1, va)).flatten
  if unready s u.core ctx vas then
    let r := startWalks s u.core ctx wr atomic vas []
    holdWalk r.1 u.core u.slot u.w0 r.2
  else
    let parked := l.filterMap fun p => (firstPark s u.core ctx p.2).map fun w => (p.1, w)
    parkJoin (k ctx parked) parked wr atomic

/-- The first of R313 steps 5, 6 and 9 that n bytes at a home fail; `wr`: as an atomic, which R345 and R356 take through
steps 5, 7 and 9 only; else as a load. -/
def homeFails (s : State) (x : Core) (c ctx : Nat) (ptr : DWord) (n : Nat) (wr : Bool) : Option (Cause × DWord × Word) :=
  let e := hitOf s c ctx (ptrVa ptr)
  let pa := paOf e (ptrVa ptr)
  if e.priv then some (.priv, ptr, 0)
  else if !wr && locked x 2 (ptrVa ptr) n false then some (.rangeLock, ptr, 0)
  else if wr && e.ro then some (.roSt, ptr, 0)
  else (tagFails s x e ptr pa n true false).map fun t => (if wr then .tagSt else .tagLd, ptr, t.setWidth 32)

/-- A lane's fault. -/
def laneFault (l : Nat) (r : Cause × DWord × Word) : LFault := { lane := l, cause := r.1, addr := r.2.1, detail := r.2.2 }

/-! ### Grist instructions (R345, R347 to R351) -/

/-- Uniform registers from kN on, and whether one of them is poisoned. -/
def uniforms (st : Strand) (n c : Nat) : List Word × Bool :=
  ((List.range c).map fun i => (readK st (n + i)).v, (List.range c).any fun i => (readK st (n + i)).p)

/-- The descriptor that AUX[5:0] names. -/
def forestOf (f : Form) (st : Strand) : List Word × Bool := uniforms st (f.aux.toNat % 64) 4

/-- What the descriptor raises for every executing lane: poison first, then its breaches. -/
def forestFault (f : Form) (st : Strand) (log : Bool) : Option Cause :=
  let kf := forestOf f st
  if kf.2 then some .poisonUse else if forestBad kf.1 log then some .illegal else none

def parentPtr (kf : List Word) (i : Nat) : DWord := fPtr kf (fParent kf + 4 * i)

/-- A lane of UNITE, FIND or DSIZE before translation: an access whose `b` and `c` hold the elements. -/
def preElem (f : Form) (st : Strand) (kf : List Word) (two : Bool) (l : Nat) : Pre :=
  let a := opA f st l 1
  let b := if two then opB f st l 1 else a
  if a.p || b.p then badLane l .poisonUse (parentPtr kf (if a.p then a.v.toNat else b.v.toNat))
  else if fCount kf ≤ a.v.toNat then badLane l .addrForm (parentPtr kf a.v.toNat)
  else if fCount kf ≤ b.v.toNat then badLane l .addrForm (parentPtr kf b.v.toNat)
  else .acc { lane := l, ptr := parentPtr kf a.v.toNat, n := 4, data := [], b := a, c := b }

/-- Lane instructions of the engine: `ptrs` the words named first, `k` the operation. -/
def runForest (i : Instr) (f : Form) (s : State) (log wr : Bool) (k : List Word → OpK) (dest : Strand → Dest)
    (pre : Strand → List Word → Nat → Pre) (ptrs : List Word → Acc → List DWord) : Result :=
  onIssue i f s fun x st u =>
    let kf := (forestOf f st).1
    let g : Nat → Pre := match forestFault f st log with
      | some c => fun l => badLane l c 0
      | none => pre st kf
    let ps := presOf f st u g
    let wr := wr || !fLogged kf
    if anyGoes ps && atLimit st .ld then stallIssue s u
    else withLanePages s u x wr wr ((accsOf ps).map fun a => (a.lane, ptrs kf a)) fun ctx parked =>
      let accs := (accsOf ps).filter fun a => !(parked.any fun p => p.1 = a.lane)
      let fails (a : Acc) : Option LFault :=
        ((ptrs kf a).findSome? fun p => homeFails s x u.core ctx p a.n wr).map (laneFault a.lane)
      let lanes := (accs.filter fun a => (fails a).isNone).map fun a =>
        let e := hitOf s u.core ctx (ptrVa a.ptr)
        olane a e (paOf e (ptrVa a.ptr))
      let s1 := if lanes.isEmpty then s
        else askAll (issueOp s u st .ld (k kf) (dest st) (atomDur f) lanes) u ctx s.nextId lanes noData
      endIssue s1 u f (idleLanes ps ||| laneMask (lanes.map (·.lane))) parked (badsOf ps ++ accs.filterMap fails)

/-- UNITE (R347). -/
def execUnite (f : Form) (s : State) : Result :=
  runForest (.unite f) f s false true .unite (fun st => destP st f) (fun st kf => preElem f st kf true)
    fun kf a => [parentPtr kf a.b.v.toNat, parentPtr kf a.c.v.toNat]

/-- FIND (R348). -/
def execFind (f : Form) (s : State) : Result :=
  runForest (.find f) f s false false .find (fun st => destV st f 1) (fun st kf => preElem f st kf false)
    fun kf a => [parentPtr kf a.b.v.toNat]

/-- DSIZE (R349). -/
def execDsize (f : Form) (s : State) : Result :=
  runForest (.dsize f) f s false false .dsize (fun st => destV st f 1) (fun st kf => preElem f st kf false)
    fun kf a => [parentPtr kf a.b.v.toNat]

/-- DSNAP (R350). -/
def execDsnap (f : Form) (s : State) : Result :=
  runForest (.dsnap f) f s true false .dsnap (fun st => destV st f 2)
    (fun _ kf l => .acc { lane := l, ptr := fPtr kf (fLog kf), n := 8, data := [], b := wz, c := wz })
    fun _ a => [a.ptr]

/-- A strand operation of the engine, with its operands (class LD). -/
def issueForest (s : State) (u : Cur) (st : Strand) (f : Form) (m : Word) (k : OpK) (b c : WVal) : State :=
  let l : OLane := { vlane (lowLane m) [] with done := false, b := b, c := c }
  doneStrand (issueOp s u st .ld k .none (atomDur f) [l]) u f m

/-- DUNDO (R350). -/
def execDundo (f : Form) (s : State) : Result :=
  runStrand (.dundo f) f s fun s x st u m =>
    match forestFault f st true with
    | some c => failAll s u m c 0
    | none =>
      let kf := (forestOf f st).1
      let v := opA f st (lowLane m) 2
      let p := fPtr kf (fLog kf)
      if v.p then failAll s u m .poisonUse 0
      else if atLimit st .ld then clean (stallIssue s u)
      else strandPage s u x m p true true fun ctx _ =>
        match homeFails s x u.core ctx p 8 true with
        | some r => failWith s m r
        | none => clean (issueForest s u st f m (.dundo kf) v wz)

/-- DINIT (R351). -/
def execDinit (f : Form) (s : State) : Result :=
  runStrand (.dinit f) f s fun s _ st u m =>
    match forestFault f st false with
    | some c => failAll s u m c 0
    | none =>
      let kf := (forestOf f st).1
      let a := opA f st (lowLane m) 1
      let b := opB f st (lowLane m) 1
      if a.p || b.p then failAll s u m .poisonUse 0
      else if fCount kf < a.v.toNat + b.v.toNat then failAll s u m .addrForm (parentPtr kf a.v.toNat)
      else if atLimit st .ld then clean (stallIssue s u)
      else clean (issueForest s u st f m (.dinit kf) a b)

/-! ### RELABEL (R352) -/

/-- The pointers that RELABEL uses: value array, output, class indices; the last two are written. -/
def relabelPtrs (f : Form) (st : Strand) (l : Nat) : List (WVal × Nat × Bool) :=
  (if f.relabelOp = 3 then [] else [(opA f st l 2, 4, false)]) ++ [(opB f st l 2, 64, true)] ++
    (if f.aux.getLsbD 8 then [(opC f st l 2, 4, true)] else [])

/-- RELABEL (R352). -/
def execRelabel (f : Form) (s : State) : Result :=
  runStrand (.relabel f) f s fun s x st u m =>
    match forestFault f st false with
    | some c => failAll s u m c 0
    | none =>
      let kf := (forestOf f st).1
      let ps := relabelPtrs f st (lowLane m)
      match ps.find? fun p => p.1.p with
      | some p => failAll s u m .poisonUse p.1.v
      | none =>
        match ps.find? fun p => !ptrForm p.1.v || decide (p.1.v.toNat % p.2.1 ≠ 0) with
        | some p => failAll s u m .addrForm p.1.v
        | none =>
          presentPages s u x m (ps.map fun p => p.1.v) true fun ctx =>
            let fails (p : WVal × Nat × Bool) : Option (Cause × DWord × Word) :=
              let e := hitOf s u.core ctx (ptrVa p.1.v)
              let q : Span := { ptr := p.1.v, pa := paOf e (ptrVa p.1.v), n := 4, e := e }
              if p.2.2 then homeFails s x u.core ctx p.1.v 4 true else tldFails s x q
            match ps.findSome? fails with
            | some r => failWith s m r
            | none =>
              let n := fCount kf
              let ents := ps.map fun p => rangeEnt 2 p.2.2 (ptrVa p.1.v) (4 * n + (if p.2.1 = 64 then 64 else 0))
              if jobStalls x st .cp ents.length then clean (stallIssue s u)
              else
                let l := lowLane m
                clean <| startJob s u f m .cp
                  (.relabel kf f.relabelOp.toNat (f.ty = 0) (opA f st l 2).v (opB f st l 2).v
                    (if f.aux.getLsbD 8 then some (opC f st l 2).v else none) 0 false none) ents

/-- What a running RELABEL has found: damaged walks, the first failure, refused or not. -/
structure RAcc where
  pois : Bool
  fault : Option (Cause × DWord × Word × Bool)
  deriving DecidableEq, Repr

/-- The page of a word that the job reaches at a pointer, checked as a load or as an atomic; a word whose page no TLB holds waits
for a walk (R102). -/
def jobPage (g : GEnv) (s : State) (ptr : DWord) (wr : Bool) : GR (Pte × Nat) :=
  match xlate s g.c g.cx.num (ptrVa ptr) with
  | .park _ => .wait ptr s
  | .wait _ => .wait ptr s
  | .miss => .wait ptr s
  | .hit e =>
    let pa := paOf e (ptrVa ptr)
    let t := homeTag s e (pa / 32)
    if e.priv then .bad .priv ptr 0 s
    else if wr && e.ro then .bad .roSt ptr 0 s
    else if e.tag && !tagOk (ptrTag ptr) t then .bad (if wr then .tagSt else .tagLd) ptr (t.setWidth 32) s
    else .ok (e, pa) s

/-- A word's page where it is used. -/
def jobPageOpt (g : GEnv) (s : State) (ptr : Option DWord) (wr : Bool) : GR (Option (Pte × Nat)) :=
  match ptr with
  | none => .ok none s
  | some p => (jobPage g s p wr).bind fun r s => .ok (some r) s

/-- The slot's new value (R352). -/
def relabelOp (op : Nat) (sgn : Bool) (m v : Nat) : Nat :=
  let less := decide (readInt m 32 sgn < readInt v 32 sgn)
  if op = 1 then (if less then m else v) else if op = 2 then (if less then v else m) else (m + v) % 2 ^ 32

/-- Element i contributes at root r: every word is checked, then the slot is updated and the class index written. -/
def relabelAt (g : GEnv) (op : Nat) (sgn : Bool) (val out : DWord) (cls : Option DWord) (i r : Nat) (s : State) : GR Unit :=
  let vp : Option DWord := if op = 3 then none else some (ptrAdd val (4 * i))
  let sp := ptrAdd out (64 + 4 * r)
  (jobPageOpt g s vp false).bind fun v s =>
  (jobPage g s sp true).bind fun o s =>
  (jobPageOpt g s (cls.map fun p => ptrAdd p (4 * i)) true).bind fun k s =>
    let rv : State × Nat × Bool := match v with
      | some (e, pa) => (let d := farRead s g.c e pa 4 true; (d.1, bytesNat d.2.1, d.2.2))
      | none => (s, 1, false)
    let s1 := writeAhead rv.1 g.c o.1 (lineKey o.1 o.2)
    let m := bytesNat (homeBytes s1 o.1 o.2 4)
    let mp := homePois s1 o.1 o.2 4 || lateRead s1 o.1
    let s2 := engineWrite (noteLate s1 o.1) g.c o.1 o.2 { g.by_ with ptr := sp } (natBytes (relabelOp op sgn m rv.2.1) 4) (mp || rv.2.2)
    match k, cls with
    | some (e, pa), some p => .ok () (engineWrite s2 g.c e pa { g.by_ with ptr := ptrAdd p (4 * i) } (natBytes r 4) false)
    | _, _ => .ok () s2

/-- A damaged walk's class index: all ones, poisoned. -/
def relabelDamaged (g : GEnv) (cls : Option DWord) (i : Nat) (s : State) : GR Unit :=
  match cls with
  | none => .ok () s
  | some p => (jobPage g s (ptrAdd p (4 * i)) true).bind fun k s =>
      .ok () (engineWrite s g.c k.1 k.2 { g.by_ with ptr := ptrAdd p (4 * i) } (natBytes 0xFFFFFFFF 4) true)

/-- A failure of a job, the first of which counts. -/
def RAcc.fail (a : RAcc) (k : Cause) (p : DWord) (d : Word) (rej : Bool) : RAcc := { a with fault := some (a.fault.getD (k, p, d, rej)) }

/-- What the elements of a job come to: those before element i are done, which waits for the page of a pointer; or the whole. -/
inductive RRes where
  | wait (i : Nat) (ptr : DWord) (a : RAcc) (s : State)
  | done (a : RAcc) (s : State)
  deriving DecidableEq, Repr

/-- The elements from i on, n of them. `refused`: elements and pages whose walk the host has refused, which counts as a failure. -/
def relabelAll (g : GEnv) (op : Nat) (sgn : Bool) (val out : DWord) (cls : Option DWord) (refused : List (Nat × Nat)) :
    Nat → Nat → RAcc → State → RRes
  | 0, _, a, s => .done a s
  | n + 1, i, a, s =>
    let one : GR Unit × Bool := match walkReading g s i with
      | .ok r s1 => (relabelAt g op sgn val out cls i r s1, a.pois)
      | .damaged s1 => (relabelDamaged g cls i s1, true)
      | .bad k p d s1 => (.bad k p d s1, a.pois)
      | .wait p s1 => (.wait p s1, a.pois)
    let a1 : RAcc := { a with pois := one.2 }
    let next (a : RAcc) (s : State) : RRes := relabelAll g op sgn val out cls refused n (i + 1) a s
    match one.1 with
    | .ok _ s1 => next a1 s1
    | .damaged s1 => next a1 s1
    | .bad k p d s1 => next (a1.fail k p d false) s1
    | .wait p s1 => if refused.contains (i, ptrVa p / 65536) then next (a1.fail .pageAbsent p 0 true) s1 else .wait i p a s

/-- STATUS (R352). -/
def relabelStatus (a : RAcc) (raced : Bool) : Nat :=
  1 + (if raced then 2 else 0) + (if a.pois then 4 else 0) + (match a.fault with | some f => 8 + 256 * f.1.code | none => 0)

/-- A job of a core changed. -/
def modJob (s : State) (c id : Nat) (f : Job → Job) : State :=
  modCore s c fun x => { x with jobs := x.jobs.map fun k => if k.id = id then f k else k }

/-- A job waits for the page of a pointer: a walk is started for it (R102). -/
def jobWaits (s : State) (c id i : Nat) (ptr : DWord) (wr atomic : Bool) : State :=
  let r := startWalk s (dieOf c) (ctxNum s c) (ptrVa ptr) wr false atomic
  modJob r.2 c id fun k => { k with wait := some r.1, at_ := (i, ptrVa ptr / 65536) }

/-- A job has made its writes: it ends when those of a remote device are acknowledged (R168). -/
def jobSent (s : State) (c : Nat) (j : Job) : State :=
  if remoteDue s j.id then modJob s c j.id fun k => { k with sent := true } else endJob s c j

/-- The last of a RELABEL job: the record of its first failure, STATUS, and its end. STATUS waits for the page of its header. R352 speaks of
elements only; where the header's own page fails a check or its walk is refused, the model writes no STATUS, which could only go there,
keeps the job's record, or that of the header when no element failed, and retires the job (log 74). -/
def finishRelabel (g : GEnv) (s : State) (c : Nat) (j : Job) (n : Nat) (out : DWord) (a : RAcc) (keep : RAcc → State → State) : State :=
  let report (a : RAcc) (s : State) : State := match a.fault with
    | some f => recordOnly s c j.slot j.pc { lane := 0, cause := f.1, addr := f.2.1, detail := f.2.2.1 } (if f.2.2.2 then flagReject else 0)
    | none => s
  match jobPage g s out true with
  | .ok r s1 => jobSent (engineWrite (report a s1) c r.1 r.2 { g.by_ with ptr := out } (natBytes (relabelStatus a j.raced) 4) false) c j
  | .damaged s1 => jobSent s1 c j
  | .bad k p d s1 => jobSent (report (a.fail k p d false) s1) c j
  | .wait p s1 =>
    if j.refused.contains (n, ptrVa p / 65536) then jobSent (report (a.fail .pageAbsent p 0 true) s1) c j
    else jobWaits (keep a s1) c j.id n p true false

/-- A RELABEL job goes on from its next element to the end, or to an element that waits for a page (R352). -/
def performRelabel (s : State) (c : Nat) (x : Core) (j : Job) : State :=
  match j.k, ctxOf s x with
  | .relabel kf op sgn val out cls next pois fault, some cx =>
    let g : GEnv := { c := c, cx := cx, kf := kf, atomic := false, by_ := jobSender j out }
    let n := fCount kf
    let keep (i : Nat) (a : RAcc) (s : State) : State :=
      modJob s c j.id fun k => { k with k := .relabel kf op sgn val out cls i a.pois a.fault }
    match relabelAll g op sgn val out cls j.refused (n - next) next { pois := pois, fault := fault } s with
    | .wait i p a s1 =>
      let slots := overlap (ptrVa p) 4 (ptrVa out + 64) (4 * n)
      let index := cls.any fun q => overlap (ptrVa p) 4 (ptrVa q) (4 * n)
      jobWaits (keep i a s1) c j.id i p (slots || index) slots
    | .done a s1 => finishRelabel g s1 c j n out a (keep n)
  | _, _ => s

/-! ### The fold and the generator (R224, R225) -/

/-- One fold step (R224). -/
def foldSig (s : DWord) (v : Word) (o : Nat) : DWord := s.rotateLeft 17 ^^^ v.setWidth 64 ^^^ (BitVec.ofNat 64 (o % 16) <<< 60)

/-- Rotations of the rounds of R225. -/
def rngRots : List Nat := [13, 15, 26, 6, 17, 29, 16, 24]

/-- The round function, r the round's number. -/
def rngRounds (key : DWord) : List Nat → Nat → Word → Word → Word
  | [], _, a, _ => a
  | t :: l, r, a, b =>
    let kr := (if r % 2 = 0 then key.extractLsb' 0 32 else key.extractLsb' 32 32) + BitVec.ofNat 32 ((r + 1) * 0x9E3779B9)
    let a1 := a + b + kr
    rngRounds key l (r + 1) a1 (b.rotateLeft t ^^^ a1)

/-- rng32 (R225). -/
def rng32 (key ctr : DWord) : Word := rngRounds key rngRots 0 (ctr.extractLsb' 0 32) (ctr.extractLsb' 32 32)

/-- The pair that RNG writes. -/
def rngPair (key c : WVal) : List RVal :=
  let p := key.p || c.p
  [{ v := rng32 key.v c.v, p := p }, { v := rng32 key.v (c.v + 1), p := p }]

/-- RNG (R358): the draws are those of the operands at issue; they land later. -/
def execRng (f : Form) (s : State) : Result :=
  onIssue (.rng f) f s fun _ st u =>
    let ps := presOf f st u fun l => .val (rngPair (opB f st l 2) (opA f st l 2))
    if anyGoes ps && atLimit st .ld then stallIssue s u
    else
      let lanes := ps.filterMap fun p => match p.2 with | .val vs => some (vlane p.1 vs) | _ => none
      let s1 := if lanes.isEmpty then s else issueOp s u st .ld .value (destV st f 2) false lanes
      endIssue s1 u f (idleLanes ps ||| laneMask (lanes.map (·.lane))) [] (badsOf ps)

/-- FOLD (R359). -/
def execFold (f : Form) (s : State) : Result :=
  runLanes (.fold f) f s false fun _ st _ l =>
    let d := rd64 st f.dst.toNat false l
    let v := opA f st l 1
    let o := opB f st l 1
    .ok (outWords 2 (foldSig d.v v.lo o.v.toNat) (d.p || v.p || o.p) 0)

/-! ### Signature sets (R153 to R155, R356, R357) -/

/-- A set's descriptor: base, n, and what it raises for every executing lane. -/
structure SetDesc where
  base : DWord
  n : Nat
  bad : Option (Cause × DWord)
  deriving DecidableEq, Repr

/-- Bytes of a set. -/
def setBytes (n : Nat) : Nat := 64 + 8 * 2 ^ n

/-- The descriptor of the device form (`dev`) or of the workgroup form. -/
def setDesc (s : State) (x : Core) (f : Form) (st : Strand) (dev : Bool) : SetDesc :=
  let k := f.aux.toNat % 64
  if dev then
    let d := uniforms st k 3
    let w (i : Nat) : Word := d.1.getD i 0
    let base : DWord := w 1 ++ w 0
    let n := ((w 2).extractLsb' 0 5).toNat
    { base := base, n := n,
      bad := if d.2 then some (.poisonUse, 0)
        else if (w 2).extractLsb' 5 27 != 0 || n < 6 || 30 < n || base.toNat % 64 != 0 then some (.illegal, 0)
        else if !ptrForm base then some (.addrForm, base) else none }
  else
    let d := uniforms st k 1
    let w : Word := d.1.getD 0 0
    let base := (w.extractLsb' 0 20).toNat
    let n := (w.extractLsb' 20 5).toNat
    { base := nat64 base, n := n,
      bad := if d.2 then some (.poisonUse, 0)
        else if w.extractLsb' 25 7 != 0 || n < 6 || 16 < n || base % 64 != 0 then some (.illegal, 0)
        else if scrOf s x < base + setBytes n then some (.addrForm, nat64 base) else none }

def setDev (f : Form) : Bool := f.scope = 3

/-- A lane of SIGINS before the set is reached: an access whose `b` holds the signature. -/
def preSig (f : Form) (st : Strand) (d : SetDesc) (l : Nat) : Pre :=
  match d.bad with
  | some r => badLane l r.1 r.2
  | none =>
    let sg := opA f st l 2
    if sg.p then badLane l .poisonUse 0
    else .acc { lane := l, ptr := d.base, n := 64, data := [], b := sg, c := wz }

/-- Under `.drop` the strand waits until every answer has landed (R356). -/
def sigDrop (s : State) (u : Cur) (f : Form) (id : Nat) : State :=
  if f.md.getLsbD 0 then holdStrand s u (.drop id) 0 0 else s

/-- One lane's insertion in scratchpad, at issue. -/
def insertLocal (c : Nat) (d : SetDesc) (s : State) (a : Acc) : Go OLane :=
  match getCore s c with
  | none => .bad s (fault1 a .illegal 0 0)
  | some x =>
    match (sigOffs a.b.v d.n).find? fun o => localLock x (d.base.toNat + o.1) o.2 true == .lock with
    | some o => .bad s (fault1 a .rangeLock (d.base + nat64 o.1) 0)
    | none =>
      let r := sigInsert (sigLocal c d.base.toNat) d.n s a.b.v
      .ok r.1 (vlane a.lane [one r.2.new.toNat r.2.pois, one r.2.full.toNat false])

/-- SIGINS (R356). -/
def execSigins (f : Form) (s : State) : Result :=
  onIssue (.sigins f) f s fun x st u =>
    let d := setDesc s x f st (setDev f)
    let ps := presOf f st u (preSig f st d)
    let k : OpK := .sigins d.base d.n
    if anyGoes ps && atLimit st .ld then stallIssue s u
    else if setDev f then
      let ptrs (a : Acc) : List (DWord × Nat) := (sigOffs a.b.v d.n).map fun o => (ptrAdd d.base o.1, o.2)
      withLanePages s u x true true ((accsOf ps).map fun a => (a.lane, (ptrs a).map fun p => p.1)) fun ctx parked =>
        let accs := (accsOf ps).filter fun a => !(parked.any fun p => p.1 = a.lane)
        let fails (a : Acc) : Option LFault :=
          ((ptrs a).findSome? fun p => homeFails s x u.core ctx p.1 p.2 true).map (laneFault a.lane)
        let lanes := (accs.filter fun a => (fails a).isNone).map fun a =>
          let e := hitOf s u.core ctx (ptrVa a.ptr)
          olane a e (paOf e (ptrVa a.ptr))
        let s1 := if lanes.isEmpty then s
          else sigDrop (askAll (issueOp s u st .ld k (destP st f) false lanes) u ctx s.nextId lanes noData) u f s.nextId
        endIssue s1 u f (idleLanes ps ||| laneMask (lanes.map (·.lane))) parked (badsOf ps ++ accs.filterMap fails)
    else
      let words := ((accsOf ps).map fun a => (sigOffs a.b.v d.n).map fun o => { a with ptr := d.base + nat64 o.1, n := o.2 }).flatten
      withChunks s u x true words
        (let r := goAll s (insertLocal u.core d) (accsOf ps)
         let id := r.1.nextId
         let s1 := if r.2.1.isEmpty then r.1 else sigDrop (issueOp r.1 u st .ld k (destP st f) false r.2.1) u f id
         endIssue s1 u f (idleLanes ps ||| laneMask (r.2.1.map (·.lane))) [] (badsOf ps ++ r.2.2))

/-- The pieces that SIGCLR writes: COUNT and FLAGS, then each bucket's line. -/
def clrPieces (base : DWord) (n : Nat) : List (DWord × Nat) :=
  (base, 8) :: (List.range (2 ^ (n - 3))).map fun (b : Nat) => (ptrAdd base (64 + 64 * b), 64)

/-- SIGCLR (R357): its writes are performed before the strand's next issue. -/
def execSigclr (f : Form) (s : State) : Result :=
  runStrand (.sigclr f) f s fun s x st u m =>
    let dev := setDev f
    let d := setDesc s x f st dev
    match d.bad with
    | some r => failAll s u m r.1 r.2
    | none =>
      if dev then
        let ps := clrPieces d.base d.n
        presentPages s u x m (ps.map fun p => p.1) true fun ctx =>
          match ps.findSome? fun p => homeFails s x u.core ctx p.1 p.2 true with
          | some r => failWith s m r
          | none =>
            let s1 := performBefore s u.core s.nextId [] true
            if blockedBefore s1 u.core s1.nextId [] true then clean (stallIssue s u)
            else
              let r := ps.foldl (fun (a : State × List Nat) p =>
                let e := hitOf a.1 u.core ctx (ptrVa p.1)
                let t := bypassWrite a.1 u.core e (paOf e (ptrVa p.1)) { ptr := p.1, lane := lowLane m, slot := u.slot, pc := u.pc, op := none } (List.replicate p.2 0) false
                (t, if e.rem then a.2 ++ [t.nextId - 1] else a.2)) (s1, [])
              clean (awaitRemote (doneStrand r.1 u f m) u r.2)
      else
        let a : Acc := { lane := lowLane m, ptr := d.base, n := setBytes d.n, data := [], b := wz, c := wz }
        if localLock x d.base.toNat a.n true == .lock then failAll s u m .rangeLock d.base
        else clean <| withChunks s u x true [a]
          (doneStrand (modCore s u.core fun x =>
            locWrite (locWrite x d.base.toNat (List.replicate 8 0) []) (d.base.toNat + 64) (List.replicate (8 * 2 ^ d.n) 0) []) u f m)

/-! ### Trials (R353, R354) -/

/-- The code-bank range of a port (R112). -/
def bankBase (port : Nat) : Nat := codeBase + 0x8000 * port

/-- Some write of the core into a port's range is outstanding: of a copy, or of a job. -/
def bankBusy (x : Core) (port : Nat) : Bool :=
  x.cpas.any (fun q => q.lanes.any fun l => !l.done && overlap l.dst 32 (bankBase port) 0x8000) ||
    x.jobs.any fun j => j.ents.any fun e => e.space = 0 && e.write && overlap e.base e.len (bankBase port) 0x8000

/-- The state of a trial that TRIAL starts from its descriptor. -/
def trialOf (f : Form) (st : Strand) (port : Nat) (m : Word) (kt : List Word) (clock : Nat) : Trial :=
  let w (i : Nat) : Word := kt.getD i 0
  let seed : DWord := w 3 ++ w 2
  { port := port, dst := f.dst.toNat, dk := f.dk, nex := ((w 0).extractLsb' 16 16).toNat, fuel := ((w 0).extractLsb' 0 16).toNat,
    slot := ((w 1).extractLsb' 26 2).toNat, words := ((w 1).extractLsb' 20 6).toNat + 1, etab := ((w 1).extractLsb' 0 20).toNat,
    seed := seed, bad := [], p := (lanesOf m).map fun l => (l, (lane st l).p, (lane st l).pp),
    lanes := (lanesOf m).map fun l => { lane := l, next := 0, sig := seed, fuel := 0 }, since := clock }

/-- TRIAL (R354): its checks, the waits of R112 and R152, and the start. -/
def execTrial (f : Form) (s : State) : Result :=
  runStrand (.trial f) f s fun s x st u m =>
    let kt := uniforms st (f.aux.toNat % 64) 4
    let port := u.slot % 4
    let t := trialOf f st port m kt.1 s.clock.toNat
    let len := 4 * t.words * t.nex
    let a : Acc := { lane := lowLane m, ptr := nat64 t.etab, n := len, data := [], b := wz, c := wz }
    if st.handler.isSome ∨ curGran st < 4 then failAll s u m .illegal 0
    else if kt.2 then failAll s u m .poisonUse 0
    else if t.nex = 0 ∨ t.fuel = 0 ∨ t.words < 4 ∨ (kt.1.getD 1 0).extractLsb' 28 4 ≠ 0 then failAll s u m .illegal 0
    else if t.etab % 4 ≠ 0 ∨ scrOf s x < t.etab + len then failAll s u m .addrForm (nat64 t.etab)
    else if localLock x t.etab len false == .lock then failAll s u m .rangeLock (nat64 t.etab)
    else clean <| withChunks s u x false [a]
      (if bankBusy x port || !lockRoom x 1 then stallIssue s u
       else
         let id := s.nextId
         let j : Job := { id := id, slot := u.slot, sid := st.sid, pc := u.pc, k := .trial port, sent := false, raced := false, wait := none,
                          at_ := (0, 0), refused := [],
                          ents := [rangeEnt 0 false (bankBase port) 0x8000] }
         fire (modStrand (modCore { s with nextId := id + 1 } u.core fun x => { x with jobs := x.jobs ++ [j] }) u.core u.slot
           fun st => { st with st := .inTrial, trial := some t }) .rangeRegister u.core id)

/-- TRET outside a trial (R243, R355): ILLEGAL for every lane at the address, whatever its guard, which is the model's choice (log 50). -/
def execTret (f : Form) (s : State) : Result := onIssue (.tret f) f s fun _ _ u => illegalAll s u

/-- XLD outside a trial (R243, R355): as `execTret`, with the same choice (log 50). -/
def execXld (f : Form) (s : State) : Result := onIssue (.xld f) f s fun _ _ u => illegalAll s u

/-! ### What a candidate does (R171, R244, R355) -/

/-- The kinds of candidate words: registers read and written are checked by `regs`. -/
inductive Cand where
  | nop
  | bra (off : Int)
  | alu (d a b : Nat) (two : Bool) (g : Word → Word → Option Word)
  | icmp (p a b : Nat)
  | isel (d a b g : Nat)
  | xld (d a : Nat)
  | tret (a : Nat)

def candDiv (a b : Word) : Option Word := if b = 0 then none else some (a.sdiv b)
def candRem (a b : Word) : Option Word := if b = 0 then none else some (a.srem b)

/-- A word as one of the 30 trial-legal instructions (R244), but for its register numbers, guard and branch target. -/
def candOf (i : Instr) : Option (Form × Cand) :=
  let two (f : Form) (g : Word → Word → Word) : Option (Form × Cand) := some (f, .alu f.dst.toNat f.sa.toNat f.sb.toNat true fun a b => some (g a b))
  let uno (f : Form) (g : Word → Word) : Option (Form × Cand) := some (f, .alu f.dst.toNat f.sa.toNat 0 false fun a _ => some (g a))
  match i with
  | .nop f => some (f, .nop)
  | .bra f => some (f, .bra (f.dst.extractLsb' 0 6 ++ f.sa.extractLsb' 0 6 ++ f.sb.extractLsb' 0 6).toInt)
  | .iadd f => two f fun a b => a + b
  | .isub f => two f fun a b => a - b
  | .imin f => two f fun a b => if a.slt b then a else b
  | .imax f => two f fun a b => if a.slt b then b else a
  | .iabs f => uno f fun a => if a.slt 0 then -a else a
  | .ineg f => uno f fun a => -a
  | .imul f => two f fun a b => a * b
  | .imulh f => two f fun a b => BitVec.ofInt 32 (a.toInt * b.toInt / 2 ^ 32)
  | .idiv f => some (f, .alu f.dst.toNat f.sa.toNat f.sb.toNat true candDiv)
  | .irem f => some (f, .alu f.dst.toNat f.sa.toNat f.sb.toNat true candRem)
  | .and f => two f fun a b => a &&& b
  | .or f => two f fun a b => a ||| b
  | .xor f => two f fun a b => a ^^^ b
  | .andn f => two f fun a b => a &&& ~~~b
  | .not f => uno f fun a => ~~~a
  | .shl f => two f fun a b => a <<< (b.toNat % 32)
  | .shr f => two f fun a b => a >>> (b.toNat % 32)
  | .sar f => two f fun a b => a.sshiftRight (b.toNat % 32)
  | .rotl f => two f fun a b => a.rotateLeft (b.toNat % 32)
  | .rotr f => two f fun a b => a.rotateRight (b.toNat % 32)
  | .clz f => uno f fun a => BitVec.ofNat 32 (clz a.toNat 32)
  | .ctz f => uno f fun a => BitVec.ofNat 32 (ctz a.toNat 32)
  | .popc f => uno f fun a => BitVec.ofNat 32 (popc a.toNat 32)
  | .icmp f => some (f, .icmp f.dst.toNat f.sa.toNat f.sb.toNat)
  | .isel f => some (f, .isel f.dst.toNat f.sa.toNat f.sb.toNat f.gp.toNat)
  | .mov f => uno f id
  | .xld f => some (f, .xld f.dst.toNat f.sa.toNat)
  | .tret f => some (f, .tret f.sa.toNat)
  | _ => none

/-- The constraints of R244 on the fields read, at word index w. -/
def candRegs (w : Nat) (k : Cand) : Bool :=
  match k with
  | .nop => true
  | .bra o => decide (0 ≤ (w : Int) + o) && decide ((w : Int) + o < 64)
  | .alu d a b _ _ => decide (d < 16) && decide (a < 16) && decide (b < 16)
  | .icmp p a b => decide (p < 4) && decide (a < 16) && decide (b < 16)
  | .isel d a b _ => decide (d < 16) && decide (a < 16) && decide (b < 16)
  | .xld d a => decide (d < 16) && decide (a < 16)
  | .tret a => decide (a < 16)

/-- The guard and the meaning of a trial-legal word. -/
def candDecode (w : Nat) (w0 : Word) : Option (Nat × Cand) :=
  if lenOf w0 ≠ 0 then none
  else
    match decode { w0 := w0, w1 := 0, w2 := 0, l0 := 0, l1 := 0 } with
    | .error _ => none
    | .ok i =>
      match candOf i with
      | none => none
      | some (f, k) => if (f.gp.toNat < 4 ∨ f.gp = 7) ∧ candRegs w k then some (f.gp.toNat, k) else none

/-- A candidate's registers, predicates and fuel. -/
structure CSt where
  c : List RVal
  p : List Bool
  fuel : Nat
  deriving DecidableEq, Repr

def CSt.reg (t : CSt) (n : Nat) : RVal := t.c.getD n RVal.zero
def CSt.set (t : CSt) (n : Nat) (v : Word) (p : Bool) : CSt := { t with c := t.c.set n { v := v, p := p } }

/-- What a legal word whose guard holds does: the next word index, or the outcome with its value. -/
inductive CRes where
  | go (w : Nat) (t : CSt)
  | out (o : Nat) (v : Word) (t : CSt)
  deriving DecidableEq, Repr

/-- The word's registers read. -/
def candReads (k : Cand) : List Nat :=
  match k with
  | .nop => [] | .bra _ => [] | .alu _ a b two _ => if two then [a, b] else [a] | .icmp _ a b => [a, b] | .isel _ a b _ => [a, b]
  | .xld _ a => [a] | .tret a => [a]

/-- A legal word is executed (R355), `rec` the words of the example record, n of them. -/
def candExec (k : Cand) (w n : Nat) (rec_ : Nat → RVal) (t : CSt) : CRes :=
  let v (i : Nat) : Word := (t.reg i).v
  if (candReads k).any fun i => (t.reg i).p then .out 5 0 t
  else
    match k with
    | .nop => .go (w + 1) t
    | .bra o => .go ((w : Int) + o).toNat t
    | .alu d a b _ g => (match g (v a) (v b) with | some r => .go (w + 1) (t.set d r false) | none => .out 3 0 t)
    | .icmp p a b => .go (w + 1) { t with p := t.p.set p (v a == v b) }
    | .isel d a b g => .go (w + 1) (t.set d (if g = 7 || t.p.getD g true then v a else v b) false)
    | .xld d a => if n ≤ (v a).toNat then .out 4 0 t else (let r := rec_ (v a).toNat; .go (w + 1) (t.set d r.v r.p))
    | .tret a => .out 0 (v a) t

/-- ISEL reads its guard field as a selector and has no guard (R287). -/
def candGuarded (k : Cand) : Bool := match k with | .isel _ _ _ _ => false | _ => true

/-- Words of a slot run from index w until an outcome (R171, R355). `ff`: at fuel 0 the outcome is 1 whatever the word (R171); else a word
that is illegal or poisoned gives the outcome of R355's earlier row (log 63). `code` gives a word of the slot with its poison; the
recursion is on the fuel left. -/
def candRun (ff : Bool) (code : Nat → RVal) (n : Nat) (rec_ : Nat → RVal) : Nat → Nat → CSt → Nat × Word × CSt
  | fuel, w, t =>
    let early (o : Nat) : Nat × Word × CSt := if fuel == 0 && ff then (1, 0, t) else (o, 0, t)
    if 64 ≤ w then early 2
    else if (code w).p then early 5
    else
      match candDecode w (code w).v with
      | none => early 2
      | some (g, k) =>
        match fuel with
        | 0 => (1, 0, t)
        | fuel' + 1 =>
          let t1 := { t with fuel := fuel' }
          if candGuarded k && g != 7 && !t1.p.getD g true then candRun ff code n rec_ fuel' (w + 1) t1
          else
            match candExec k w n rec_ t1 with
            | .out o v t2 => (o, v, t2)
            | .go w2 t2 => candRun ff code n rec_ fuel' w2 t2

/-- One example of a lane's candidate: the outcome, its value and the registers it leaves. -/
def candExample (ff : Bool) (code : Nat → RVal) (n fuel : Nat) (rec_ : Nat → RVal) : Nat × Word × CSt :=
  candRun ff code n rec_ fuel 0
    { c := (List.range 16).map fun i => if i < 4 then rec_ i else RVal.zero, p := [false, false, false, false], fuel := fuel }

/-- What a word that mismatches twice after `k` others leaves, if it is reached. -/
def candReached (code : Nat → RVal) (n fuel : Nat) (rec_ : Nat → RVal) (k : Nat) : Option CSt :=
  let e := candExample false code n k rec_
  if k < fuel ∧ e.1 = 1 then some { e.2.2 with fuel := fuel - k - 1 } else none

/-- An example in which the word after `k` others, if it is reached, mismatches twice: outcome 5 (R367). -/
def candFaulty (code : Nat → RVal) (n fuel : Nat) (rec_ : Nat → RVal) (k : Option Nat) : Nat × Word × CSt :=
  match k.bind (candReached code n fuel rec_) with
  | some t => (5, 0, t)
  | none => candExample Config.fuelFirst code n fuel rec_

/-- A local word with its poison. -/
def localWord (x : Core) (a : Nat) : RVal := let r := locRead x a 4; { v := BitVec.ofNat 32 (bytesNat r.1), p := r.2 }

/-- The word of slot w that a lane in trial fetches, and word i of an example's record. -/
def trialCode (x : Core) (t : Trial) (l w : Nat) : RVal := localWord x (codeBase + 0x400 * (32 * t.port + l) + 0x100 * t.slot + 4 * w)
def trialRec (x : Core) (t : Trial) (ex i : Nat) : RVal := localWord x (t.etab + 4 * t.words * ex + 4 * i)

/-- The first word of a lane's example that mismatches twice, if one does. -/
def badWord (bad : List (Nat × Nat × Nat)) (l ex : Nat) : Option Nat :=
  ((bad.filter fun b => b.1 = l && b.2.1 = ex).map (·.2.2)).min?

/-- Lanes of the trial in which a word mismatches twice within the next k examples, each as often as it does (R367). -/
def badMet (x : Core) (t : Trial) (bad : List (Nat × Nat × Nat)) (k : Nat) : List Nat :=
  (t.lanes.map fun l => (((List.range k).map (l.next + ·)).filter fun e =>
    decide (e < t.nex) && ((badWord bad l.lane e).bind (candReached (trialCode x t l.lane) t.words t.fuel (trialRec x t e))).isSome).map
      fun _ => l.lane).flatten

/-- A lane's examples, k of them from `next` on: its new trial state, and its candidate registers and predicates. -/
def laneExamples (x : Core) (t : Trial) (bad : List (Nat × Nat × Nat)) : Nat → TLane → Option CSt → TLane × Option CSt
  | 0, l, r => (l, r)
  | k + 1, l, r =>
    if t.nex ≤ l.next then (l, r)
    else
      let e := candFaulty (trialCode x t l.lane) t.words t.fuel (trialRec x t l.next) (badWord bad l.lane l.next)
      laneExamples x t bad k
        { l with next := l.next + 1, sig := foldSig l.sig (if e.1 = 0 then e.2.1 else 0) e.1, fuel := BitVec.ofNat 16 e.2.2.fuel } (some e.2.2)

/-- The candidate registers of a lane are v16 to v31 of its frame (R53). -/
def putCand (st : Strand) (l : Nat) (r : Option CSt) : Strand :=
  match r with
  | none => st
  | some c => writeVs st 16 l c.c

/-- Up to k more examples of every lane of a trial. -/
def trialRun (x : Core) (st : Strand) (t : Trial) (bad : List (Nat × Nat × Nat)) (k : Nat) : Strand × Trial :=
  let rs := t.lanes.map fun l => laneExamples x t bad k l none
  (rs.foldl (fun st r => putCand st r.1.lane r.2) st, { t with lanes := rs.map (·.1) })

/-- The words of a signature. -/
def sigPair (g : DWord) : List RVal := [{ v := g.extractLsb' 0 32, p := false }, { v := g.extractLsb' 32 32, p := false }]

/-- Words of a trial that mismatch twice within its next k examples count so in their lanes' buckets (R179, R367). -/
def countTrial (s : State) (c sl : Nat) (x : Core) (t : Trial) (bad : List (Nat × Nat × Nat)) (k : Nat) : State :=
  (badMet x t bad k).foldl (fun s l => let u := laneUnit s c sl l; countErr (countErr s 2 u 0) 2 u 0) s

/-- The end of a trial (R354): predicates restored, signature pairs (or the uniform one, of the lowest lane: R49) and %fuel
written, the range released, the lanes past the instruction. A boundary ends it (R135). -/
def trialEnd (s : State) (c sl : Nat) (bad : List (Nat × Nat × Nat)) : State :=
  match getCore s c with
  | none => s
  | some x =>
    match aget x.strands sl with
    | none => s
    | some st =>
      match st.trial with
      | none => s
      | some t =>
        let all := t.bad ++ bad
        let r := trialRun x st t all t.nex
        let fin (st : Strand) (l : TLane) : Strand :=
          let st1 := if t.dk then st else writeVs st t.dst l.lane (sigPair l.sig)
          let sp := (aget t.p l.lane).getD (0, 0)
          modLane st1 l.lane fun la => { la with
            fuel := l.fuel, pcv := la.pcv + 12, p := (la.p &&& 0x70) ||| (sp.1 &&& 0xF), pp := (la.pp &&& 0x70) ||| (sp.2 &&& 0xF) }
        let st0 := match r.2.lanes with | l :: _ => if t.dk then writeKs r.1 t.dst (sigPair l.sig) else r.1 | [] => r.1
        let st1 := r.2.lanes.foldl fin st0
        let st2 := { st1 with st := .running, trial := none, bnd := !st1.due.isEmpty }
        let jobs := x.jobs.filter fun j => j.k == .trial t.port && j.sid = st.sid
        let x1 := { x with strands := aput x.strands sl st2, jobs := x.jobs.filter fun j => !(j.k == .trial t.port && j.sid = st.sid) }
        jobs.foldl (fun s j => fire s .rangeRelease c j.id) (setCore (countTrial s c sl x t all t.nex) c x1)

end Sys2Proof.Machine
end

