-- ==== Sys2Proof/Machine/System.lean ====
section
/-! DEFINITION. Majors 0x02 to 0x04: system registers (R64 to R70), launching work, waiting on words, code lines, barriers,
phase boundaries, waits on counters, and a handler's access to frames (R257 to R274). -/

namespace Sys2Proof.Machine

/-! ### System registers -/

/-- The register number of MFS and MTS: AUX in LEN 1, else four bits of the field n before SB. -/
def sysNum (f : Form) (n : BitVec 8) : Nat := if f.ext then f.aux.toNat else n.toNat % 16 * 64 + f.sb.toNat

/-- The numbers that R65 assigns. -/
def sysAssigned (n : Nat) : Bool :=
  decide (n ≤ 0xB) || (decide (0x10 ≤ n) && decide (n ≤ 0x17)) || (decide (0x20 ≤ n) && decide (n ≤ 0x22)) ||
    (decide (0x40 ≤ n) && decide (n ≤ 0x42)) || (decide (0x48 ≤ n) && decide (n ≤ 0x4F)) || (decide (0x80 ≤ n) && decide (n ≤ 0x8F))

/-- The handler registers. -/
def sysHandler (n : Nat) : Bool := decide (0x48 ≤ n) && decide (n ≤ 0x4F)

/-- %frame (R66): GRAN − 1 and DEPTH of the frame the names refer to. -/
def frameWord (st : Strand) : Word :=
  match st.handler with
  | some _ => BitVec.ofNat 32 (3 * 128)
  | none => BitVec.ofNat 32 ((topGran st - 1) * 128 + st.frames.length)

/-- %prio (R66): the issue of the reading instruction itself has returned EFF to BASE, or holds it at 255 in a handler
(R177, log 21). -/
def prioWord (st : Strand) : Word :=
  BitVec.ofNat 32 ((if st.handler.isSome then 255 else st.prio) * 256 + st.prio)

/-- The 64-bit value of %clock, %cap0, %cap1 or of a lane's %eaddr by its low number. -/
def sysWide (s : State) (la : Lane) (n : Nat) : DWord :=
  if n = 0x12 then s.clock else if n = 0x14 then s.cap0 else if n = 0x16 then s.cap1 else la.eaddr

/-- The low numbers of 64-bit registers that are read only (R64, R65). -/
def sysLow (n : Nat) : Bool := n = 0x12 || n = 0x14 || n = 0x16 || n = 0x4D

/-- A core as a strand of a port sees it whose write of %trapctl or %trapvec has not landed: the next instruction of the strand
sees the new value (R258). -/
def sysSeen (x : Core) (port : Nat) : Core := sysSettle { x with sysNext := x.sysNext.filter fun w => w.2.1 = port }

/-- The value of an assigned register for a lane (R65 to R69); `m` the executing lanes. -/
def sysRead (s : State) (x : Core) (st : Strand) (u : Cur) (m : Word) (l n : Nat) : Word :=
  let la := lane st l
  if n = 0 then BitVec.ofNat 32 l
  else if n = 1 then BitVec.ofNat 32 u.slot
  else if n = 2 then BitVec.ofNat 32 x.wg
  else if n = 3 then BitVec.ofNat 32 (((gangOf s x).map (·.index)).getD 0)
  else if n = 4 then BitVec.ofNat 32 u.core
  else if n = 5 then s.dev.setWidth 32
  else if n = 6 then BitVec.ofNat 32 (((gangOf s x).map (·.ctx)).getD 0)
  else if n = 7 then ((gangOf s x).map (·.ticket)).getD 0
  else if n = 8 then m
  else if n = 9 then liveMask st
  else if n = 0xA then prioWord st
  else if n = 0xB then frameWord st
  else if n = 0x10 then x.phase
  else if n = 0x11 then BitVec.ofNat 32 (((gangOf s x).map fun g => recLead g.raw).getD 0)
  else if n = 0x4E ∧ st.handler.isNone then 0
  else if 0 < n ∧ sysLow (n - 1) then
    (match st.latch with
     | some (k, ws) => if k = n then ws.getD l 0 else (sysWide s la (n - 1)).extractLsb' 32 32
     | none => (sysWide s la (n - 1)).extractLsb' 32 32)
  else if n = 0x12 ∨ n = 0x14 ∨ n = 0x16 then (sysWide s la n).extractLsb' 0 32
  else if n = 0x20 then la.fpflags.setWidth 32
  else if n = 0x21 then la.fuel.setWidth 32
  else if n = 0x22 then (if st.sigstat then 1 else 0)
  else if n = 0x40 then (sysSeen x (u.slot % 4)).trapctl
  else if n = 0x41 then (sysSeen x (u.slot % 4)).trapvec.extractLsb' 0 32
  else if n = 0x42 then ((sysSeen x (u.slot % 4)).trapvec.extractLsb' 32 16).setWidth 32
  else if 0x80 ≤ n then sget 0 x.tc (n - 0x80)
  else
    match st.handler with
    | none => 0
    | some h =>
      if n = 0x48 then h.emask
      else if n = 0x49 then h.ecause
      else if n = 0x4A then h.eword
      else if n = 0x4B then la.epc.extractLsb' 0 32
      else if n = 0x4C then (la.epc.extractLsb' 32 16).setWidth 32
      else if n = 0x4D then la.eaddr.extractLsb' 0 32
      else la.epred.setWidth 32

/-- Reading the low word of a wide read-only register latches its high word, of %eaddr each lane's, which reads 0
outside a handler (R65); any other MFS ends a latch (R64). -/
def sysLatch (s : State) (n : Nat) (st : Strand) : Strand :=
  let high (la : Lane) : Word := if n = 0x4D ∧ st.handler.isNone then 0 else (sysWide s la n).extractLsb' 32 32
  { st with latch := if sysLow n then some (n + 1, st.lanes.map high) else none }

/-- MFS (R257). -/
def execMfs (f : Form) (s : State) : Result :=
  onIssue (.mfs f) f s fun x st u =>
    let n := sysNum f f.sa
    let m := (splitGuard f st u.mask).1
    let acts := laneActs f st u false fun l =>
      if 0x200 ≤ n then .bad { lane := l, cause := .priv, addr := 0, detail := 0 }
      else if !sysAssigned n then .bad { lane := l, cause := .illegal, addr := 0, detail := 0 }
      else .ok (outWords 1 ((sysRead s x st u m l n).setWidth 64) false 0)
    finishLanes s u f (if m = 0 then st else sysLatch s n st) acts

/-- The word an MTS writes is refused: a reserved bit or a reserved code (R64, R67). -/
def sysBad (n : Nat) (v : Word) : Bool :=
  if n = 0x20 then v.extractLsb' 9 23 != 0
  else if n = 0x22 then v.extractLsb' 1 31 != 0
  else if n = 0x40 then v.extractLsb' 26 6 != 0 || (v &&& (v >>> 1)) &&& 0x1555555 != 0
  else if n = 0x41 ∨ n = 0x4B then v.extractLsb' 0 2 != 0
  else if n = 0x42 ∨ n = 0x4C then v.extractLsb' 16 16 != 0
  else v.extractLsb' 7 25 != 0

/-- Per-lane registers that MTS writes. -/
def sysLaneReg (n : Nat) : Bool := n = 0x20 || n = 0x4B || n = 0x4C || n = 0x4F

/-- A per-lane register written (R258); a write of %epred clears the kept poison (R51). -/
def sysWriteLane (n : Nat) (v : Word) (la : Lane) : Lane :=
  if n = 0x20 then { la with fpflags := v.extractLsb' 0 9 }
  else if n = 0x4F then { la with epred := v.extractLsb' 0 7, epoison := 0 }
  else { la with epc := setHalf la.epc (n = 0x4C) v }

/-- A register of the strand written, or one of the workgroup, which governs from the next cycle on (R70, R258). -/
def sysWriteOnce (s : State) (u : Cur) (n : Nat) (v : Word) : State :=
  if n = 0x22 then modStrand s u.core u.slot fun st => { st with sigstat := st.sigstat && !v.getLsbD 0 }
  else modCore s u.core fun x => { x with sysNext := x.sysNext ++ [(n, u.slot % 4, v)] }

/-- A register that MTS may write, the handler's only in a handler (R64, R65). -/
def sysWritable (st : Strand) (n : Nat) : Bool :=
  n = 0x20 || n = 0x22 || n = 0x40 || n = 0x41 || n = 0x42 || ((n = 0x4B || n = 0x4C || n = 0x4F) && st.handler.isSome)

/-- MTS (R258). -/
def execMts (f : Form) (s : State) : Result :=
  runStrand (.mts f) f s fun s _ st u m =>
    let n := sysNum f f.dst
    let v (l : Nat) : Word := (opA f st l 1).lo
    if 0x200 ≤ n then failAll s u m .priv 0
    else if !sysWritable st n then failAll s u m .illegal 0
    else if sysLaneReg n then
      let bad := (lanesOf m).filter fun l => sysBad n (v l)
      let good := (lanesOf m).filter fun l => !sysBad n (v l)
      (modStrand s u.core u.slot fun st => advLanes (good.foldl (fun st l => modLane st l (sysWriteLane n (v l))) st) (laneMask good) f.bytes,
        faultEach (laneMask bad) .illegal 0)
    else if sysBad n (v (lowLane m)) then failAll s u m .illegal 0
    else clean (doneStrand (sysWriteOnce s u n (v (lowLane m))) u f m)

/-! ### Launching work (R259, R260) -/

/-- n bytes from a pointer as runs within one line each (R186). -/
def linePieces : Nat → DWord → Nat → List (DWord × Nat)
  | 0, _, _ => []
  | k + 1, p, n =>
    let first := 64 - ptrVa p % 64
    if n ≤ first then [(p, n)] else (p, first) :: linePieces k (ptrAdd p first) (n - first)

/-- The pieces in which a launch record is read: an aligned one line by line, a misaligned one byte by byte (R259). -/
def recPieces (p : DWord) : List (DWord × Nat) :=
  if p.toNat % 8 = 0 then linePieces 4 p 128 else (List.range 128).map fun i => (ptrAdd p (i : Nat), 1)

/-- Bytes read as default loads of a core, piece by piece, under the checks of a load; a failure names its piece. -/
def readPieces (c ctx : Nat) (a : Acc) : State → List (DWord × Nat) → Go (List Byte × Bool)
  | s, [] => .ok s ([], false)
  | s, (p, n) :: t =>
    match xlate s c ctx (ptrVa p) with
    | .park _ => .bad s (fault1 a .pageAbsent p 0)
    | _ =>
    let e := hitOf s c ctx (ptrVa p)
    let pa := paOf e (ptrVa p)
    let s1 := settleLine s c e pa
    match getCore s1 c with
    | none => .ok s1 ([], false)
    | some x =>
      match loadChecks s1 x a p e pa n (e.cache != 2) with
      | some g => .bad s1 g
      | none =>
        let far := farRead s1 c e pa n (e.cache != 2)
        let r := if e.cache != 2 then (let r := heldLoad far.1 c e pa n; (r.1, r.2.1, far.2.2 || r.2.2)) else far
        match readPieces c ctx a r.1 t with
        | .bad s2 g => .bad s2 g
        | .ok s2 b => .ok s2 (r.2.1 ++ b.1, r.2.2 || b.2)

/-- The status LAUNCH gives, and the record queued with its priority under the context's ceiling (R9, R129). -/
def launchPut (s : State) (ctx q : Nat) (raw : List Byte) : State × Nat :=
  let l := (aget s.queues q).getD []
  if Config.queueDepth ≤ l.length then (s, 1)
  else
    let cap := ((aget s.ctxs ctx).map (·.priocap)).getD 0
    let r : QRec :=
      { rid := s.nextId, ctx := ctx, raw := raw, prio := min (recPrio raw) cap, next := 0, checked := false, waitWalk := none,
        tc := [], regions := [] }
    (fire { s with nextId := s.nextId + 1, queues := aput s.queues q (l ++ [r]) } .launchEnqueue q s.nextId, 0)

/-- LAUNCH (R259). -/
def execLaunch (f : Form) (s : State) : Result :=
  runStrand (.launch f) f s fun s x st u m =>
    let p := opA f st (lowLane m) 2
    let q := f.aux.toNat
    if p.p then failAll s u m .poisonUse p.v
    else if !ptrForm p.v then failAll s u m .addrForm p.v
    else if !(((ctxOf s x).map fun c => c.qmask.getLsbD q).getD false) then failAll s u m .priv 0
    else
      strandPages s u x m [p.v, ptrAdd p.v 127] false false fun ctx =>
        let a : Acc := { lane := lowLane m, ptr := p.v, n := 128, data := [], b := wz, c := wz }
        match readPieces u.core ctx a s (recPieces p.v) with
        | .bad s1 g => strandFail s1 u ctx m false false { g with addr := if p.v.toNat % 8 = 0 then p.v else g.addr } g.addr
        | .ok s1 b =>
          if b.2 then failAll s1 u m .poisonUse 0
          else
            let r := launchPut s1 ctx q b.1
            clean (doneStrand (modStrand r.1 u.core u.slot fun st => writeAll st f m [one r.2 false]) u f m)

/-! ### Waiting on a word (R261) -/

/-- Bytes of a WAITW word by TYPE. -/
def waitBytes (t : BitVec 4) : Nat := if t = 2 ∨ t = 3 then 8 else 4

/-- The condition of WAITW between the word and the value. -/
def waitHolds (cond : BitVec 3) (t : BitVec 4) (w v : DWord) : Bool :=
  let n := 8 * waitBytes t
  let sgn := t = 0 || t = 2
  let o := icmp (readInt w.toNat n sgn) (readInt v.toNat n sgn)
  if cond = 0 then o == .eq else if cond = 1 then o != .eq else if cond = 2 then o != .lt else if cond = 3 then o == .gt
  else if cond = 4 then o == .lt else if cond = 5 then o != .gt else w.toNat &&& v.toNat != 0

/-- The word under a lane's access, tested under the checks of a load: no line becomes held (R186, log 22). -/
def goWait (c ctx : Nat) (s : State) (a : Acc) : Go (Acc × DWord × Bool) :=
  match goLoad c ctx true (if a.n = 8 then 5 else 15) s a with
  | .bad s1 g => .bad s1 g
  | .ok s1 o =>
    if o.done then
      let w (i : Nat) : Word := (o.vals.getD i RVal.zero).v
      .ok s1 (a, w 1 ++ w 0, o.vals.any (·.p))
    else
      let s2 := settleLine s1 c o.e o.pa
      let r := farRead s2 c o.e o.pa a.n false
      .ok r.1 (a, BitVec.ofNat 64 (bytesNat r.2.1), r.2.2)

/-- WAITW (R261). -/
def execWaitw (f : Form) (s : State) : Result :=
  onIssue (.waitw f) f s fun x st u =>
    let n := waitBytes f.ty
    let ps := presOf f st u fun l =>
      let v := opB f st l (if n = 8 then 2 else 1)
      if !(gAddr f st l).2 && v.p then badLane l .poisonUse 0 else preGlobal f st l n [] v wz
    withPages s u x false false ps fun ctx accs parked =>
      let r := goAll s (goWait u.core ctx) accs
      let pois := r.2.1.filterMap fun w => if w.2.2 then some (fault1 w.1 .poisonUse 0 0) else none
      let sound := r.2.1.filter fun w => !w.2.2
      let met := sound.filter fun w => waitHolds f.m64 f.ty w.2.1 w.1.b.v
      let unmet := sound.filter fun w => !waitHolds f.m64 f.ty w.2.1 w.1.b.v
      let s1 := modStrand r.1 u.core u.slot fun st => unmet.foldl (fun st w =>
        modLane st w.1.lane fun la => { la with st := .parked (.waitw w.1.ptr w.1.b.v f.ty f.m64 u.w0) }) st
      endGlobal s1 u f false false (idleLanes ps ||| laneMask (met.map (·.1.lane))) parked (badsOf ps ++ r.2.2 ++ pois)

/-! ### Code lines (R262 to R264) -/

/-- Lines that an instruction of code lines acts on: the first, and how many. -/
def codeSpan (f : Form) (a : Nat) : Nat × Nat :=
  if f.ext then (if f.aux = 0 then (0, 0) else (a / 64, (a + f.aux.toNat - 1) / 64 - a / 64 + 1)) else (a / 64, 1)

/-- The page and physical address of a code line whose translation does not fail; without it the line is skipped. -/
def codeLine (s : State) (c : Nat) (line : Nat) : Option (Pte × Nat) :=
  let page := ((getCore s c).bind (ctxOf s)).bind fun cx =>
    match tlbCore s c cx.num (line * 64), pageNow s (dieOf c) cx (line * 64) with
    | some e, _ => some e
    | none, .present e _ => some e
    | none, .absent _ _ => none
  page.bind fun e => if e.priv || e.xn then none else some (e, paOf e (line * 64))

/-- The walk for a code line leaves its page in both TLBs (R102). -/
def codeTouch (s : State) (c line : Nat) : State :=
  match (getCore s c).bind (ctxOf s) with
  | none => s
  | some cx =>
    if (tlbCore s c cx.num (line * 64)).isSome then s
    else
      match pageNow s (dieOf c) cx (line * 64) with
      | .present e base => l1Fill (tlbTouch s (dieOf c) cx (line * 64)) c cx.num base e
      | .absent _ _ => s

/-- A code line enters the instruction cache. -/
def fetchLine (s : State) (c line : Nat) : State :=
  match codeLine s c line with
  | some (e, pa) => (icLine (codeTouch s c line) c e pa).1
  | none => codeTouch s c line

/-- Entries of the pin set (R263). -/
def pinMax : Nat := 256

/-- A code line enters the cache and the pin set, until the set is full. -/
def pinLine (s : State) (c line : Nat) : State :=
  match codeLine s c line with
  | some (e, pa) =>
    modCore (icLine (codeTouch s c line) c e pa).1 c fun x =>
      if x.pins.contains (lineKey e pa) || decide (pinMax ≤ x.pins.length) then x else { x with pins := x.pins ++ [lineKey e pa] }
  | none => s

/-- A code line leaves the pin set. -/
def unpinLine (s : State) (c line : Nat) : State :=
  match codeLine s c line with
  | some (e, pa) => modCore s c fun x => { x with pins := x.pins.filter (· ≠ lineKey e pa) }
  | none => s

/-- IPF, IPIN and IUNPIN: the address checks, then each line in turn. -/
def runCode (i : Instr) (f : Form) (s : State) (g : State → Nat → Nat → State) : Result :=
  runStrand i f s fun s _ st u m =>
    let a := opA f st (lowLane m) 2
    if a.p then failAll s u m .poisonUse a.v
    else if a.v.extractLsb' 48 16 ≠ 0 then failAll s u m .addrForm a.v
    else
      let r := codeSpan f a.v.toNat
      clean (doneStrand ((List.range r.2).foldl (fun s k => g s u.core (r.1 + k)) s) u f m)

/-- IPF (R262). -/
def execIpf (f : Form) (s : State) : Result := runCode (.ipf f) f s fetchLine

/-- IPIN (R262). -/
def execIpin (f : Form) (s : State) : Result := runCode (.ipin f) f s pinLine

/-- IUNPIN (R262). -/
def execIunpin (f : Form) (s : State) : Result := runCode (.iunpin f) f s unpinLine

/-- The pinned lines of a core enter its instruction cache anew (R263). -/
def repin (s : State) (c : Nat) : State :=
  (((getCore s c).map (·.pins)).getD []).foldl (fun s k => (icLine s c (keyPage k) (64 * (k % 2 ^ 44))).1) s

/-- FENCEI (R264): every line goes; the pinned ones are fetched again (R263). -/
def execFencei (f : Form) (s : State) : Result :=
  runStrand (.fencei f) f s fun s _ _ u m => clean (doneStrand (repin (modCore s u.core fun x => { x with ic := [] }) u.core) u f m)

/-! ### Barriers (R265 to R267) -/

/-- Executing lanes park on a barrier. -/
def parkOn (s : State) (u : Cur) (m : Word) (w : Wait) : State :=
  modStrand s u.core u.slot fun st => modLanes st m fun la => { la with st := .parked w }

/-- BAR (R265): the count of the last BAR executed is that of the strand's arrival. -/
def execBar (f : Form) (s : State) : Result :=
  runStrand (.bar f) f s fun s _ st u m =>
    if st.handler.isSome then failAll s u m .illegal 0
    else
      let s1 := modStrand s u.core u.slot fun st => { st with barN := aput st.barN f.sa.toNat f.sb.toNat }
      clean (settleBars (parkOn s1 u m (.bar f.sa.toNat)) u.core u.slot)

/-- GBAR (R266). -/
def execGbar (f : Form) (s : State) : Result :=
  runStrand (.gbar f) f s fun s _ st u m =>
    if st.handler.isSome then failAll s u m .illegal 0
    else clean (settleBars (parkOn s u m (.gbar f.sa.toNat)) u.core u.slot)

/-- GEN of the barrier that BTEST names. -/
def btestGen (f : Form) (x : Core) : BitVec 16 :=
  if f.sb.getLsbD 4 then (barOf x.gbars (f.sb.toNat % 4)).gen else (barOf x.bars (f.sb.toNat % 16)).gen

/-- BTEST (R267). -/
def execBtest (f : Form) (s : State) : Result :=
  runLanes (.btest f) f s false fun x st _ l =>
    let a := opA f st l 1
    let g := btestGen f x
    .ok (outPred (if f.md = 0 then g != a.v.extractLsb' 0 16 else g.getLsbD 0 != a.v.getLsbD 0) a.p 0)

/-! ### Phase boundaries and waits (R268 to R272) -/

/-- PHASE (R268). -/
def execPhase (f : Form) (s : State) : Result :=
  runStrand (.phase f) f s fun s _ st u m =>
    if st.handler.isSome then failAll s u m .illegal 0
    else
      clean (tryPhase (modStrand s u.core u.slot fun st =>
        { st with st := .atPhase, phMask := m, phLen := f.bytes, dur := f.md = 0x280 }) u.core)

/-- A wait on counters, over at once when its limits are met. -/
def waitFor (s : State) (u : Cur) (f : Form) (m : Word) (k : HoldK) : Left :=
  clean (settleHold (holdStrand s u k m f.bytes) u.core u.slot)

/-- Limit i of WAIT in AUX. -/
def auxLimit (f : Form) (i : Nat) : Nat := f.aux.toNat / 64 ^ i % 64

/-- WAIT (R270). -/
def execWait (f : Form) (s : State) : Result :=
  runStrand (.wait f) f s fun s _ _ u m =>
    waitFor s u f m (if f.ext then .wait (auxLimit f 0) (auxLimit f 1) (auxLimit f 2) (auxLimit f 3)
      else .wait f.dst.toNat f.sa.toNat f.sb.toNat 63)

/-- WAITT (R271). -/
def execWaitt (f : Form) (s : State) : Result :=
  runStrand (.waitt f) f s fun s _ _ u m => waitFor s u f m (.waitt f.sa.toNat (f.dst.toNat * 64 + f.sb.toNat))

/-- SDRAIN (R272). -/
def execSdrain (f : Form) (s : State) : Result :=
  runStrand (.sdrain f) f s fun s _ st u m => waitFor s u f m (.sdrain st.seq)

/-! ### Handler access to frames (R89, R273, R274) -/

/-- Depth and register number of FRD and FWR. -/
def frDepth (f : Form) : Nat := f.aux.toNat % 64
def frReg (f : Form) : Nat := f.aux.toNat / 256 % 256

/-- The frame of the interrupted chain that FRD and FWR may reach. -/
def frFrame (f : Form) (st : Strand) : Option Frame :=
  if st.handler.isSome then
    (match st.frames[frDepth f]? with
     | some g => if frReg f < 8 * g.gran then some g else none
     | none => none)
  else none

/-- The lane index of a lane, or the cause it breaks. -/
def frIndex (f : Form) (st : Strand) (l : Nat) : Except Cause Nat :=
  let i := opB f st l 1
  if i.p then .error .poisonUse else if 31 < i.v.toNat then .error .illegal else .ok i.v.toNat

/-- FRD (R273). -/
def execFrd (f : Form) (s : State) : Result :=
  runLanes (.frd f) f s false fun _ st u l =>
    match frFrame f st, frIndex f st l with
    | none, _ => .bad { lane := l, cause := .illegal, addr := 0, detail := 0 }
    | some _, .error k => .bad { lane := l, cause := k, addr := 0, detail := 0 }
    | some _, .ok i => .ok { vals := [rget (frameRegs s u.core st (frDepth f)) (frReg f) i], pred := none, flags := 0 }

/-- FWR (R273): of lanes that name one register, the highest stands; of a spilled frame, in its record too (R89). -/
def execFwr (f : Form) (s : State) : Result :=
  runStrand (.fwr f) f s fun s _ st u m =>
    match frFrame f st with
    | none => failAll s u m .illegal 0
    | some _ =>
      let bad := (lanesOf m).filterMap fun l => match frIndex f st l with
        | .error k => some ({ lane := l, cause := k, addr := 0, detail := 0 } : LFault)
        | .ok _ => none
      let put (g : Frame) (l : Nat) : Frame := match frIndex f st l with
        | .ok i => { g with regs := rset g.regs (frReg f) i (rd32 st f.sa.toNat f.kca l) }
        | .error _ => g
      let good := maskOf fun l => inMask m l && !(bad.any fun e => e.lane = l)
      let s1 := modStrand s u.core u.slot fun st =>
        advLanes { st with frames := lmod st.frames (frDepth f) fun g => (lanesOf m).foldl put g } good f.bytes
      let keys := (lanesOf good).filterMap fun l => match frIndex f st l with | .ok i => some (32 * frReg f + i) | .error _ => none
      (match getStrand s1 u.core u.slot with | some st1 => recordSync s1 u.core st1 (frDepth f) keys | none => s1, bad)

/-- The value of FINFO: FREEG, HFREE, RESG, SPLG. -/
def finfoWord (x : Core) (st : Strand) : Nat :=
  let sum (r : Bool) : Nat := ((st.frames.filter fun g => g.res == r).map (·.gran)).sum
  freeG x + hFree x * 2 ^ 9 + sum true * 2 ^ 12 + sum false * 2 ^ 21

/-- FINFO (R274). -/
def execFinfo (f : Form) (s : State) : Result :=
  runStrand (.finfo f) f s fun s x st u m =>
    clean (doneStrand (modStrand s u.core u.slot fun st1 => writeAll st1 f m [one (finfoWord x st) false]) u f m)

end Sys2Proof.Machine
end

