-- ==== Sys2Proof/Machine/Place.lean ====
section
/-! DEFINITION. Strands and cores as placement makes them (R18, R36, R45). -/

namespace Sys2Proof.Machine

/-- A strand as STRAND_CREATE makes it (R18): every lane READY at an address, one base frame. It has never issued: `last` 0 counts
as waiting since before clock 0 (R41 does not say; log 56). -/
def newStrand (sid fid : Nat) (gran : Nat) (phys : List Nat) (pc : BitVec 48) (prio : Nat) (arg : DWord) (spill : Nat) : Strand :=
  { sid := sid, st := .running, lanes := List.replicate 32 { Lane.idle with pcv := pc, st := .ready },
    k := sset RVal.zero (sset RVal.zero [] 0 { v := arg.extractLsb' 0 32, p := false }) 1 { v := arg.extractLsb' 32 32, p := false },
    frames := [{ fid := fid, gran := gran, phys := phys, res := true, regs := [], rcnt := 0, rbase := 0, raddr := 0 }],
    handler := none, prio := prio, eff := prio, age := 0, npc := 0, nopre := false, out := [], hold := none, sigstat := false,
    latch := none, block := none, trapPend := none, due := [], trial := none, spill := spill, seq := 0, last := 0, barN := [],
    arrived := none, dur := false, phMask := 0, phLen := 0, stopped := false, bnd := false }

/-- A core as GANG_PLACE makes it. -/
def newCore (gid wg : Nat) (strands : List (Nat × Strand)) (seg : Nat) (trapctl : Word) : Core :=
  { gid := gid, wg := wg, strands := strands, resv := 0, pend := [], loc := [], lpois := [], tiles := [], tc := [], regions := [],
    jobs := [], bars := [], gbars := [], sq := [], held := [], ic := [], pins := [], seg := seg, segOpen := false, phase := 0,
    durPhase := none, leadv := [], pst := .running, trapctl := trapctl, sysNext := [], trapvec := 0, ops := [], cpas := [], quiet := 0,
    served := none, marked := [], victims := [], ported := 0, lastKey := 0, saveIdx := 0 }

end Sys2Proof.Machine
end

