-- ==== Sys2Proof/Machine/CoreEvents.lean ====
section
/-! DEFINITION. Happenings of a core: Sparge's triggers, trap entry, store checks and the delivery of their faults, the
landing of results, walks that end, the ends of engine jobs and copies, remote scratchpad, retests and expiries. A happening
that is not due leaves the state as it is (log 3). -/

namespace Sys2Proof.Machine

/-- A happening changes nothing while the device is stopped or has lost power (R43). -/
def onRun (s t : State) : Result := .next (if s.power = .run then t else s)

/-! ### Sparge (R83, R84) -/

/-- SPARGE_QUIESCENCE (R83): the condition has held for 64 cycles; Sparge acts, and the head is granted. While it waits for a page, or
for a write into the next frame in its order, it stays due (R63, R84, R102). -/
def execSpargeQuiescence (c : Nat) (s : State) : Result :=
  onRun s (match getCore s c with
    | none => s
    | some x =>
      if 64 ≤ x.quiet ∧ spargeQuiet x then
        let r := spargeAct s c false
        settleGrants (if r.2 || pageWaits r.1 c then r.1 else modCore r.1 c fun x => { x with quiet := 0 }) c x.strands.length
      else s)

/-- The head of the grant order has waited 65,536 cycles. It may be a strand IN_HANDLER whose reload is pending, or one PARKED_WHOLE,
which R83 does not call BLOCKED; and a strand saved BLOCKED has waited through its save: these are the model's choices (log 26). -/
def starved (s : State) (x : Core) : Bool := (reqHead x none).any fun r => decide (r.since + Config.limit64k ≤ s.clock.toNat)

/-- SPARGE_STARVATION (R83); again while its head waits and a strand that it marked has come out of its wait (R84). -/
def execSpargeStarvation (c : Nat) (s : State) : Result :=
  onRun s (match getCore s c with
    | none => s
    | some x => if starved s x then settleGrants (spargeAct s c true).1 c x.strands.length else s)

/-! ### Trap entry (R88, R363) -/

/-- A strand that waits for a handler frame, in the order of R81. -/
def trapReq (sl : Nat) (st : Strand) : Option Req :=
  match st.trapPend with
  | some t => if trapWaits st then some { slot := sl, demand := 0, since := t.since, eff := st.eff } else none
  | none => none

def trapHead (x : Core) : Option Nat :=
  (x.strands.foldl (fun (h : Option Req) p =>
    match trapReq p.1 p.2, h with
    | none, _ => h
    | some r, none => some r
    | some r, some q => if reqFirst r q then some r else h) none).map (·.slot)

/-- TRAP_ENTRY (R88, R363): the first waiting strand enters a handler frame that is free. -/
def execTrapEntry (c sl : Nat) (s : State) : Result :=
  onRun s (match getCore s c with
    | none => s
    | some x => if trapHead x = some sl ∧ ((gangOf s x).any fun g => gangLive s g && (g.st == .placed || g.st == .saving)) then trapEnter s c sl else s)

/-! ### Store checks and their faults (R133 to R135) -/

/-- STORE_CHECK (R133). -/
def execStoreCheck (c : Nat) (s : State) : Result := onRun s (storeCheckHead s c)

/-- STORE_FAULT_DELIVER (R135, R39). -/
def execStoreFaultDeliver (c sl : Nat) (s : State) : Result := onRun s (deliverDue s c sl)

/-! ### Results (R60, R168, R169) -/

/-- VARLAT_COMPLETE (R60): lanes of an operation are performed, or some of their words land. -/
def execVarlatComplete (c op : Nat) (m : Word) (regs : BitVec 4) (land : Bool) (s : State) : Result :=
  onRun s (completeOp s c op m regs land)

/-- The core's operations on the lines of some runs are performed before an engine reads or writes there (R183, R190). -/
def settleSpans (s : State) (c : Nat) (l : List Span) : State :=
  performBefore s c s.nextId (l.map fun q => linesOf q.e q.pa q.n).flatten false

/-- The runs of global memory that a tile job reads or writes. -/
def jobSpans (k : JobK) : List Span :=
  match k with
  | .tldG _ _ rows => rows.flatten
  | .tstG _ _ rows => rows.flatten
  | _ => []

/-- Runs of single bytes at pointers whose pages are present. -/
def spansAt (s : State) (c : Nat) (x : Core) (ptrs : List DWord) : List Span :=
  ptrs.filterMap fun p => match xlate s c (((gangOf s x).map (·.ctx)).getD 0) (ptrVa p) with
    | .hit e => some { ptr := p, pa := paOf e (ptrVa p), n := 1, e := e }
    | _ => none

/-- Elements of a matrix job's tile whose group mismatched twice are poisoned, each counted in its cluster's bucket and
recorded (R367). -/
def matrixMismatch (s : State) (c : Nat) (j : Job) (bad : List Nat) : State :=
  match j.k with
  | .mma d _ _ td _ _ _ _ => go d td
  | .mmas d _ _ td _ _ _ _ _ _ _ _ => go d td
  | .mtrn d _ _ td _ _ _ _ => go d td
  | _ => s
where
  go (d : Nat) (td : Word) : State :=
    (bad.filter fun e => decide (e < tcRows td * tcCols td)).foldl (fun s e =>
      let s1 := modCore s c fun x =>
        let k := tileKey d (e * tcW td / 32)
        { x with tiles := sset RVal.zero x.tiles k { (sget RVal.zero x.tiles k) with p := true } }
      recordOnly (countErr s1 3 (clusterOf c) (c * 2 ^ 24 + 3 * 2 ^ 20)) c j.slot j.pc { lane := 0, cause := .pipeErr, addr := 0, detail := 0 } 0) s

/-- A job whose writes are made ends once a remote device has acknowledged them (R168). -/
def jobAcked (s : State) (c : Nat) (j : Job) : State := if remoteDue s j.id then s else endJob s c j

/-- TILE_JOB_DONE (R168): a job whose turn it is is performed, its ranges are released, it retires. -/
def execTileJobDone (c job : Nat) (bad : List Nat) (s : State) : Result :=
  onRun s (match getCore s c with
    | none => s
    | some x =>
      match x.jobs.find? fun j => j.id = job && isTileJob j.k with
      | none => s
      | some j =>
        if jobPending x job then s
        else if j.sent then jobAcked s c j
        else
          let s1 := settleSpans s c (jobSpans j.k)
          jobSent (matrixMismatch (performTile s1 c ((getCore s1 c).getD x) j) c j bad) c j)

/-- The source pointer, the page and the address of byte i of a lane's copy; none of its zero tail (R327). -/
def copySource (l : CLane) (i : Nat) : Option (Pte × Nat) :=
  (l.spans.map fun q => (List.range q.n).map fun j => (q.e, q.pa + j)).flatten[i]?

/-- Word w of a copy's destination holds its bytes: it is poisoned when a byte written to it was; until the last of its bytes is written,
also when it was so before (R111, R327). -/
def copyPois (x : Core) (l : CLane) (w : Nat) : Core :=
  let k := (l.dst + 4 * w) / 4
  let full := l.put.extractLsb' (4 * w) 4 == 0xF
  { x with lpois := sset false x.lpois k (l.pw.getLsbD w || (!full && sget false x.lpois k)) }

/-- Byte i of a lane of CPA is copied: as an engine reads it, or zero (R199, R327). -/
def copyByte (c : Nat) (r : State × CLane) (i : Nat) : State × CLane :=
  let v : State × List Byte × Bool := match copySource r.2 i with
    | some (e, pa) => farRead r.1 c e pa 1 true
    | none => (r.1, [0], false)
  let l : CLane := { r.2 with put := setBit r.2.put i true, pw := if v.2.2 then setBit r.2.pw (i / 4) true else r.2.pw }
  (modCore v.1 c fun x => copyPois { x with loc := sset 0 x.loc (l.dst + i) (v.2.1.headD 0) } l (i / 4), l)

/-- Bytes of a lane of CPA that a mask names are copied; with the last of them the lane is done. -/
def copyLane (c : Nat) (bytes : BitVec 32) (s : State) (l : CLane) : State × CLane :=
  let r := ((List.range 32).filter fun i => bytes.getLsbD i && !l.put.getLsbD i).foldl (copyByte c) (settleSpans s c l.spans, l)
  (r.1, { r.2 with done := r.2.put == BitVec.allOnes 32 })

/-- Bytes of the lanes of a mask are copied, lane by lane. -/
def copyLanes (c : Nat) (m : Word) (bytes : BitVec 32) : List CLane → State → State × List CLane
  | [], s => (s, [])
  | l :: t, s =>
    let r := if inMask m l.lane && !l.done then copyLane c bytes s l else (s, l)
    let q := copyLanes c m bytes t r.1
    (q.1, r.2 :: q.2)

/-- Destination bytes of lanes of a copy are written; a copy whose last byte is written retires (R169, R199). -/
def copyOn (s : State) (c op : Nat) (m bytes : BitVec 32) : State :=
  match (getCore s c).bind fun x => x.cpas.find? fun q => q.id = op with
  | none => s
  | some q =>
    let r := copyLanes c m bytes q.lanes s
    let s1 := r.1
    let q1 : Cpa := { q with lanes := r.2 }
    if q1.lanes.all (·.done) then
      let s2 := modCore s1 c fun x => { x with cpas := x.cpas.filter fun p => p.id ≠ op }
      match strandAt s2 c q.slot q.sid with
      | some _ => retireOut s2 c q.slot op
      | none => s2
    else modCore s1 c fun x => { x with cpas := x.cpas.map fun p => if p.id = op then q1 else p }

/-- CPA_COPY_DONE (R169, R199): what is still to be copied of lanes of a copy is. Bytes that arrive before come as inputs (log 57). -/
def execCpaCopyDone (c op : Nat) (m : Word) (s : State) : Result := onRun s (copyOn s c op m (BitVec.allOnes 32))

/-! ### Page walks (R102) -/

/-- A walk holds one of its die's walkers: those that the host has an entry of do not, and the oldest 64 others do. -/
def hasWalker (s : State) (w : Walk) : Bool :=
  decide (((s.walks.takeWhile fun v => v.id != w.id).filter fun v => v.die = w.die && v.st != .posted).length < Config.walkers)

/-- PAGE_WALK_DONE (R102). -/
def execPageWalkDone (walk : Nat) (s : State) : Result :=
  onRun s (match s.walks.find? fun w => w.id = walk with
    | none => s
    | some w => if w.st = .walking ∧ hasWalker s w then walkDone s walk else s)

/-! ### Region fills and copy-outs (R148, R149) -/

/-- What keeps a chunk from being fetched: nothing; pages that no walk serves; a walk under way; a walk that found nothing. -/
inductive ChunkRes where
  | ready
  | miss (ps : List DWord)
  | walking
  | blocked (walk : Nat)
  deriving DecidableEq, Repr

/-- A pointer's page that the host has refused to a job. -/
def refusedPage (j : Job) (p : DWord) : Bool := j.refused.any fun r => r.2 = ptrVa p / 65536

/-- The pages of a chunk's source that no TLB holds: a chunk whose source breaks ADDR_FORM needs none, and a refused page is waited
for no more. -/
def chunkRes (s : State) (c : Nat) (r : Region) (k : Nat) (j : Job) : ChunkRes :=
  let ctx := ctxNum s c
  let res (p : DWord) : XRes := xlate s c ctx (ptrVa p)
  let need := if ptrForm r.src then (chunkPtrs r k).filter fun p => !refusedPage j p && (match res p with | .hit _ => false | _ => true) else []
  if need.isEmpty then .ready
  else
    match need.findSome? fun p => match res p with | .park w => some w | _ => none with
    | some w => .blocked w
    | none =>
      let ms := need.filter fun p => match res p with | .miss => true | _ => false
      if ms.isEmpty then .walking else .miss ms

/-- The check of a fill's source bytes that fails first (R148), with REJECT for a refused page. -/
def fillFails (s : State) (c : Nat) (x : Core) (ptrs : List DWord) : Option (Cause × DWord × Word × Bool) :=
  ptrs.findSome? fun p =>
    if !ptrForm p then some (.addrForm, p, 0, false)
    else
      match xlate s c (((gangOf s x).map (·.ctx)).getD 0) (ptrVa p) with
      | .hit e =>
        if e.priv then some (.priv, p, 0, false)
        else (tagFails s x e p (paOf e (ptrVa p)) 1 false true).map fun t => (.tagLd, p, t.setWidth 32, false)
      | _ => some (.pageAbsent, p, 0, true)

/-- A source byte as the copy engine reads it (R186). -/
def fillByte (s : State) (c : Nat) (x : Core) (r : Region) (o : Nat) : Byte × Bool :=
  let one (q : Nat) : Byte × Bool :=
    match xlate s c (((gangOf s x).map (·.ctx)).getD 0) (ptrVa (ptrAdd r.src (q : Nat))) with
    | .hit e => let v := farRead s c e (paOf e (ptrVa (ptrAdd r.src (q : Nat)))) 1 true; (v.2.1.headD 0, v.2.2)
    | _ => (0, true)
  match sourceOf r o with
  | [(q, none)] => one q
  | [(a, some i), (b, some j)] =>
    let lo := one a
    let hi := one b
    (BitVec.ofNat 8 (lo.1.toNat / 16 ^ i % 16 + 16 * (hi.1.toNat / 16 ^ j % 16)), lo.2 || hi.2)
  | _ => (0, false)

/-- Source pointers of a chunk's bytes, one per granule. -/
def chunkGranules (r : Region) (k : Nat) : List DWord :=
  ((List.range 512).map fun i => (sourceOf r (512 * k + i)).map fun q => ptrAdd r.src (q.1 : Nat)).flatten.foldl
    (fun l p => if l.any fun q => ptrVa q / 32 = ptrVa p / 32 then l else l ++ [p]) []

/-- A fault of a fill or copy-out of a region: STATUS keeps the first, with one record of the entry (R148, R149). -/
def regionFault (s : State) (c rn : Nat) (j : Job) (f : Cause × DWord × Word × Bool) : State :=
  match (getCore s c).bind fun x => aget x.regions rn with
  | none => s
  | some r =>
    if r.fault then s
    else
      let s1 := modCore s c fun x => { x with regions := aput x.regions rn { r with fault := true, cause := BitVec.ofNat 8 f.1.code } }
      recordOnly s1 c r.binder j.pc { lane := 0, cause := f.1, addr := f.2.1, detail := f.2.2.1 } (if f.2.2.2 then flagReject else 0)

/-- The bytes of a chunk are written in the window; a chunk whose source fails a check is zeros, poisoned. -/
def writeChunk (s0 : State) (c rn : Nat) (r : Region) (k : Nat) (j : Job) : State :=
  let s := match getCore s0 c with | some x => settleSpans s0 c (spansAt s0 c x (chunkGranules r k)) | none => s0
  match getCore s c with
  | none => s
  | some x =>
    match fillFails s c x (chunkGranules r k) with
    | some f =>
      let s1 := regionFault s c rn j f
      modCore s1 c fun y =>
        { locWrite y (r.wbase + 512 * k) (List.replicate 512 0) (List.replicate 128 true) with regions := amod y.regions rn fun r => { r with poison := true } }
    | none =>
      let bytes := (List.range 512).map fun i => fillByte s c x r (512 * k + i)
      let y := (List.range 128).foldl (fun y w =>
        let ws := (bytes.drop (4 * w)).take 4
        locWrite y (r.wbase + 512 * k + 4 * w) (ws.map (·.1)) [ws.any (·.2)]) x
      let p := bytes.any (·.2)
      let far := (spansAt s c x (chunkGranules r k)).filter fun q => readsHome x q.e q.pa 1 true
      setCore (far.foldl (fun s q => noteLate s q.e) s) c { y with regions := amod y.regions rn fun r => { r with poison := r.poison || p } }

/-- The next copy-out that RGNFL asked for starts when its entry is PRESENT and the range-lock table has room (R149, R151). -/
def nextFlush (s : State) (c rn : Nat) : State :=
  match getCore s c with
  | none => s
  | some x =>
    match aget x.regions rn with
    | none => s
    | some r =>
      match r.flush with
      | [] => s
      | (op, sl) :: t =>
        if r.st = .present ∧ lockRoom x 2 then startCopyout (setCore s c { x with regions := aput x.regions rn { r with flush := t } }) c rn op sl else s

/-- A fill's last chunk has arrived: PRESENT, its range released, a copy-out that waits for it started (R147, R148). -/
def fillDone (s : State) (c rn : Nat) (j : Job) : State :=
  let s1 := modCore s c fun x => { x with jobs := x.jobs.filter fun k => k.id ≠ j.id, regions := amod x.regions rn fun r => { r with st := .present } }
  nextFlush (fire s1 .rangeRelease c j.id) c rn

/-- A chunk becomes readable: its bit is set, what waited for it goes on, and the accesses that touched it are performed in the
cycle (R148, R166, R331). -/
def landChunk (s : State) (c rn k : Nat) (j : Job) : State :=
  match getCore s c, (getCore s c).bind fun x => aget x.regions rn with
  | some x0, some r =>
    let s1 := writeChunk s c rn r k j
    let s2 := modCore s1 c fun x =>
      let x1 := { x with regions := amod x.regions rn fun r => { r with bitmap := setBit r.bitmap k true, order := r.order.filter (· ≠ k) } }
      releaseChkw (releaseChunk x1 rn fun c => c = k) rn fun w m => chunksReady x1 rn w m
    let s3 := fire s2 .chunkArrive c (32 * k + rn)
    touchNext (if (((getCore s3 c).bind fun x => aget x.regions rn).map fun r => r.order.isEmpty).getD false then fillDone s3 c rn j else s3)
      c x0 rn fun i => i = k
  | _, _ => s

/-- Lanes that wait for a chunk park on the walk of an absent page of its source (R148). -/
def parkOnChunk (s : State) (c rn k walk : Nat) : State :=
  modCore s c fun x => mapCoreStrands (fun st =>
    match st.hold with
    | some h => (match h.k with | .chunk r i ptrs w0 => if r = rn ∧ i = k then parkChunkLanes walk h ptrs w0 st else st | _ => st)
    | none => st) x

/-- CHUNK_ARRIVE (R148): the next chunk of a fill that is not kept by an absent page. -/
def execChunkArrive (c rn k : Nat) (s : State) : Result :=
  onRun s (match getCore s c with
    | none => s
    | some x0 =>
      match aget x0.regions rn, x0.jobs.find? fun j => j.k == .fill rn with
      | some r0, some j =>
        if r0.st ≠ .filling ∨ jobPending x0 j.id ∨ !r0.order.contains k then s
        else
          let s1 := storeDrainAll s c
          match (getCore s1 c).bind fun x => aget x.regions rn with
            | none => s1
            | some r =>
              let free (i : Nat) : Bool := match chunkRes s1 c r i j with | .blocked _ => false | _ => true
              match chunkRes s1 c r k j with
              | .miss ps => ps.foldl (fun s p => (startWalk s (dieOf c) (ctxNum s c) (ptrVa p) false false false).2) s1
              | .walking => s1
              | .blocked w => parkOnChunk s1 c rn k w
              | .ready => if r.order.find? free = some k then landChunk s1 c rn k j else s1
      | _, _ => s)

/-- The runs of a copy-out within one granule each: pointer, the window offsets of their bytes (or pairs of halves). -/
def copyRuns (r : Region) : List (DWord × List Nat) :=
  let rowBytes := (r.cols * ewBits r + 7) / 8
  ((List.range r.planes).map fun p => ((List.range r.rows).map fun i =>
    (List.range rowBytes).foldl (fun (l : List (DWord × List Nat)) b =>
      let q := ptrAdd r.src (p * r.pstride + i * r.sstride + b : Nat)
      match l.getLast? with
      | some t => if ptrVa t.1 / 32 = ptrVa q / 32 then l.dropLast ++ [(t.1, t.2 ++ [p * (r.rows * rowBytes) + i * rowBytes + b])]
                  else l ++ [(q, [p * (r.rows * rowBytes) + i * rowBytes + b])]
      | none => [(q, [p * (r.rows * rowBytes) + i * rowBytes + b])]) []).flatten).flatten

/-- The place in the window of the element at a plane, row and column (R146). -/
def placeOf (r : Region) (p i j : Nat) : Nat := if r.trn then p * r.rows * r.cols + j * r.rows + i else p * r.rows * r.cols + i * r.cols + j

/-- Byte n of the region's data in source order, from the window, with the poison of the words it comes from. -/
def flushByte (x : Core) (r : Region) (n : Nat) : Byte × Bool :=
  let rowBytes := (r.cols * ewBits r + 7) / 8
  let p := n / (r.rows * rowBytes)
  let i := n / rowBytes % r.rows
  let b := n % rowBytes
  let at_ (o : Nat) : Nat × Bool := let v := locRead x (r.wbase + o) 1; ((v.1.headD 0).toNat, v.2)
  if r.ew = 0 then
    let half (j : Nat) : Nat × Bool := let k := placeOf r p i j; let v := at_ (k / 2); (v.1 / 16 ^ (k % 2) % 16, v.2)
    let lo := half (2 * b)
    let hi := half (2 * b + 1)
    (BitVec.ofNat 8 (lo.1 + 16 * hi.1), lo.2 || hi.2)
  else
    let w := ewBits r / 8
    let v := at_ (placeOf r p i (b / w) * w + b % w)
    (BitVec.ofNat 8 v.1, v.2)

/-- A run of a copy-out is written at its home, or its failure is recorded (R149); a page that is not present is one that the host
refused. -/
def writeRun (s : State) (c rn : Nat) (r : Region) (j : Job) (q : DWord × List Nat) : State :=
  match getCore s c with
  | none => s
  | some x =>
      let bs := q.2.map (flushByte x r)
      let pois := bs.any (·.2)
      if !ptrForm q.1 then regionFault s c rn j (.addrForm, q.1, 0, false)
      else
      match xlate s c (ctxNum s c) (ptrVa q.1) with
      | .park _ => regionFault s c rn j (.pageAbsent, q.1, 0, true)
      | .wait _ => regionFault s c rn j (.pageAbsent, q.1, 0, true)
      | .miss => regionFault s c rn j (.pageAbsent, q.1, 0, true)
      | .hit e =>
        let pa := paOf e (ptrVa q.1)
        if e.priv then regionFault s c rn j (.priv, q.1, 0, false)
        else if pois && (e.nv || e.rem || e.cache == 2) then regionFault s c rn j (.poisonUse, q.1, 0, false)
        else if e.ro then regionFault s c rn j (.roSt, q.1, 0, false)
        else
          match tagFails s x e q.1 pa q.2.length false true with
          | some t => regionFault s c rn j (.tagSt, q.1, t.setWidth 32, false)
          | none => engineWrite s c e pa (jobSender j q.1) (bs.map (·.1)) pois

/-- The runs of a copy-out from number i on, up to one that waits for its page: the state, and the number of that run with its
pointer. -/
def flushRuns (s : State) (c rn : Nat) (r : Region) (j : Job) : Nat → List (DWord × List Nat) → State × Option (Nat × DWord)
  | _, [] => (s, none)
  | i, q :: t =>
    let ready := !ptrForm q.1 || refusedPage j q.1 || (match xlate s c (ctxNum s c) (ptrVa q.1) with | .hit _ => true | _ => false)
    if ready then flushRuns (writeRun s c rn r j q) c rn r j (i + 1) t else (s, some (i, q.1))

/-- The end of a copy-out: the entry is PRESENT, the ranges are released, its RGNFL retires, the next copy-out starts. An RGNCLR that
waits clears the entry when no further copy-out that RGNFL asked for is left (R147, R329, R330: log 61). -/
def flushDone (s : State) (c rn : Nat) (j : Job) : State :=
  let s2 := modCore s c fun x => { x with jobs := x.jobs.filter fun k => k.id ≠ j.id, regions := amod x.regions rn fun r => { r with st := .present } }
  let s3 := fire s2 .rangeRelease c j.id
  let s4 := match j.k, strandAt s3 c j.slot j.sid with
    | .copyout _ op, some _ => retireOut s3 c j.slot op
    | _, _ => s3
  let clear := ((getCore s4 c).map fun x => clearWaits x rn && ((aget x.regions rn).map fun r => r.flush.isEmpty).getD false).getD false
  if clear then settleHolds (clearRegion s4 c rn) c else nextFlush (settleHolds s4 c) c rn

/-- COPYOUT_ACK (R149): the bytes are at their homes, the entry is PRESENT, the ranges are released, RGNFL retires. -/
def execCopyoutAck (c rn : Nat) (s : State) : Result :=
  onRun s (match getCore s c with
    | none => s
    | some x =>
      match aget x.regions rn, x.jobs.find? fun j => match j.k with | .copyout q _ => q = rn | _ => false with
      | some _, none => nextFlush s c rn
      | some r, some j =>
        if jobPending x j.id ∨ j.wait.isSome then s
        else if j.sent then (if remoteDue s j.id then s else flushDone s c rn j)
        else
          let runs := (copyRuns r).drop j.at_.1
          let p := flushRuns (settleSpans s c (spansAt s c x (runs.map (·.1)))) c rn r j j.at_.1 runs
          match p.2 with
          | some q => jobWaits p.1 c j.id q.1 q.2 true false
          | none => if remoteDue p.1 j.id then modJob p.1 c j.id fun k => { k with sent := true } else flushDone p.1 c rn j
      | _, _ => s)

/-- RELABEL_DONE (R352). -/
def execRelabelDone (c job : Nat) (s : State) : Result :=
  onRun s (match getCore s c with
    | none => s
    | some x =>
      match x.jobs.find? fun j => j.id = job with
      | none => s
      | some j => if jobPending x job ∨ j.wait.isSome then s else if j.sent then jobAcked s c j else performRelabel s c x j)

/-! ### Remote scratchpad (R114, R196) -/

/-- A lane of an STR is acknowledged, or rejected; a store whose last lane is retires, with one record for its rejected
lanes, and its workgroup may arrive at a gang barrier (R134, R266). -/
def strAnswer (s : State) (src op l : Nat) (ok : Bool) : State :=
  let s1 := modCore s src fun x => { x with ops := x.ops.map fun o =>
    if o.id = op then { o with lanes := o.lanes.map fun y => if y.lane = l then { y with done := true, landed := if ok then 0 else 15 } else y } else o }
  match (getCore s1 src).bind fun x => x.ops.find? fun o => o.id = op with
  | none => s1
  | some o =>
    if o.lanes.all (·.done) then
      let bad := (o.lanes.filter fun y => y.landed = 15).map fun y => ({ lane := y.lane, cause := .gangTicket, addr := y.ptr, detail := 0 } : LFault)
      let q : SEntry := { id := o.id, slot := o.slot, sid := o.sid, pc := o.pc, w0 := o.w0, seq := o.seq, dir := false, str := true, lanes := [] }
      let s2 := finishOp (storeFault s1 src q .gangTicket bad) src op
      (List.range 4).foldl (fun s b => gbarArrive s src b) s2
    else s1

/-- A remote access waits at the target for a missing chunk, which its strand, of a slot of its own core, touches (R147, R148, R152). -/
def touchRemote (s : State) (c rn k slot : Nat) : State :=
  match getCore s c with
  | none => s
  | some x => if ((aget x.regions rn).map (·.st)) = some .absent ∧ !lockRoom x 1 then s else touchChunk s c rn k slot

/-- The slot of an operation of a core. -/
def opSlot (s : State) (c op : Nat) : Nat := ((((getCore s c).bind fun x => x.ops.find? fun o => o.id = op)).map (·.slot)).getD 0

/-- The workgroup of a core holds the ticket. -/
def ticketAt (s : State) (c : Nat) (tk : Word) : Bool := ((getCore s c).bind (gangOf s)).any fun g => g.ticket == tk

/-- Some message of the list that a test admits stands before the message id. -/
def msgBefore (l : List (Nat × Msg)) (id : Nat) (p : Msg → Bool) : Bool := (l.takeWhile fun m => m.1 != id).any fun m => p m.2

def dropMsg (s : State) (id : Nat) : State := { s with msgs := s.msgs.filter fun m => m.1 ≠ id }

/-- STR_ARRIVE (R114, R196): the bytes are written in the target's scratchpad, after a wait for what locks it; a request
whose ticket the target does not hold is dropped. Requests of one core to another arrive in order. -/
def execStrArrive (msg : Nat) (s : State) : Result :=
  onRun s (match aget s.msgs msg with
    | some (.str d tk off data pw src op l) =>
      if msgBefore s.msgs msg (fun m => match m with | .str d' _ _ _ _ src' _ _ => d' = d && src' = src | _ => false) then s
      else if !ticketAt s d tk then strAnswer (dropMsg s msg) src op l false
      else
        match getCore s d with
        | none => s
        | some y =>
          match localLock y off data.length true with
          | .lock => s
          | .chunk rn k => touchRemote s d rn k (opSlot s src op)
          | .free => strAnswer (modCore (dropMsg s msg) d fun y => locWrite y off data pw) src op l true
    | _ => s)

/-- An LDR's lane is misaligned: its bytes are read one by one (R368). -/
def ldrSplit (ty : BitVec 4) (l : OLane) : Bool := l.pa % tyBytes ty != 0

/-- n bytes of a lane of an LDR from `off` on are read at its target, after a wait for what locks them; its core's own STRs that issued
before it and have not arrived stand in their place (R183, R319). The lane keeps what it has read, and is done with its last byte. -/
def ldrRead (c op : Nat) (ty : BitVec 4) (s : State) (l : OLane) (off n : Nat) : State :=
  let d := windowCore c l.pa
  match getCore s d with
  | none => s
  | some y =>
    match localLock y off n false with
    | .lock => s
    | .chunk rn k => touchRemote s d rn k (opSlot s c op)
    | .free =>
      let r := match getCore s c with | some x => strRead s c x d y off n op | none => locRead y off n
      let data := l.data ++ r.1
      let p := l.b.p || r.2
      let set (q : OLane) : OLane :=
        if q.lane ≠ l.lane then q
        else if data.length < tyBytes ty then { q with data := data, b := { q.b with p := p } }
        else { q with done := true, vals := loadVals ty data p }
      modCore s c fun x => { x with ops := x.ops.map fun o => if o.id = op then { o with lanes := o.lanes.map set } else o }

/-- A lane of an LDR is performed: whole, or, misaligned, its next byte, once those of lower misaligned lanes are read (R368). -/
def ldrLane (c op : Nat) (ty : BitVec 4) (s : State) (l : OLane) : State :=
  let off := l.pa % 2 ^ 20
  if !ldrSplit ty l then ldrRead c op ty s l off (tyBytes ty)
  else
    let lower := ((getCore s c).bind fun x => x.ops.find? fun o => o.id = op).any fun o =>
      o.lanes.any fun q => !q.done && ldrSplit ty q && decide (q.lane < l.lane)
    if lower then s else ldrRead c op ty s l (off + l.data.length) 1

/-- LDR_ARRIVE (R114, R316): requests of an LDR reach their target cores. -/
def execLdrArrive (c op : Nat) (m : Word) (s : State) : Result :=
  onRun s (match (getCore s c).bind fun x => x.ops.find? fun o => o.id = op with
    | none => s
    | some o =>
      match o.k with
      | .ldr ty => (o.lanes.filter fun l => inMask m l.lane && !l.done).foldl (ldrLane c op ty) s
      | _ => s)

/-! ### Retests and expiries -/

/-- The word under a WAITW's access, whose pages are at hand, byte by byte when it is misaligned. -/
def retestWord (c ctx : Nat) (a : Acc) (s : State) : State × DWord × Bool :=
  let word (bs : List Byte) : DWord := BitVec.ofNat 64 (bytesNat bs)
  if misaligned a then
    match eachByte c ctx a (fun s _ e pa _ => let r := farRead s c e pa 1 false; .ok r.1 (r.2.1.headD 0, r.2.2)) a.n 0 s with
    | .ok s1 bs => (s1, word (bs.map (·.1)), bs.any (·.2))
    | .bad s1 _ => (s1, 0, true)
  else
    let e := hitOf s c ctx (ptrVa a.ptr)
    let r := farRead s c e (paOf e (ptrVa a.ptr)) a.n false
    (r.1, word r.2.1, r.2.2)

/-- What the pages of a retest give: they are at hand; a walk is under way, and the test is made later; a walk found nothing, and
the lane parks on it. -/
inductive RetestRes where
  | ready
  | later
  | park (walk : Nat) (p : DWord)
  deriving DecidableEq, Repr

/-- Pages that a retest needs: a walk is started for one that no TLB holds (R102). -/
def retestPages (s : State) (c ctx : Nat) : List DWord → State × RetestRes
  | [] => (s, .ready)
  | p :: t =>
    match xlate s c ctx (ptrVa p) with
    | .hit _ => retestPages s c ctx t
    | .wait _ => (s, .later)
    | .park w => (s, .park w p)
    | .miss => ((startWalk s (dieOf c) ctx (ptrVa p) false false false).2, .later)

/-- A lane's waiting place, in the interrupted code. -/
def setWait (inH : Bool) (w : LaneState) (la : Lane) : Lane := if inH then { la with sst := w } else { la with st := w }

/-- A retest of a lane's word; `inH`: for a wait of the interrupted code while a handler runs. Checks that fail fault at the
WAITW when the strand stands at a boundary of the code that waits; else later. -/
def retest (s : State) (c sl l : Nat) (x : Core) (st : Strand) (inH : Bool) (p : DWord) (v : DWord) (ty : BitVec 4) (cond : BitVec 3) (w0 : Word) : State :=
  let ctx := ctxNum s c
  let n := waitBytes ty
  let acc : Acc := { lane := l, ptr := p, n := n, data := [], b := wz, c := wz }
  let r := retestPages s c ctx (pagesOf acc)
  match r.2 with
  | .park w q => modStrand (walkJoin r.1 w false false false) c sl fun st => modLane st l fun la => setWait inH (.faultParked w q w0) la
  | .later => r.1
  | .ready =>
    let s1 := r.1
    let pieces : List (DWord × Nat) := if misaligned acc then (List.range n).map fun (i : Nat) => (ptrAdd p i, 1) else [(p, n)]
    let hit (q : DWord) : Pte := hitOf s1 c ctx (ptrVa q)
    let fails := pieces.findSome? fun q => loadChecks s1 x acc q.1 (hit q.1) (paOf (hit q.1) (ptrVa q.1)) q.2 false
    let fault (s : State) (f : LFault) : State :=
      if !inH && (st.st == .running || st.st == .inHandler) && st.hold.isNone && st.trapPend.isNone then
        raiseFaults (modStrand s c sl fun st => modLane st l fun la => { la with st := .ready }) c sl [f] w0 3
      else s
    match fails with
    | some f => fault s1 f
    | none =>
      let s2 := pieces.foldl (fun s q => settleLine s c (hit q.1) (paOf (hit q.1) (ptrVa q.1))) s1
      let w := retestWord c ctx acc s2
      if w.2.2 then fault w.1 (fault1 acc .poisonUse 0 0)
      else if waitHolds cond ty w.2.1 v then modStrand w.1 c sl fun st => modLane st l (releaseIn inH 12)
      else w.1

/-- The retest of a lane's wait, in the interrupted code or in the code that runs. -/
def retestOf (c sl l : Nat) (inH : Bool) (s : State) : State :=
  match coreStrand s c sl with
  | none => s
  | some (x, st) =>
    if !strandActs s x st then s
    else
      match if inH then (lane st l).sst else (lane st l).st with
      | .parked (.waitw p v ty cond w0) => retest s c sl l x st inH p v ty cond w0
      | _ => s

/-- WAITW_RETEST (R203, R261): in a handler, of a wait of the handler and of one of the interrupted code (R363). -/
def execWaitwRetest (c sl l : Nat) (s : State) : Result :=
  onRun s (let s1 := retestOf c sl l false s
    match getStrand s1 c sl with
    | some st => if st.handler.isSome && (lane st l).st != .exited then retestOf c sl l true s1 else s1
    | none => s1)

/-- SLEEP_EXPIRE (R250). -/
def execSleepExpire (c sl : Nat) (s : State) : Result :=
  onRun s (match coreStrand s c sl with
    | some (_, st) => (match st.hold with
      | some h => if h.k = .sleep 0 then settleHold s c sl else s
      | none => s)
    | none => s)

/-- AGE_EXPIRE (R177). -/
def execAgeExpire (c sl : Nat) (s : State) : Result := onRun s (modStrand s c sl ageStep)

/-- The strand is between instructions, as NOPRE_EXPIRE and a save take it. -/
def betweenInstrs (st : Strand) : Bool :=
  match st.hold with
  | none => true
  | some h => (match h.k with | .retry => true | .walks _ _ => true | .chunk _ _ _ _ => true | _ => false)

/-- NOPRE_EXPIRE (R39, R178): a request meets an expired bracket; the strand stops, NOPRE_EXPIRED due. -/
def execNopreExpire (c sl : Nat) (s : State) : Result :=
  onRun s (match coreStrand s c sl with
    | some (x, st) =>
      if st.nopre && decide (Config.limit64k ≤ st.npc) && !st.stopped && betweenInstrs st &&
          (gangOf s x).any (fun g => gangLive s g && g.st == .saving) then
        modStrand s c sl fun st => { st with stopped := true, due := st.due ++ [.nopre] }
      else s
    | none => s)

/-- TRIAL_COMPLETE (R354). -/
def execTrialComplete (c sl : Nat) (bad : List (Nat × Nat × Nat)) (s : State) : Result :=
  onRun s (match coreStrand s c sl with
    | some (_, st) =>
      if st.st = .inTrial then
        trialEnd s c sl bad
      else s
    | none => s)

/-- TRIAL_ABANDON (R21): a trial that reached no example boundary within 65,536 cycles of the request starts again. -/
def execTrialAbandon (c sl : Nat) (s : State) : Result :=
  onRun s (match coreStrand s c sl with
    | some (x, st) =>
      if st.st == .inTrial && (gangOf s x).any (fun g => g.st == .saving && decide (g.since + Config.limit64k ≤ s.clock.toNat)) then
        modStrand s c sl fun st =>
          { st with trial := st.trial.map fun t => { t with lanes := t.lanes.map fun l => { l with next := 0, sig := t.seed, fuel := 0 } } }
      else s
    | none => s)

/-- GBAR_ARRIVAL (R174, R266): it counts where the ticket matches, once the generation before has completed. -/
def execGbarArrival (msg : Nat) (s : State) : Result :=
  onRun s (match aget s.msgs msg with
    | some (.gbar d tk g wg) =>
      if msgBefore s.msgs msg (fun m => match m with | .gbar d' _ g' wg' => d' = d && g' = g && wg' = wg | _ => false) then s
      else
        match getCore s d with
        | none => dropMsg s msg
        | some y =>
          if !ticketAt s d tk then dropMsg s msg
          else if (barOf y.gbars g).who.contains wg || !((gangOf s y).any (gangLive s)) then s
          else gbarCount (dropMsg s msg) d g wg
    | _ => s)

/-! ### Rounds without an instruction (R12, R228, R243) -/

/-- NON_INSTRUCTION (R243): words that are no instruction raise ILLEGAL in every lane at them. -/
def execNonInstruction (w0 : Word) (s : State) : Result :=
  match s.cur with
  | none => .fault .noIssuer
  | some u => .next (raiseFaults s u.core u.slot (faultEach u.mask .illegal 0) w0 u.ilen)

/-- The cause of a failed fetch by its code. -/
def fetchCause (k : BitVec 8) : Cause := if k = 2 then .priv else if k = 6 then .xnFetch else .poisonUse

/-- FETCH_FAULT (R100, R228): the lanes at the address fault, or park on an absent page. -/
def execFetchFault (k : BitVec 8) (addr : DWord) (s : State) : Result :=
  match s.cur with
  | none => .fault .noIssuer
  | some u =>
    .next (if k = 5 then
        (match walkOf s (dieOf u.core) (ctxNum s u.core) (ptrVa addr / 65536) with
         | some w => parkLanes s u.core u.slot u.mask w.id addr u.w0
         | none => s)
      else raiseFaults s u.core u.slot (faultEach u.mask (fetchCause k) addr) u.w0 u.ilen)

/-- EMPTY_ROUND (R12): nothing issues; the end of the round makes YIELDED lanes READY. -/
def execEmptyRound (s : State) : Result := .next s

end Sys2Proof.Machine
end

