-- ==== Sys2Proof/Machine/PhaseEvents.lean ====
section
/-! DEFINITION. Publication and the end of a phase (R27, R184), phase messages and lead copies (R28, R29, R173). -/

namespace Sys2Proof.Machine

/-! ### Lead sets (R28, R173) -/

/-- Gang h is g or its neighbour in the same launch record. -/
def leadNear (g h : Gang) : Bool :=
  h.rid = g.rid && (h.gid = g.gid || h.index + 1 = g.index || h.index = g.index + 1)

/-- Members of the lead set of workgroup wg of a gang, but PENDING and RETIRED ones: gang and workgroup. -/
def leadSet (s : State) (g : Gang) (wg : Nat) : List (Gang × Nat) :=
  ((s.gangs.filter fun p => leadNear g p.2).map fun p =>
    ((List.range (recWpg p.2.raw)).filter fun w => p.1 ≠ g.gid || w ≠ wg).map fun w => (p.2, w)).flatten

/-- The workgroup of a gang as it stands, on its core or saved. -/
def wgCore (s : State) (g : Gang) (wg : Nat) : Option Core :=
  match g.saved.find? fun x => x.wg = wg with
  | some x => some x
  | none => (g.cores[wg]?).bind (getCore s)

/-- What a member's entry of LEADV holds: its phase, or unconstraining when its final PHASE has completed. -/
def leadVal (x : Core) : Option Word := if x.pst = .ended then none else some x.phase

/-- A workgroup tells its lead set its phase (R29). -/
def tellPhase (s : State) (g : Gang) (wg : Nat) (v : Option Word) : State :=
  (leadSet s g wg).foldl (fun s m =>
    { s with msgs := s.msgs ++ [(s.nextId, .phase m.1.gid m.2 g.index wg v)], nextId := s.nextId + 1 }) s

/-- LEADV of a workgroup loaded from its members' phases (R173). -/
def loadLead (s : State) (g : Gang) (wg : Nat) : List Lead :=
  (leadSet s g wg).filterMap fun m => (wgCore s m.1 m.2).map fun x => { gang := m.1.index, wg := m.2, val := leadVal x }

/-- An entry of LEADV is overwritten. -/
def putLead (l : List Lead) (e : Lead) : List Lead := (l.filter fun x => !(x.gang = e.gang && x.wg = e.wg)) ++ [e]

/-- PHASE_MESSAGE (R173): the oldest message of a member overwrites its entry; a lead test that waits is made again. -/
def execPhaseMessage (msg : Nat) (s : State) : Result :=
  onRun s (match aget s.msgs msg with
    | some (.phase gid wg fg fw v) =>
      if msgBefore s.msgs msg (fun m => match m with | .phase gid' wg' fg' fw' _ => gid' = gid && wg' = wg && fg' = fg && fw' = fw | _ => false) then s
      else
        let s1 := dropMsg s msg
        let upd (x : Core) : Core := if x.wg = wg then { x with leadv := putLead x.leadv { gang := fg, wg := fw, val := v } } else x
        match aget s1.gangs gid with
        | none => s1
        | some g =>
          if g.st = .saved then modGang s1 gid fun g => { g with saved := g.saved.map upd }
          else
            match g.cores[wg]? with
            | none => s1
            | some c => if gangLive s1 g && g.st != .saving then tryLead (modCore s1 c upd) c else modCore s1 c upd
    | _ => s)

/-! ### The end of a phase (R27, steps 5 to 7) -/

/-- A strand that waits at PHASE is released, its executing lanes past the instruction. -/
def releasePhase (st : Strand) : Strand :=
  let st1 := { advLanes st st.phMask st.phLen with phMask := 0, phLen := 0, dur := false, bnd := !st.due.isEmpty }
  match st.st with
  | .atPhase => { st1 with st := .running }
  | .parkedWhole true t => { st1 with st := .parkedWhole false t }
  | _ => st

/-- Loads of the phase that have not been performed see the held copies of their lines (R185): they are performed before those go. -/
def readHeld (s : State) (c : Nat) : State :=
  match getCore s c with
  | none => s
  | some x => performBefore s c s.nextId ((x.held.filter fun p => p.2.read.isSome).map (·.1)) false

/-- What a PHASE.dur makes durable (R120): what its core wrote, and the non-segment writes that its workgroup issued on a core before
this one. -/
def durCovers (c : Nat) (x : Core) (w : NvW) : Bool := w.core == c || (w.seg.isNone && w.owner == some (x.gid, x.wg))

/-- Steps 5 to 7 of R27: held lines are dropped, but those a load has yet to fill; the phase rises; strands are released. -/
def phaseDone (s : State) (c : Nat) (final dur : Bool) : State :=
  match getCore s c with
  | none => s
  | some x =>
    let ph := x.phase + 1
    let keep (p : Nat × HLine) : Option (Nat × HLine) :=
      if p.2.want then some (p.1, { HLine.none with want := true, nv := p.2.nv }) else none
    let x1 := { mapCoreStrands releasePhase x with
      held := x.held.filterMap keep, phase := ph, durPhase := if dur then some ph else x.durPhase,
      pst := if final then .ended else .running }
    let s1 := fire (setCore s c x1) .phasePublish c ph.toNat
    match gangOf s1 x1 with
    | some g => tellPhase s1 g x.wg (if final then none else some ph)
    | none => s1

/-- Every acknowledgement that step 4 of R27 waits for has arrived. -/
def allAcked (s : State) (c : Nat) (x : Core) : Bool :=
  (dirtyList x).isEmpty && x.sq.isEmpty && !(x.ops.any fun o => o.k == .store) && !(s.remote.any fun r => r.core = c && r.op.isNone)

/-- PHASE_PUBLISH (R27, R119, R120): n dirty lines are published, in segment order; when every acknowledgement is there and,
for a durable phase, the writes are durable, the phase ends. -/
def execPhasePublish (c n : Nat) (s : State) : Result :=
  onRun s (match getCore s c with
    | none => s
    | some x0 =>
      match x0.pst with
      | .publishing final dur =>
        let s1 := storeDrainAll s c
        let s2 := match getCore s1 c with
          | some x => ((dirtyList x).take n).foldl (fun s p => publishOne s c (ctxNum s c) p.1 p.2) s1
          | none => s1
        match getCore s2 c with
        | none => s2
        | some x =>
          if allAcked s2 c x then
            phaseDone (readHeld (if dur then nvCommit s2 (durCovers c x) else s2) c) c final dur
          else s2
      | _ => s)

end Sys2Proof.Machine
end

