-- ==== Sys2Proof/Machine/ContextEvents.lean ====
section
/-! DEFINITION. Management requests: a context is created (R9, R406) and destroyed (R407). -/

namespace Sys2Proof.Machine

/-! ### Bytes at physical addresses, and pieces at virtual ones -/

/-- n bytes at a physical address. -/
def physBytes (s : State) (pa n : Nat) : List Byte := (List.range n).map fun i => homeByte s (pa + i)
/-- Some granule of n bytes at a physical address is poisoned. -/
def physPois (s : State) (pa n : Nat) : Bool := (granules pa n).any (sget false s.gpois)

/-- Bytes written at a physical address by the device or the host, line by line; k bounds the lines. -/
def physWrite (s : State) : Nat → Nat → List Byte → State
  | 0, _, _ => s
  | k + 1, pa, data =>
    if data.isEmpty then s
    else physWrite (homeWrite s pa (data.take (64 - pa % 64)) false noCore none) k (pa + (64 - pa % 64)) (data.drop (64 - pa % 64))

/-- Bytes at a pointer of a context, line by line, each line under the checks of a load; with their poison. -/
def virtPieces (s : State) (die : Nat) (c : Ctx) : List (DWord × Nat) → Except Cause (List Byte × Bool)
  | [] => .ok ([], false)
  | (p, n) :: t =>
    match virtRead s die c p n with
    | .error k => .error k
    | .ok b =>
      match virtPieces s die c t with
      | .error k => .error k
      | .ok r => .ok (b.1 ++ r.1, b.2 || r.2)

/-- n bytes at a pointer read whole: none where a check fails or some granule is poisoned. -/
def virtWhole (s : State) (die : Nat) (c : Ctx) (p : DWord) (n : Nat) : Option (List Byte) :=
  match virtPieces s die c (linePieces (n / 64 + 2) p n) with
  | .ok (b, false) => some b
  | _ => none

/-! ### Serving requests (R406) -/

def reqKind (b : List Byte) : Nat := recField b 58 1

/-- A request is answered: CTX, then RESULT; vector 3; it leaves the list (R401, R406). -/
def reqAnswer (s : State) (addr result ctx : Nat) : State :=
  let s1 := physWrite s 2 (addr + 116) (natBytes ctx 2)
  let s2 := physWrite s1 2 (addr + 112) (natBytes result 4)
  msix { s2 with mreqs := s2.mreqs.tail } 3

/-- The context that a KIND 0 block asks for, under a number. -/
def reqCtx (b : List Byte) (num : Nat) : Ctx :=
  { num := num, st := .live, ptroot := recField b 0 8, privbase := recField b 8 8, fqaddr := BitVec.ofNat 64 (recField b 16 8),
    fqlog := recField b 24 1, priocap := recField b 25 1, prot := decide (recField b 26 1 = 1),
    trapctl := BitVec.ofNat 32 (recField b 28 4), qmask := BitVec.ofNat 128 (recField b 32 16),
    kdtbase := BitVec.ofNat 64 (recField b 48 8), kdtcnt := recField b 56 2, dgroup := BitVec.ofNat 32 (recField b 72 4), seq := 0 }

/-- Fields of a KIND 0 block that R406 refuses. -/
def createBad (b : List Byte) : Bool :=
  let c := reqCtx b 0
  let q := recField b 27 1
  reqKind b != 0 || decide (c.ptroot % 32768 ≠ 0) || decide (physTop ≤ c.ptroot) || decide (c.privbase % 2 ^ 36 ≠ 0) ||
    decide (2 ^ 56 ≤ c.privbase) || decide (c.fqaddr.toNat % 64 ≠ 0) || !ptrForm c.fqaddr || decide (c.fqlog < 6) ||
    decide (20 < c.fqlog) || decide (1 < recField b 26 1) || decide (127 < q) || !c.qmask.getLsbD q || sysBad 0x40 c.trapctl ||
    decide (c.kdtbase.toNat % 128 ≠ 0) || !ptrForm c.kdtbase || decide (4096 < c.kdtcnt) || decide (recField b 59 1 ≠ 0) ||
    decide (recField b 60 2 ≠ 0) || decide (recField b 62 2 ≠ 0) || decide (recField b 64 8 % 8 ≠ 0) ||
    decide (2 ^ 60 ≤ recField b 64 8) || decide (recField b 76 36 ≠ 0) || decide (recField b 118 10 ≠ 0)

/-- The number that CONTEXT_CREATE takes: the lowest that no context has; none when 256 exist. -/
def freeCtx (s : State) : Option Nat := lowest (fun n => (aget s.ctxs n).isNone) 256

/-- A context is created with its first record in its queue (R9). -/
def ctxCreate (s : State) (c : Ctx) (q : Nat) (raw : List Byte) : State :=
  let s1 := (launchPut { s with ctxs := aput s.ctxs c.num c } c.num q raw).1
  fire s1 .contextCreate c.num q

/-- What a KIND 0 block gets: the refusal, or the context and its first record (R406). -/
def createVerdict (s : State) (b : List Byte) : Except Nat (Ctx × List Byte) :=
  if createBad b then .error 2
  else
    let c := reqCtx b ((freeCtx s).getD 256)
    match virtWrite s 0 c c.fqaddr (natBytes 0 4), virtWhole s 0 c (BitVec.ofNat 64 (recField b 64 8)) 128 with
    | some _, some raw =>
      if s.ctxs.any fun p => p.2.qmask &&& c.qmask != 0 then .error 3
      else if (freeCtx s).isNone then .error 4
      else .ok (c, raw)
    | _, _ => .error 2

/-- MREQ_CREATE (R406): the oldest request, unless it is of KIND 1, is served. -/
def execMreqCreate (addr : Nat) (s : State) : Result :=
  let b := physBytes s addr 128
  .next (if mgmtServes s && s.mreqs.head? == some addr && reqKind b != 1 then
      if physPois s addr 128 then reqAnswer s addr 2 0
      else
        match createVerdict s b with
        | .error r => reqAnswer s addr r 0
        | .ok (c, raw) => reqAnswer (ctxCreate s c (recField b 27 1) raw) addr 1 c.num
    else s)

/-! ### Destroying a context (R407) -/

/-- The gangs of a context. -/
def ctxGangs (s : State) (n : Nat) : List Gang := (s.gangs.filter fun g => g.2.ctx = n).map (·.2)

/-- Steps 1 and 2 of R407: the records leave the queues, and the strands stop. -/
def ctxEnd (s : State) (n : Nat) : State :=
  modCtx { s with queues := s.queues.map fun q => (q.1, q.2.filter fun r => r.ctx ≠ n) } n
    fun c => { c with st := .ending (c.st == .halted) }

/-- A walk that an engine's work waits for, if any, has found its page absent: its entry waits in a host fault queue, or for room there. -/
def walkStuck (s : State) (wait : Option Nat) : Bool := wait.any fun id => s.walks.any fun w => w.id = id && w.st != .walking

/-- An operation that will not be performed: it waits for a page that is absent, or for one that does; or it goes to a
scratchpad that is released. -/
def opStuck (s : State) (c : Nat) (o : Op) : Bool :=
  walkStuck s o.wait || o.lanes.all (·.done) || blockedBefore s c o.id (opKeys o) (opWide o.k) ||
    (match o.k with | .ldr _ => true | .str => true | _ => false)

/-- A job that will not go on: it waits for an absent page or for a job before it, or is a trial, or a fill all of whose
missing chunks wait for absent pages. -/
def jobStuck (s : State) (c : Nat) (x : Core) (j : Job) : Bool :=
  walkStuck s j.wait || jobPending x j.id ||
    (match j.k with
     | .trial _ => true
     | .fill rn => ((aget x.regions rn).map fun r => r.order.all fun k => match chunkRes s c r k j with | .blocked _ => true | _ => false).getD true
     | _ => false)

/-- Nothing of a core is under way that runs to completion (step 3 of R407). -/
def coreStill (s : State) (c : Nat) (x : Core) : Bool :=
  x.cpas.isEmpty && x.ops.all (opStuck s c) && x.jobs.all (jobStuck s c x) &&
    (match x.pst with | .publishing _ _ => false | _ => true)

/-- Every core of the context is still, and no request of it to another device is unanswered. -/
def ctxStill (s : State) (n : Nat) : Bool :=
  (s.cores.all fun p => !((gangOf s p.2).any fun g => g.ctx = n) || coreStill s p.1 p.2) && s.remote.all fun r => r.ctx ≠ n

/-- Messages of workgroups that hold some cores, or of some gangs, are dropped. -/
def dropMsgs (s : State) (gids cores : List Nat) : State :=
  { s with msgs := s.msgs.filter fun m => match m.2 with
      | .phase g _ _ _ _ => !gids.contains g
      | .gbar d _ _ _ => !cores.contains d
      | .str d _ _ _ _ src _ _ => !(cores.contains d || cores.contains src) }

/-- PROTECT_ZERO on each core of a protected context (R126); the units of a core that holds nothing are zero in this model. -/
def protectZero (s : State) (prot : Bool) (cores : List Nat) : State :=
  if prot then cores.foldl (fun s c => fire s .protectZero c 0) s else s

/-- Steps 4 to 7 of R407. -/
def ctxRelease (s : State) (n : Nat) (c : Ctx) : State :=
  let gs := ctxGangs s n
  let gids := gs.map (·.gid)
  let cores := (gs.map (·.cores)).flatten
  let s1 := protectZero (dropMsgs s gids cores) c.prot (cores.filter fun d => (getCore s d).isSome)
  let s2 : State := { s1 with walks := s1.walks.filter fun w => w.ctx ≠ n }
  let s3 : State := { s2 with cores := s2.cores.filter fun p => !gids.contains p.2.gid }
  let s4 : State := { s3 with gangs := s3.gangs.filter fun g => !gids.contains g.1 }
  let s5 : State := { s4 with tlbs := s4.tlbs.filter (fun t => t.ctx ≠ n), l1 := s4.l1.map fun p => (p.1, p.2.filter fun t => t.ctx ≠ n) }
  let s6 : State := { s5 with want := s5.want.filter fun w => !gids.contains (w.2 / 2) || w.2 % 2 = 0 }
  { s6 with ctxs := s6.ctxs.filter fun p => p.1 ≠ n }

/-- Fields of a KIND 1 block other than KIND, DCTX and RESULT are zero. -/
def destroyBad (b : List Byte) : Bool :=
  decide (recField b 0 58 ≠ 0) || decide (recField b 59 1 ≠ 0) || decide (recField b 62 50 ≠ 0) || decide (recField b 116 12 ≠ 0)

/-- MREQ_DESTROY (R407): the oldest request, of KIND 1. Its first occurrence stops the context; one that finds nothing of the
context under way finishes. -/
def execMreqDestroy (addr : Nat) (s : State) : Result :=
  let b := physBytes s addr 128
  let n := recField b 60 2
  .next (if mgmtServes s && s.mreqs.head? == some addr && reqKind b == 1 then
      if physPois s addr 128 || destroyBad b then reqAnswer s addr 2 0
      else
        match aget s.ctxs n with
        | none => reqAnswer s addr 5 0
        | some c =>
          (match c.st with
           | .stopped => s
           | .ending _ => if ctxStill s n then fire (reqAnswer (ctxRelease s n c) addr 1 0) .contextDestroy n 0 else s
           | _ => ctxEnd s n)
    else s)

end Sys2Proof.Machine
end

