-- ==== Sys2Proof/Machine/Approx.lean ====
section
/-! DEFINITION. The approximate functions (R218, R294, R295): their exact and special cases, and elsewhere a free value
within the error bound. The bound is tested against the true value, of which at least 64 leading bits are computed. -/

namespace Sys2Proof.Machine

/-! ### True values in fixed point, 128 fraction bits -/

def fixOne : Nat := 2 ^ 128
/-- ln 2 and 2π. -/
def fixLn2 : Nat := 235865763225513294137944142764154484399
def fix2Pi : Nat := 2138057168129933495719360746323741566601

/-- The terms of a series from term k on: t × x / d k for the next, n terms. -/
def series (x : Int) (d : Nat → Nat) : Nat → Nat → Int → Int
  | 0, _, _ => 0
  | n + 1, k, t => t + series x d n (k + 1) (t * x / fixOne / d k)

/-- 2^r of r in [0, 1]. -/
def fixExp2 (r : Nat) : Nat := (series ((r * fixLn2 / fixOne : Nat) : Int) (fun k => k + 1) 60 0 fixOne).toNat

/-- Sum of z^(2k+1) / (2k+1), z² given. -/
def fixAtanh (z2 : Nat) : Nat → Nat → Nat → Nat
  | 0, _, _ => 0
  | n + 1, k, t => t / (2 * k + 1) + fixAtanh z2 n (k + 1) (t * z2 / fixOne)

/-- log₂ of m in [1, 2). -/
def fixLog2 (m : Nat) : Nat :=
  let z := (m - fixOne) * fixOne / (m + fixOne)
  2 * fixAtanh (z * z / fixOne) 60 0 z * fixOne / fixLn2

/-- sin and cos of 2π × f, f in [0, 1). -/
def fixSin (f : Nat) : Int :=
  let x : Int := ((f * fix2Pi / fixOne : Nat) : Int)
  series (-(x * x / fixOne)) (fun k => (2 * k + 2) * (2 * k + 3)) 60 0 x
def fixCos (f : Nat) : Int :=
  let x : Int := ((f * fix2Pi / fixOne : Nat) : Int)
  series (-(x * x / fixOne)) (fun k => (2 * k + 1) * (2 * k + 2)) 60 0 fixOne

/-- m × 2^e in fixed point, truncated. -/
def toFix (m : Nat) (e : Int) : Nat :=
  let k := e + 128
  if 0 ≤ k then m * 2 ^ k.toNat else m / 2 ^ (-k).toNat

/-- The magnitude exponent of m × 2^e, m ≠ 0. -/
def topExp (m : Nat) (e : Int) : Int := e + Nat.log2 m

/-- A real m × 2^e with its sign. -/
abbrev Real3 := Bool × Nat × Int

def ofFix (x : Int) : Real3 := (decide (x < 0), x.natAbs, -128)

/-- The true value of function k at a finite number outside its exact cases. At arguments below 2^-64 the sine is 2π times its argument, and
the hyperbolic tangent just below it, to more than 120 bits: there the fixed point would lose them. -/
def trueVal (k : Nat) (s : Bool) (m : Nat) (e : Int) : Real3 :=
  if k = 0 then (s, 2 ^ 256 / m, -256 - e)
  else if k = 1 then
    (let m1 := if e % 2 = 0 then m else 2 * m
     let e1 := if e % 2 = 0 then e else e - 1
     (false, isqrt (2 ^ 400 / m1) 201 0, -200 - e1 / 2))
  else if k = 2 then
    (if topExp m e ≥ 8 then (false, 1, if s then -256 else 256)
     else
       let x : Int := (if s then -1 else 1) * (toFix m e : Int)
       let n := x / fixOne
       (false, fixExp2 (x % fixOne).toNat, n - 128))
  else if k = 3 then
    ofFix ((fixLog2 (toFix m (-(Nat.log2 m : Int))) : Int) + topExp m e * fixOne)
  else if k = 4 then
    (if topExp m e < -64 then (s, m * fix2Pi, e - 128) else let x := fixSin (toFix m e % fixOne); ofFix (if s then -x else x))
  else if k = 5 then ofFix (fixCos (toFix m e % fixOne))
  else
    if topExp m e ≥ 6 then (s, 1, 0)
    else if topExp m e < -64 then (s, m * 2 ^ 128 - 1, e - 128)
    else
      let y := 2 * toFix m e * fixOne / fixLn2
      let n := y / fixOne
      let q := fixExp2 (fixOne - y % fixOne) / 2 ^ (n + 1)
      (s, (fixOne - q) * fixOne / (fixOne + q), -128)

/-! ### The error bounds (R294) -/

/-- The exponent of an ulp of f32 at a real. -/
def ulpExp (v : Real3) : Int := if v.2.1 = 0 then -149 else max (-149) (topExp v.2.1 v.2.2 - 23)

/-- The bound n × 2^e of function k at a true value. -/
def bound (k : Nat) (v : Real3) : Nat × Int :=
  if k = 0 then (1, ulpExp v)
  else if k = 1 ∨ k = 2 then (2, ulpExp v)
  else if k = 3 then (if v.2.1 = 0 ∨ topExp v.2.1 v.2.2 < 0 then (1, -22) else (2, ulpExp v))
  else if k = 4 ∨ k = 5 then (1, -22)
  else if ulpExp v + 1 < -24 then (1, -24) else (2, ulpExp v)

/-- |a − b| ≤ n × 2^f. -/
def within (a b : Real3) (n : Nat) (f : Int) : Bool :=
  let g := min a.2.2 (min b.2.2 f)
  let z (r : Real3) : Int := (if r.1 then -1 else 1) * ((r.2.1 * 2 ^ (r.2.2 - g).toNat : Nat) : Int)
  decide ((z a - z b).natAbs ≤ n * 2 ^ (f - g).toNat)

/-- An f32 encoding is a finite value within the bound of function k. -/
def approxOk (k : Nat) (v : Real3) (c : Nat) : Bool :=
  match fmtF32.read c with
  | .num s m e => within (s, m, e) v (bound k v).1 (bound k v).2
  | _ => false

/-- The f32 result of function k outside its exact cases, with OF, UF and NX (R210, R294): the free value where it is
within the bound, else the true value rounded. A non-zero result below the smallest normal sets UF; so does a zero where the true
value is not zero and lies below it. -/
def approxVal (k : Nat) (x : Nat) (s : Bool) (m : Nat) (e : Int) : Nat × Flags :=
  let v := trueVal k s m e
  let r := if v.2.1 = 0 then (0, 0) else roundNum fmtF32 0 .plain v.1 v.2.1 true v.2.2
  if r.2 &&& fOF ≠ 0 then r
  else
    let c := (Config.approx k (BitVec.ofNat 32 x)).toNat
    let d := if approxOk k v c then c else r.1
    (d, fNX ||| flagIf (if d % 2 ^ 31 = 0 then r.2 &&& fUF != 0 else decide (d % 2 ^ 31 < 2 ^ 23)) fUF)

/-! ### Special and exact cases (R295) -/

/-- The exponent of a power of two m × 2^e. -/
def powTwo (m : Nat) (e : Int) : Option Int := if m = 2 ^ Nat.log2 m then some (topExp m e) else none

/-- Quarter turns of m × 2^e modulo four, where it is a multiple of 1/4. -/
def quarters (m : Nat) (e : Int) : Option Nat :=
  if 0 ≤ e then some 0
  else
    let d := 2 ^ (-e).toNat
    if m * 4 % d = 0 then some (m * 4 / d % 4) else none

/-- An exact integer of small size as a value; zero is +0. -/
def smallVal (x : Int) : FVal := .num (decide (x < 0)) x.natAbs 0

/-- What R295 gives for function k, or none where it gives nothing. -/
def exactCase (k : Nat) (v : FVal) : Option (FVal × Flags) :=
  match v with
  | .nan => some (.nan, fNV)
  | .inf s =>
    if k = 0 then some (.num s 0 0, 0)
    else if k = 1 then (if s then some (.nan, fNV) else some (.num false 0 0, 0))
    else if k = 2 then (if s then some (.num false 0 0, 0) else some (.inf false, 0))
    else if k = 3 then (if s then some (.nan, fNV) else some (.inf false, 0))
    else if k = 4 ∨ k = 5 then some (.nan, fNV)
    else some (.num s 1 0, 0)
  | .num s m e =>
    if m = 0 then
      (if k = 0 ∨ k = 1 then some (.inf s, fDZ)
       else if k = 2 ∨ k = 5 then some (.num false 1 0, 0)
       else if k = 3 then some (.inf true, fDZ)
       else some (.num s 0 0, 0))
    else if k = 0 then (powTwo m e).bind fun n => if -149 ≤ -n ∧ -n ≤ 127 then some (.num s 1 (-n), 0) else none
    else if k = 1 then
      (if s then some (.nan, fNV) else (powTwo m e).bind fun n => if n % 2 = 0 then some (.num false 1 (-(n / 2)), 0) else none)
    else if k = 2 then
      (let d := 2 ^ (-e).toNat
       if 12 < topExp m e then none
       else if 0 ≤ e ∨ m % d = 0 then
         (let n : Int := (if s then -1 else 1) * ((if 0 ≤ e then m * 2 ^ e.toNat else m / d : Nat) : Int)
          if -149 ≤ n ∧ n ≤ 127 then some (.num false 1 n, 0) else none)
       else none)
    else if k = 3 then (if s then some (.nan, fNV) else (powTwo m e).map fun n => (smallVal n, 0))
    else if k = 4 then
      (quarters m e).map fun q => (smallVal ((if s then -1 else 1) * (if q = 1 then 1 else if q = 3 then -1 else 0)), 0)
    else if k = 5 then (quarters m e).map fun q => (smallVal (if q = 0 then 1 else if q = 2 then -1 else 0), 0)
    else none

/-- Function k of an encoding in a format: the f32 function of the widened input, its result rounded once to the format. -/
def approxFn (k : Nat) (t : Fmt) (b : Nat) : Nat × Flags :=
  let v := t.read b
  match exactCase k v with
  | some r => finish t 0 r
  | none =>
    match v with
    | .num s m e =>
      let x := (roundVal fmtF32 0 .plain v).1
      let r := approxVal k x s m e
      let d := roundVal t 0 .plain (fmtF32.read r.1)
      (d.1, r.2 ||| d.2)
    | _ => (t.nan, fNV)

end Sys2Proof.Machine
end

