-- ==== Sys2Proof/Machine/Float.lean ====
section
/-! DEFINITION. Majors 0x18 to 0x1B: scalar floats, approximate functions, conversions, paired halves (R292 to R298). -/

namespace Sys2Proof.Machine

/-! ### Scalar floats (R292, R293) -/

/-- A float computation on encodings of the TYPE's format in the mode RND. -/
def runFloat (i : Instr) (f : Form) (s : State) (wb wc : Nat) (g : Fmt → Nat → Nat → Nat → Nat → Nat × Flags) :
    Host.Outcome State Fault Refusal :=
  runAlu i f s 1 1 wb wc fun a b c =>
    let r := g (fmtOf f.ty) f.rnd.toNat a.toNat b.toNat c.toNat
    (BitVec.ofNat 64 r.1, r.2)

/-- The exact results of FADD, FSUB, FMUL, FFMA rounded once. -/
def faddEnc (t : Fmt) (m a b _c : Nat) : Nat × Flags := finish t m (fadd m (t.read a) (t.read b))
def fsubEnc (t : Fmt) (m a b _c : Nat) : Nat × Flags := finish t m (fadd m (t.read a) (fneg (t.read b)))
def fmulEnc (t : Fmt) (m a b _c : Nat) : Nat × Flags := finish t m (fmul (t.read a) (t.read b))
def ffmaEnc (t : Fmt) (m a b c : Nat) : Nat × Flags := finish t m (ffma m (t.read a) (t.read b) (t.read c))

/-- FADD (R292). -/
def execFadd (f : Form) (s : State) : Host.Outcome State Fault Refusal := runFloat (.fadd f) f s 1 0 faddEnc

/-- FSUB (R292). -/
def execFsub (f : Form) (s : State) : Host.Outcome State Fault Refusal := runFloat (.fsub f) f s 1 0 fsubEnc

/-- FMUL (R292). -/
def execFmul (f : Form) (s : State) : Host.Outcome State Fault Refusal := runFloat (.fmul f) f s 1 0 fmulEnc

/-- FFMA (R292). -/
def execFfma (f : Form) (s : State) : Host.Outcome State Fault Refusal := runFloat (.ffma f) f s 1 1 ffmaEnc

/-- FMIN (R212). -/
def execFmin (f : Form) (s : State) : Host.Outcome State Fault Refusal :=
  runFloat (.fmin f) f s 1 0 fun t _ a b _ => fminmax t false a b

/-- FMAX (R212). -/
def execFmax (f : Form) (s : State) : Host.Outcome State Fault Refusal :=
  runFloat (.fmax f) f s 1 0 fun t _ a b _ => fminmax t true a b

/-- FCMP (R293). -/
def execFcmp (f : Form) (s : State) : Host.Outcome State Fault Refusal :=
  runCmp (.fcmp f) f s 1 fun a b => fcmpCond f.m64 ((fmtOf f.ty).read a.toNat) ((fmtOf f.ty).read b.toNat)

/-- FSEL (R293). -/
def execFsel (f : Form) (s : State) : Host.Outcome State Fault Refusal := runSelect (.fsel f) f s 1

/-- FSQRT (R292). -/
def execFsqrt (f : Form) (s : State) : Host.Outcome State Fault Refusal :=
  runFloat (.fsqrt f) f s 0 0 fun t m a _ _ => fsqrt t m (t.read a)

/-- FRND (R292). -/
def execFrnd (f : Form) (s : State) : Host.Outcome State Fault Refusal :=
  runFloat (.frnd f) f s 0 0 fun t m a _ _ => frnd t m (t.read a)

/-- FDIV (R292). -/
def execFdiv (f : Form) (s : State) : Host.Outcome State Fault Refusal :=
  runFloat (.fdiv f) f s 1 0 fun t m a b _ => fdiv t m (t.read a) (t.read b)

/-- FCLASS (R296). -/
def execFclass (f : Form) (s : State) : Host.Outcome State Fault Refusal :=
  runFloat (.fclass f) f s 0 0 fun t _ a _ _ => (fclass t a, 0)

/-! ### Approximate functions (R294, R295) -/

/-- Approximate function k. -/
def runApprox (i : Instr) (f : Form) (s : State) (k : Nat) : Host.Outcome State Fault Refusal :=
  runFloat i f s 0 0 fun t _ a _ _ => approxFn k t a

/-- FRCP (R294). -/
def execFrcp (f : Form) (s : State) : Host.Outcome State Fault Refusal := runApprox (.frcp f) f s 0

/-- FRSQ (R294). -/
def execFrsq (f : Form) (s : State) : Host.Outcome State Fault Refusal := runApprox (.frsq f) f s 1

/-- FEXP2 (R294). -/
def execFexp2 (f : Form) (s : State) : Host.Outcome State Fault Refusal := runApprox (.fexp2 f) f s 2

/-- FLOG2 (R294). -/
def execFlog2 (f : Form) (s : State) : Host.Outcome State Fault Refusal := runApprox (.flog2 f) f s 3

/-- FSIN (R294). -/
def execFsin (f : Form) (s : State) : Host.Outcome State Fault Refusal := runApprox (.fsin f) f s 4

/-- FCOS (R294). -/
def execFcos (f : Form) (s : State) : Host.Outcome State Fault Refusal := runApprox (.fcos f) f s 5

/-- FTANH (R294). -/
def execFtanh (f : Form) (s : State) : Host.Outcome State Fault Refusal := runApprox (.ftanh f) f s 6

/-! ### Conversions (R214, R297) -/

/-- An encoding of one format converted to another; `o` as R213 has it. A NaN sets NV. -/
def convEnc (d t : Fmt) (mode : Nat) (o : Over) (a : Nat) : Nat × Flags :=
  let v := t.read a
  let r := roundVal d mode o v
  (r.1, r.2 ||| flagIf v.isNan fNV)

/-- CVTF (R297). -/
def execCvtf (f : Form) (s : State) : Host.Outcome State Fault Refusal :=
  runFloat (.cvtf f) f s 0 0 fun t m a _ _ => convEnc t (fmtOf f.srcTy) m { sat := f.sat && f.ty = 8, nosat := f.sat && f.ty = 7 } a

/-- CVTFI (R297): clamps, and writes the integer under its type (R276). -/
def execCvtfi (f : Form) (s : State) : Host.Outcome State Fault Refusal :=
  runAlu (.cvtfi f) f s f.w64 1 0 0 fun a _ _ =>
    let r := toInt ((fmtOf f.srcTy).read a.toNat) f.rnd.toNat (intTyBits f.ty) (intTySigned f.ty)
    (intWrite f.ty r.1, r.2)

/-- CVTIF (R297). -/
def execCvtif (f : Form) (s : State) : Host.Outcome State Fault Refusal :=
  runAlu (.cvtif f) f s 1 (wTy f.srcTy) 0 0 fun a _ _ =>
    let r := roundVal (fmtOf f.ty) f.rnd.toNat .plain (ofInt (readInt a.toNat (intTyBits f.srcTy) (intTySigned f.srcTy)))
    (BitVec.ofNat 64 r.1, r.2)

/-! ### Paired halves (R298) -/

/-- Each half of words computed by a scalar form. -/
def pairEnc (t : Fmt) (g : Fmt → Nat → Nat → Nat → Nat → Nat × Flags) (mode a b c : Nat) : Nat × Flags :=
  let lo := g t mode (a % 65536) (b % 65536) (c % 65536)
  let hi := g t mode (a / 65536) (b / 65536) (c / 65536)
  (lo.1 + 65536 * hi.1, lo.2 ||| hi.2)

/-- A paired form of a format. -/
def runPair (i : Instr) (f : Form) (s : State) (wc : Nat) (t : Fmt) (g : Fmt → Nat → Nat → Nat → Nat → Nat × Flags) :
    Host.Outcome State Fault Refusal :=
  runFloat i f s 1 wc fun _ m a b c => pairEnc t g m a b c

/-- HPADD (R298). -/
def execHpadd (f : Form) (s : State) : Host.Outcome State Fault Refusal := runPair (.hpadd f) f s 0 fmtF16 faddEnc

/-- HPMUL (R298). -/
def execHpmul (f : Form) (s : State) : Host.Outcome State Fault Refusal := runPair (.hpmul f) f s 0 fmtF16 fmulEnc

/-- HPFMA (R298). -/
def execHpfma (f : Form) (s : State) : Host.Outcome State Fault Refusal := runPair (.hpfma f) f s 1 fmtF16 ffmaEnc

/-- BPADD (R298). -/
def execBpadd (f : Form) (s : State) : Host.Outcome State Fault Refusal := runPair (.bpadd f) f s 0 fmtBf16 faddEnc

/-- BPMUL (R298). -/
def execBpmul (f : Form) (s : State) : Host.Outcome State Fault Refusal := runPair (.bpmul f) f s 0 fmtBf16 fmulEnc

/-- BPFMA (R298). -/
def execBpfma (f : Form) (s : State) : Host.Outcome State Fault Refusal := runPair (.bpfma f) f s 1 fmtBf16 ffmaEnc

/-- HPMIN (R298). -/
def execHpmin (f : Form) (s : State) : Host.Outcome State Fault Refusal :=
  runPair (.hpmin f) f s 0 fmtF16 fun t _ a b _ => fminmax t false a b

/-- HPMAX (R298). -/
def execHpmax (f : Form) (s : State) : Host.Outcome State Fault Refusal :=
  runPair (.hpmax f) f s 0 fmtF16 fun t _ a b _ => fminmax t true a b

end Sys2Proof.Machine
end

