-- ==== Sys2Proof/Machine/SchedEvents.lean ====
section
/-! DEFINITION. A die's scheduler (R34): checks of head records (R131, R165), wait conditions (R35), placement (R36, R91,
R115), requests for room (R38). -/

namespace Sys2Proof.Machine

/-! ### The check of a head record (R34 step 1, R131, R165) -/

/-- Shape of a record by its own fields (R130, R131). -/
def recShapeBad (b : List Byte) : Bool :=
  let wk := recWkind b
  let wa := recWaddr b
  decide (recGangs b = 0) || decide (2 ^ 24 ≤ recGangs b) || decide (recWpg b = 0) || decide (4 < recWpg b) || decide (recSpw b = 0) ||
    decide (64 < recSpw b) || decide (recBase b = 0) || decide (32 < recBase b) || decide (496 < recSpw b * recBase b) ||
    decide (0xC0000 < recField b 32 4) || decide (recField b 36 1 = 0) || decide (15 < recField b 36 1) || decide (7 < recField b 37 1) ||
    decide (wk = 3) || decide (recField b 38 2 ≠ 0) || decide (recField b 72 56 ≠ 0) || decide (recField b 0 8 % 4 ≠ 0) ||
    decide (2 ^ 48 ≤ recField b 0 8) || (wk == 1 && decide (wa.toNat % 8 ≠ 0)) || (wk == 2 && decide (wa.toNat % 16 ≠ 0)) ||
    (wk != 0 && decide (2 ^ 48 ≤ wa.toNat)) || (wk == 0 && (wa != 0 || recWval b != 0))

/-- FEAT names a feature that the device lacks. -/
def featBad (s : State) (b : List Byte) : Bool :=
  (BitVec.ofNat 128 (recField b 8 16) &&& ~~~(s.cap1 ++ s.cap0)) != 0

/-- The descriptor of an ENTRY among n from a pointer on: `none` where the table cannot be read, `some none` where it has none. -/
def findDesc (s : State) (die : Nat) (c : Ctx) (entry : Nat) : Nat → DWord → Option (Option (List Byte))
  | 0, _ => some none
  | n + 1, p =>
    match virtWhole s die c p 128, findDesc s die c entry n (ptrAdd p 128) with
    | some d, some r => some (if recField d 0 8 = entry then some d else r)
    | _, _ => none

/-- A descriptor that breaks R164. -/
def descBad (d : List Byte) : Bool :=
  let rp := recField d 104 8
  decide (recField d 24 1 = 0) || decide (32 < recField d 24 1) || decide (15 < recField d 25 1) || decide (32 < recField d 26 1) ||
    decide (recField d 27 1 ≠ 0) || decide (recField d 34 2 ≠ 0) || decide (recField d 100 4 ≠ 0) || decide (recField d 112 16 ≠ 0) ||
    decide (rp % 128 ≠ 0) || decide (2 ^ 60 ≤ rp) || (decide (recField d 26 1 = 0) && decide (rp ≠ 0)) ||
    (List.range 16).any fun n => (recField d 32 2).testBit n && tcBad (BitVec.ofNat 32 (recField d (36 + 4 * n) 4))

/-- The tile configuration presets of a descriptor. -/
def descTc (d : List Byte) : SMap Word :=
  (List.range 16).foldl (fun m n => if (recField d 32 2).testBit n then sset 0 m n (BitVec.ofNat 32 (recField d (36 + 4 * n) 4)) else m) []

/-- Region presets from number i on, n of them; none where one cannot be read, breaks R145 or R146 (R165 names R146 only: log 66) or
meets another's window. Slot 0 stands for the slot that a record of a preset bound PRESENT names: no fill of it ever starts, so
R148 names none (log 65). -/
def descRegions (s : State) (die : Nat) (c : Ctx) (scr : Nat) (rp : DWord) : Nat → Nat → List (Nat × Region) → Option (List (Nat × Region))
  | _, 0, acc => some acc
  | i, n + 1, acc =>
    match (virtWhole s die c (ptrAdd rp (128 * i : Nat)) 128).bind fun b => regionFrom scr b 0 true with
    | none => none
    | some r =>
      if acc.any fun p => overlap p.2.wbase (regionBytes p.2) r.wbase (regionBytes r) then none
      else descRegions s die c scr rp (i + 1) n (acc ++ [(i, r)])

/-- The presets of a record (R165): none where its descriptor fails it. -/
def presetsOf (s : State) (die : Nat) (c : Ctx) (b : List Byte) : Option (SMap Word × List (Nat × Region)) :=
  match findDesc s die c (recField b 0 8) c.kdtcnt c.kdtbase with
  | none => none
  | some none => some ([], [])
  | some (some d) =>
    if descBad d then none
    else (descRegions s die c (recScr b) (BitVec.ofNat 64 (recField d 104 8)) 0 (recField d 26 1) []).map fun r => (descTc d, r)

/-- The pages of a range that a scheduler or management core reads enter its die's TLB (R102). -/
def touchRange (s : State) (die : Nat) (c : Ctx) (va n : Nat) : State := (pageParts va n).foldl (fun s q => tlbTouch s die c q.1) s

/-- The pages that the look for a record's presets reads. -/
def presetsTouch (s : State) (die : Nat) (c : Ctx) (b : List Byte) : State :=
  let s1 := touchRange s die c (ptrVa c.kdtbase) (128 * c.kdtcnt)
  match findDesc s die c (recField b 0 8) c.kdtcnt c.kdtbase with
  | some (some d) => if descBad d then s1 else touchRange s1 die c (recField d 104 8) (128 * recField d 26 1)
  | _ => s1

/-- The head of a queue leaves it. -/
def dropHead (s : State) (q : Nat) : State := { s with queues := amod s.queues q List.tail }

/-- The head of a queue changed. -/
def modHead (s : State) (q : Nat) (f : QRec → QRec) : State :=
  { s with queues := amod s.queues q fun l => match l with | r :: t => f r :: t | [] => [] }

/-- The tag that DETAIL records of a launch record's failed check (R137): that of the checked word's granule, for a tag cause. -/
def launchDetail (s : State) (c : Ctx) (k : Cause) (addr : DWord) : Word :=
  if k = .tagLd ∨ k = .tagSt then
    match pageNow s 0 c (ptrVa addr) with
    | .present e _ => (homeTag s e (paOf e (ptrVa addr) / 32)).setWidth 32
    | .absent _ _ => 0
  else 0

/-- A record of a launch record (R137, R361): it is record-only and names no lane. -/
def launchRec (s : State) (cn : Nat) (k : Cause) (flags : Nat) (compl addr : DWord) : State :=
  faultRecord s cn
    { cause := k, flags := flagImpr + flagLaunch + flags, gang := 0, wg := 0, strand := 0, lane := 0, word := 0, pc := 0, addr := addr,
      detail := ((aget s.ctxs cn).map fun c => launchDetail s c k addr).getD 0, core := Config.unstated s.freeCnt 0, compl := compl }

/-- The first check of a head record: completion block, shape, features (R131). -/
def headCheck (s : State) (q : Nat) (r : QRec) (c : Ctx) : State :=
  let die := q / 64
  match complCheck s die c (recCompl r.raw) with
  | some k => launchRec (dropHead s q) c.num k 0 (recCompl r.raw) (recCompl r.raw)
  | none =>
    if recShapeBad r.raw then dropHead (complRemove s die c r 0x40) q
    else
      let found := presetsOf s die c r.raw
      let s := presetsTouch s die c r.raw
      match found with
      | none => dropHead (complRemove s die c r 0x40) q
      | some (tc, regs) =>
        if featBad s r.raw then dropHead (complRemove s die c r 0x14) q
        else
          let s1 := (virtWrite s die c (ptrAdd (recCompl r.raw) 8) (natBytes 0 8)).getD s
          modHead s1 q fun r => { r with checked := true, tc := tc, regions := regs }

/-! ### Wait conditions (R34 step 2, R35) -/

/-- A context of the named set: the waiting context, or one of its domain group. -/
def namedCtx (s : State) (c : Ctx) (n : Nat) : Bool :=
  decide (n = c.num) || (c.dgroup != 0 && (aget s.ctxs n).any fun d => d.dgroup == c.dgroup)

/-- The phases of a gang's workgroups that take part in a floor. -/
def gangPhases (s : State) (g : Gang) : List Nat :=
  (List.range (recWpg g.raw)).filterMap fun w => (wgCore s g w).bind fun x => (leadVal x).map (·.toNat)

/-- The phases that take part in the domain phase floor of the launch that a block names. -/
def floorPhases (s : State) (c : Ctx) (compl : DWord) : List Nat :=
  let here := ((s.gangs.filter fun g => recCompl g.2.raw == compl && namedCtx s c g.2.ctx).map fun g => gangPhases s g.2).flatten
  let queued := (s.queues.map fun q => (q.2.filter fun r => recCompl r.raw == compl && namedCtx s c r.ctx).map fun _ => 0).flatten
  let far := (s.floors.filter fun f => c.dgroup != 0 && f.compl = compl.toNat && f.dgroup = c.dgroup.toNat).map fun f =>
    (f.floor.map (·.toNat)).toList ++ (if f.queued then [0] else [])
  here ++ queued ++ far.flatten

/-- What a record's wait condition gives. -/
inductive WLook where
  | met
  | unmet
  | absent
  | bad (k : Cause)
  deriving DecidableEq, Repr

def waitLook (s : State) (die : Nat) (r : QRec) (c : Ctx) : WLook :=
  let k := recWkind r.raw
  if k = 1 then
    (if r.waitWalk.isSome then .unmet
     else
       match virtRead s die c (recWaddr r.raw) 8 with
       | .error .pageAbsent => .absent
       | .error k => .bad k
       | .ok (b, p) => if p then .bad .poisonUse else if (recWval r.raw).toNat ≤ bytesNat b then .met else .unmet)
  else if k = 2 then (if (floorPhases s c (recWaddr r.raw)).all fun p => decide ((recWval r.raw).toNat ≤ p) then .met else .unmet)
  else .met

/-- A record whose counter cannot be read is removed with WAIT_FAULT (R35). -/
def waitFault (s : State) (q : Nat) (r : QRec) (c : Ctx) (k : Cause) (flags : Nat) : State :=
  launchRec (dropHead (complRemove s (q / 64) c r 0x42) q) c.num k flags (recCompl r.raw) (recWaddr r.raw)

/-- A head of the die is looked at: its first check, and what its wait condition leads to. -/
def lookHead (s : State) (q : Nat) : State :=
  match ((aget s.queues q).getD []).head? with
  | none => s
  | some r =>
    match aget s.ctxs r.ctx with
    | none => s
    | some c =>
      if c.st ≠ .live then s
      else if !r.checked then headCheck s q r c
      else
        let look := waitLook s (q / 64) r c
        let s := if recWkind r.raw = 1 then tlbTouch s (q / 64) c (ptrVa (recWaddr r.raw)) else s
        match look with
        | .absent =>
          let w := startWalk s (q / 64) c.num (ptrVa (recWaddr r.raw)) false false false
          modHead { w.2 with walks := w.2.walks.map fun v => if v.id = w.1 then { v with sched := true } else v } q
            fun r => { r with waitWalk := some w.1 }
        | .bad k => waitFault s q r c k 0
        | _ => s

/-! ### Candidates (R25, R34 steps 3 and 4) -/

/-- What competes for cores: a SAVED gang, or the head record of a queue. -/
inductive Bidder where
  | gang (gid : Nat)
  | record (q : Nat)
  deriving DecidableEq, Repr

/-- A candidate with what orders it: a migrating gang first, then by priority, then a SAVED gang, then by `ord`. -/
structure Comp where
  what : Bidder
  moving : Bool
  prio : Nat
  ord : Nat
  deriving DecidableEq, Repr

def Bidder.isGang : Bidder → Bool
  | .gang _ => true
  | .record _ => false

def compFirst (a b : Comp) : Bool :=
  if a.moving != b.moving then a.moving
  else if a.prio ≠ b.prio then decide (b.prio < a.prio)
  else if a.what.isGang != b.what.isGang then a.what.isGang
  else decide (a.ord < b.ord)

def insComp (a : Comp) : List Comp → List Comp
  | [] => [a]
  | b :: t => if compFirst a b then a :: b :: t else b :: insComp a t

/-- The SAVED gangs that may be placed on a die. -/
def savedComps (s : State) (die : Nat) : List Comp :=
  s.gangs.filterMap fun p =>
    if p.2.st = .saved ∧ p.2.cores = [] ∧ gangLive s p.2 ∧ (p.2.die = die ∨ recSpan p.2.raw) then
      some { what := .gang p.1, moving := p.2.target.isSome, prio := p.2.prio, ord := p.2.order }
    else none

/-- The checked heads whose wait is met and whose gangs may be placed on a die; round-robin within a priority. -/
def recComps (s : State) (die : Nat) : List Comp :=
  s.queues.filterMap fun p =>
    match p.2.head? with
    | none => none
    | some r =>
      match aget s.ctxs r.ctx with
      | none => none
      | some c =>
        if c.st = .live ∧ r.checked ∧ (p.1 / 64 = die ∨ recSpan r.raw) ∧ waitLook s (p.1 / 64) r c = .met then
          some { what := .record p.1, moving := false, prio := r.prio, ord := (p.1 + 128 - sget 0 s.rr (die * 256 + r.prio)) % 128 }
        else none

def comps (s : State) (die : Nat) : List Comp := (savedComps s die ++ recComps s die).foldr insComp []

/-! ### Cores (R36, R38, R115) -/

/-- A core is free for a requester: free, and kept for nobody else (R38). -/
def coreFreeFor (s : State) (who c : Nat) : Bool :=
  match aget s.want c with
  | none => coreFree s c
  | some w => w = who && coreFree { s with want := [] } c

/-- Some gang on a cluster, other than gid, holds a ticket (R115). -/
def ticketHeld (s : State) (gid cl : Nat) (tk : Word) : Bool :=
  s.gangs.any fun h => h.1 ≠ gid && h.2.ticket == tk && h.2.cores.any (· / 4 = cl)

/-- The clusters of a die. -/
def dieClusters (die : Nat) : List Nat := (List.range 32).map (32 * die + ·)

/-- The lowest free cores of a cluster for a requester, w of them, when it has as many. -/
def roomIn (s : State) (who w cl : Nat) : Option (List Nat) :=
  let l := ((clusterCores cl).filter (coreFreeFor s who)).take w
  if l.length = w then some l else none

/-- Cores for a requester on the first of some clusters that has room. -/
def findRoom (s : State) (who w : Nat) (ok : Nat → Bool) (cls : List Nat) : Option (List Nat) :=
  cls.findSome? fun cl => if ok cl then roomIn s who w cl else none

/-! ### Room by pre-emption (R38) -/

/-- The sublists of a list. -/
def subs {α : Type} : List α → List (List α)
  | [] => [[]]
  | a :: t => subs t ++ (subs t).map (a :: ·)

/-- The gangs of a cluster that a requester of priority p may pre-empt. -/
def victimsOf (s : State) (p cl : Nat) : List Gang :=
  (s.gangs.filter fun g => maySave s g.2 && decide (g.2.prio < p) && g.2.cores.any (· / 4 = cl)).map (·.2)

def topPrio (l : List Gang) : Nat := l.foldl (fun m g => max m g.prio) 0

/-- Sets of victims that would free w cores: cluster and victims. -/
def victimSets (s : State) (who w p : Nat) (cls : List Nat) : List (Nat × List Gang) :=
  (cls.map fun cl =>
    if s.withdrawn.contains cl || (s.ftest.any fun t => t.cluster = cl && t.running) then []
    else
      let free := ((clusterCores cl).filter (coreFreeFor s who)).length
      ((subs (victimsOf s p cl)).filter fun l => !l.isEmpty && decide (w ≤ free + (l.map fun g => g.cores.length).sum)).map fun l => (cl, l)).flatten

def setFirst (a b : Nat × List Gang) : Bool :=
  if topPrio a.2 ≠ topPrio b.2 then decide (topPrio a.2 < topPrio b.2)
  else if a.2.length ≠ b.2.length then decide (a.2.length < b.2.length)
  else decide (a.1 < b.1)

/-- The victims are asked to be saved; their cores, and as many free ones as the requester needs, are kept for it. -/
def preempt (s : State) (who w : Nat) (v : Nat × List Gang) : State :=
  let theirs := (v.2.map (·.cores)).flatten
  let free := ((clusterCores v.1).filter fun c => coreFreeFor s who c && (aget s.want c).isNone).take (w - theirs.length)
  let s1 := v.2.foldl (fun s g => modGang s g.gid fun g => { g with st := .saving, since := s.clock.toNat, target := none }) s
  keepCores s1 who (theirs ++ free)

/-- A candidate that cannot be placed asks for room once (R38). -/
def askRoom (s : State) (who w p : Nat) (ok : Nat → Bool) (cls : List Nat) : State :=
  if w ≤ (s.want.filter fun k => k.2 = who).length then s
  else
    match (victimSets s who w p (cls.filter ok)).foldl (fun (b : Option (Nat × List Gang)) v => match b with
        | none => some v
        | some u => if setFirst v u then some v else some u) none with
    | none => s
    | some v => preempt s who w v

/-! ### Placing a gang (R18, R32, R36) -/

/-- Spill-area indices that strands of a context hold. -/
def spillUsed (s : State) (ctx : Nat) : List Nat :=
  ((s.cores.map fun p => if (gangOf s p.2).any fun g => g.ctx = ctx then p.2.strands.map fun q => q.2.spill else []).flatten) ++
    (s.gangs.map fun g => if g.2.ctx = ctx then (g.2.saved.map fun x => x.strands.map fun q => q.2.spill).flatten else []).flatten

/-- The n lowest free spill-area indices of a context, none when fewer than n of the 16,384 are free. -/
def spillFree (s : State) (ctx n : Nat) : Option (List Nat) :=
  let u := spillUsed s ctx
  if u.length + n ≤ 16384 then some (firstFree (fun k => !u.contains k) n (u.length + n)) else none

/-- Workgroup wg of a new gang on a core: its strands have names from `id` on and spill-area indices from `sp`. -/
def placeCore (s : State) (gid wg c id : Nat) (r : QRec) (cx : Ctx) (sp : List Nat) : State :=
  let b := recBase r.raw
  let strand (i : Nat) : Nat × Strand :=
    (i, newStrand (id + 2 * i) (id + 2 * i + 1) b ((List.range b).map (b * i + ·)) (recEntry r.raw) r.prio (recArg r.raw) (sp.getD i 0))
  let x := { newCore gid wg ((List.range (recSpw r.raw)).map strand) (sget 0 s.segs c) cx.trapctl with tc := r.tc, regions := r.regions }
  (List.range (recSpw r.raw)).foldl (fun s i => fire (fire s .frameAlloc c (id + 2 * i + 1)) .strandCreate c i) (setCore s c x)

/-- A ticket that no gang of the cluster holds; a drawn one that is held is drawn again (R24, R115). -/
def drawTicket (s : State) (cl : Nat) : Nat → Option Word
  | 0 => none
  | k + 1 =>
    let t := Config.ticket (8 * s.freeCnt + k)
    if ticketHeld s s.nextId cl t then drawTicket s cl k else some t

/-- The next gang of a record is placed on cores (R36): GANG_PLACE once every strand exists. -/
def placeGang (s : State) (die q : Nat) (r : QRec) (cx : Ctx) (cs : List Nat) (tk : Word) (sp : List Nat) : State :=
  let gid := s.nextId
  let spw := recSpw r.raw
  let g : Gang := { gid := gid, rid := r.rid, ctx := r.ctx, index := r.next, raw := r.raw, prio := r.prio, st := .placed, ticket := tk,
                    die := die, cores := cs, ended := [], saved := [], order := 0, target := none, since := 0 }
  let s1 : State := { s with nextId := gid + 1 + 2 * spw * cs.length, gangs := aput s.gangs gid g }
  let s2 := cs.zipIdx.foldl (fun s p => placeCore s gid p.2 p.1 (gid + 1 + 2 * spw * p.2) r cx (sp.drop (spw * p.2))) s1
  let s3 := cs.zipIdx.foldl (fun s p => modCore s p.1 fun x => { x with leadv := loadLead s g p.2 }) s2
  let s4 := fire s3 .gangPlace gid 0
  let s5 := (List.range cs.length).foldl (fun s w => tellPhase s g w (some 0)) s4
  let s6 := modHead { s5 with want := s5.want.filter fun k => k.2 ≠ 2 * r.rid, rr := sset 0 s5.rr (die * 256 + r.prio) (q + 1) } q
    fun r => { r with next := r.next + 1 }
  if r.next + 1 = recGangs r.raw then dropHead s6 q else s6

/-- A SAVED gang is given cores, on which RESUME_RESTORE restores it. -/
def placeSaved (s : State) (gid : Nat) (cs : List Nat) : State :=
  modGang { s with want := s.want.filter fun k => k.2 ≠ 2 * gid + 1 } gid fun g => { g with cores := cs, die := dieOf (cs.headD 0) }

/-- A candidate is placed (true), or is not; where no die that it may use has room, it asks for room (R38). -/
def tryComp (s : State) (die : Nat) (c : Comp) : State × Bool :=
  match c.what with
  | .gang gid =>
    match aget s.gangs gid with
    | none => (s, false)
    | some g =>
      let w := g.saved.length
      let ok (cl : Nat) : Bool := !ticketHeld s gid cl g.ticket
      let mine := g.target.toList ++ dieClusters die
      let both := if recSpan g.raw then dieClusters 0 ++ dieClusters 1 else dieClusters g.die
      match findRoom s (2 * gid + 1) w ok mine with
      | some cs => (placeSaved s gid cs, true)
      | none => (if (findRoom s (2 * gid + 1) w ok both).isSome then s else askRoom s (2 * gid + 1) w g.prio ok both, false)
  | .record q =>
    match ((aget s.queues q).getD []).head? with
    | none => (s, false)
    | some r =>
      match aget s.ctxs r.ctx with
      | none => (s, false)
      | some cx =>
        let w := recWpg r.raw
        match spillFree s r.ctx (w * recSpw r.raw), findRoom s (2 * r.rid) w (fun _ => true) (dieClusters die) with
        | some sp, some cs =>
          (match drawTicket s (cs.headD 0 / 4) 8 with
           | some tk => (placeGang s die q r cx cs tk sp, true)
           | none => (s, false))
        | some _, none =>
          let both := if recSpan r.raw then dieClusters 0 ++ dieClusters 1 else dieClusters (q / 64)
          (if (findRoom s (2 * r.rid) w (fun _ => true) both).isSome then s
           else askRoom s (2 * r.rid) w r.prio (fun _ => true) (dieClusters (q / 64)), false)
        | none, _ => (s, false)

/-- The candidates in their order, up to the first that is placed. -/
def tryComps (die : Nat) : State → List Comp → State
  | s, [] => s
  | s, c :: t =>
    match tryComp s die c with
    | (s1, true) => s1
    | (s1, false) => tryComps die s1 t

/-- A requester is still there: the record is queued, or the gang is being moved or SAVED. -/
def wanted (s : State) (who : Nat) : Bool :=
  if who % 2 = 0 then s.queues.any fun q => q.2.any fun r => r.rid = who / 2
  else (aget s.gangs (who / 2)).any fun g => g.st == .saved || (g.st == .saving && g.target.isSome)

/-- Cores kept for a requester that is gone, or in a cluster that is withdrawn, are kept no longer. -/
def cleanWant (s : State) : State := { s with want := s.want.filter fun k => wanted s k.2 && !s.withdrawn.contains (k.1 / 4) }

/-- Gangs that still stand on withdrawn clusters are asked to move off them, as far as they can be (R371). -/
def clearWithdrawn (s : State) : State := s.withdrawn.foldl (fun s cl => moveAll s (clusterCores cl)) s

/-- SCHED_STEP (R34): the heads of the die's queues are looked at, then one candidate is placed. -/
def execSchedStep (die : Nat) (s : State) : Result :=
  onRun s (if s.ctl.ready && !s.ctl.stopped && decide (die < 2) then
      let s1 := ((List.range 64).map (64 * die + ·)).foldl lookHead (cleanWant (clearWithdrawn s))
      tryComps die s1 (comps s1 die)
    else s)

end Sys2Proof.Machine
end

