-- ==== Sys2Proof/Machine/GangEvents.lean ====
section
/-! DEFINITION. A gang is saved, restored and drained (R39, R40, R90, R91, R117), and the floors that other devices report
(R34, R35). -/

namespace Sys2Proof.Machine

/-! ### PREEMPT_SAVE (R39) -/

/-- A strand stands where a save may take it (R39 step 1). -/
def strandStopped (live : Bool) (st : Strand) : Bool :=
  (betweenInstrs st || (match st.hold with | some h => (match h.k with | .sleep _ => true | _ => false) | none => false)) &&
    (!live || !st.nopre || st.stopped) && st.out.isEmpty

/-- Every strand of a core has stopped and its engines are done (R39 steps 1 to 3, R43). -/
def coreStopped (s : State) (c : Nat) (x : Core) (live : Bool) : Bool :=
  (x.strands.all fun p => strandStopped live p.2) && !(live && (trapHead x).isSome && decide (0 < hFree x)) &&
    x.ops.isEmpty && x.cpas.isEmpty && x.sq.isEmpty && (match x.pst with | .publishing _ _ => false | _ => true) &&
    (x.jobs.all fun j => match j.k with | .fill _ => true | .trial _ => true | _ => false) &&
    (x.regions.all fun r => r.2.flush.isEmpty) &&
    !(s.msgs.any fun m => match m.2 with | .gbar d _ _ _ => d = c | .str d _ _ _ _ src _ _ => d = c || src = c | .phase _ _ _ _ _ => false) &&
    !(s.remote.any fun r => r.core = c)

/-- A strand as it is saved: its granules and handler frame freed, a sleep ended, a trial run on by k examples, in which words may
mismatch twice (R21, R90, R367). -/
def saveStrand (x : Core) (k : Nat) (st : Strand) : Strand :=
  let st1 := match st.trial with
    | some t => let r := trialRun x st t t.bad k; { r.1 with trial := some r.2 }
    | none => st
  let st2 := match st1.hold with
    | some h => (match h.k with | .sleep _ => advLanes { st1 with hold := none } h.mask h.len | _ => { st1 with hold := none })
    | none => st1
  { st2 with frames := st2.frames.map (fun f => { f with phys := [] }), age := 0, eff := if st2.handler.isSome then 255 else st2.prio }

/-- A workgroup as it is saved. -/
def saveCore (k idx : Nat) (x : Core) : Core :=
  { x with strands := x.strands.map (fun p => (p.1, saveStrand x k p.2)), ic := [], pins := [], quiet := 0, saveIdx := idx,
           resv := 0, pend := [], jobs := [] }

/-- The lowest free save indices of a context, n of them (R32). -/
def saveFree (s : State) (ctx n : Nat) : List Nat :=
  let u := saveUsed s ctx
  firstFree (fun k => !u.contains k) n (u.length + n)

/-- Words that mismatch twice in the examples of a core's trials before they stop are counted (R367). -/
def countSaved (k : Nat) (s : State) (p : Nat × Core) : State :=
  p.2.strands.foldl (fun s q => match q.2.trial with | some t => countTrial s p.1 q.1 p.2 t t.bad k | none => s) s

/-- The gang's state is saved as its strands have stopped, its cores are free (R39 steps 4 and 5). -/
def saveGang (s : State) (g : Gang) (cx : Ctx) (k : Nat) (idx : List Nat) (xs : List Core) : State :=
  let die := dieOf (g.cores.headD 0)
  let saved := xs.zipIdx.map fun p => saveCore k (idx.getD p.2 0) p.1
  let s0 := (g.cores.zip xs).foldl (countSaved k) s
  let s1 := saved.foldl (fun s x => writeCore s die cx (recScr g.raw) x.saveIdx x) s0
  let s2 := modGang { s1 with nextId := s1.nextId + 1 } g.gid fun g => { g with st := .saved, cores := [], saved := saved, order := s1.nextId }
  let s3 := fire { s2 with cores := s2.cores.filter fun p => p.2.gid ≠ g.gid } .preemptSave g.gid 0
  protectZero s3 cx.prot g.cores

/-- PREEMPT_SAVE (R39): the store queues drain; when every strand has stopped, the engines are done and the private region
has its pages, the gang is saved. `examples`: how many more examples a trial under way runs before it stops (R21). -/
def execPreemptSave (gid examples : Nat) (s : State) : Result :=
  onRun s (match aget s.gangs gid with
    | none => s
    | some g =>
      match aget s.ctxs g.ctx with
      | none => s
      | some cx =>
        if g.st ≠ .saving ∨ (cx.st ≠ .live ∧ cx.st ≠ .halted) then s
        else
          let s1 := g.cores.foldl storeDrainAll s
          let xs := g.cores.filterMap (getCore s1)
          if !(g.cores.all fun c => ((getCore s1 c).map fun x => coreStopped s1 c x (cx.st == .live)).getD false) then s1
          else
            let idx := saveFree s1 g.ctx xs.length
            let ranges := (xs.zipIdx.map fun p => coreRanges cx (recScr g.raw) (idx.getD p.2 0) p.1).flatten
            let miss := privMissing s1 (dieOf (g.cores.headD 0)) cx ranges
            if !miss.isEmpty then privGrow s1 (dieOf (g.cores.headD 0)) cx miss
            else if 32768 < (saveUsed s1 g.ctx).length + xs.length then s1
            else saveGang s1 g cx examples idx xs)

/-! ### RESUME_RESTORE (R39, R91, R166) -/

/-- Words of scratchpad, code bank and tile file that a poisoned granule of the save area gives back poisoned. -/
def struckCore (s : State) (die : Nat) (cx : Ctx) (x : Core) : Core :=
  let a := saveVa cx x.saveIdx
  let part (off n : Nat) : List Nat := (recordPoisoned s die cx (a + off) n).map (·.1)
  let words (base : Nat) (l : List Nat) : List Nat := (l.map fun g => (List.range 8).map (base + 8 * g + ·)).flatten
  let x1 := { x with lpois := (words 0 (part 0 0xE0000)).foldl (fun m w => sset false m w true) x.lpois }
  { x1 with tiles := (words 0 (part 0xE0000 0x40000)).foldl (fun m w => sset RVal.zero m w { (sget RVal.zero m w) with p := true }) x1.tiles }

/-- The granules of a strand's resident frames, from number n on: the frames, and the next number. -/
def retakeFrames : Nat → List Frame → List Frame × Nat
  | n, [] => ([], n)
  | n, f :: t =>
    if f.res then (let r := retakeFrames (n + f.gran) t; ({ f with phys := (List.range f.gran).map (n + ·) } :: r.1, r.2))
    else (let r := retakeFrames n t; (f :: r.1, r.2))

/-- A strand as it is restored: its resident frames and handler frame come from their records. A strand saved BLOCKED keeps the
time at which it blocked, which runs on while its gang is SAVED (log 26). -/
def restoreStrand (s : State) (die : Nat) (cx : Ctx) (st : Strand) : Strand :=
  let fs := st.frames.zipIdx.map fun p => if p.1.res then restored s die cx st p.2 p.1 else p.1
  let va := handlerVa cx st
  let bad := (recordPoisoned s die cx (cx.privbase + 2 ^ 22 * st.spill) 0x800).map (·.1)
  let hd := st.handler.map fun h =>
    { h with regs := struckRegs 4 (storedRegs s die cx va 4 h.regs) (recordPoisoned s die cx va (granBytes 4)), k := struckBank h.k bad 56 8 1288 }
  { st with frames := fs, handler := hd, k := struckBank st.k bad 0 64 1024, stopped := false, age := 0, bnd := !st.due.isEmpty }

/-- Strands in slot order take granules from number n on and handler frames from number h on. -/
def retake : Nat → Nat → List (Nat × Strand) → List (Nat × Strand)
  | _, _, [] => []
  | n, h, (sl, st) :: t =>
    let r := retakeFrames n st.frames
    (sl, { st with frames := r.1, handler := st.handler.map fun k => { k with idx := h } }) ::
      retake r.2 (if st.handler.isSome then h + 1 else h) t

/-- The held segments of a workgroup are numbered on from those of its new core. -/
def rebaseSegs (base : Nat) (x : Core) : Core :=
  let nv := x.held.filter fun p => p.2.nv
  let low := (nv.map fun p => p.2.dirty.map (·.seg)).flatten.foldl min x.seg
  let move (h : HLine) : HLine := if h.nv then { h with dirty := h.dirty.map fun d => { d with seg := base + (d.seg - low) } } else h
  { x with held := x.held.map (fun p => (p.1, move p.2)), seg := base + (x.seg - low) }

/-- A job as it is registered again. The fill of a region belongs to no instruction after a restore; R148 gives its records no
PC then, and the model writes 0 (log 67). -/
def againJob (x : Core) (id slot : Nat) (k : JobK) (e : REnt) : Job :=
  { id := id, slot := slot, sid := ((aget x.strands slot).map (·.sid)).getD 0, pc := 0, ents := [e], k := k, sent := false,
    raced := false, wait := none, at_ := (0, 0), refused := [] }

/-- Fills of FILLING entries go on with the missing chunks in ascending order, and trials under way hold their banks (R166). -/
def againJobs (s : State) (c : Nat) (x : Core) : State :=
  let ent (wr : Bool) (ch : Option Nat) (b l : Nat) : REnt :=
    { space := 0, write := wr, chunked := ch, base := b, len := l, tmask := 0, twmask := 0 }
  let fills := (x.regions.filter fun p => p.2.st == .filling).map fun p =>
    (p.2.binder, JobK.fill p.1, ent true (some p.1) p.2.wbase (regionBytes p.2))
  let trials := x.strands.filterMap fun p => p.2.trial.map fun t => (p.1, JobK.trial t.port, ent false none (bankBase t.port) 0x8000)
  let asc (r : Region) : Region := if r.st = .filling then { r with order := (List.range (r.nchk + 1)).filter fun k => !r.bitmap.getLsbD k } else r
  let s1 := modCore s c fun y => { y with regions := y.regions.map fun p => (p.1, asc p.2) }
  (fills ++ trials).foldl (fun s j =>
    fire (modCore { s with nextId := s.nextId + 1 } c fun y => { y with jobs := y.jobs ++ [againJob y s.nextId j.1 j.2.1 j.2.2] })
      .rangeRegister c s.nextId) s1

/-- A saved workgroup is restored on a core. -/
def restoreCore (s : State) (cx : Ctx) (scr : Nat) (x : Core) (c : Nat) : State :=
  let die := dieOf c
  let x1 := rebaseSegs (sget 0 s.segs c) (struckCore s die cx (readArea s die cx scr x))
  let x2 := { x1 with strands := retake 0 0 (x1.strands.map fun p => (p.1, restoreStrand s die cx p.2)), saveIdx := 0 }
  againJobs (setCore { s with segs := sset 0 s.segs c x2.seg } c x2) c x2

/-- What the saved state of the strands of a core leads to: strands without a live lane exit (R141), arrivals that are
complete count, the lead test is made again. -/
def wakeCore (s : State) (c : Nat) : State :=
  match getCore s c with
  | none => s
  | some x =>
    let s1 := x.strands.foldl (fun s p => if liveMask p.2 = 0 then strandExit s c p.1 else settleBars s c p.1) s
    tryLead (tryPhase s1 c) c

/-- Some core given to a SAVED gang lies in a cluster withdrawn since. -/
def coresGone (s : State) (g : Gang) : Bool := g.cores.any fun c => s.withdrawn.contains (c / 4)

/-- RESUME_RESTORE (R39, R91): a SAVED gang that has been given cores is restored there, once its pages are at hand. One whose cluster
has been withdrawn since is placed anew (R371). -/
def execResumeRestore (gid : Nat) (s : State) : Result :=
  onRun s (match aget s.gangs gid with
    | none => s
    | some g =>
      match aget s.ctxs g.ctx with
      | none => s
      | some cx =>
        if g.st ≠ .saved ∨ g.cores = [] then s
        else if cx.st ≠ .live ∨ coresGone s g then modGang s gid fun g => { g with cores := [] }
        else
          let die := dieOf (g.cores.headD 0)
          let ranges := (g.saved.map fun x => coreRanges cx (recScr g.raw) x.saveIdx x).flatten
          let miss := privMissing s die cx ranges
          if !miss.isEmpty then privGrow s die cx miss
          else
            let s1 := (g.saved.zip g.cores).foldl (fun s p => restoreCore s cx (recScr g.raw) p.1 p.2) s
            let s2 := modGang s1 gid fun g => { g with st := .placed, saved := [], target := none }
            let s3 := fire s2 .resumeRestore gid 0
            let s4 := g.saved.foldl (fun s x => tellPhase s g x.wg (leadVal x)) s3
            g.cores.foldl wakeCore s4)

/-! ### DRAIN_DONE (R40) -/

/-- Every acknowledgement of a core of a DRAINING gang has arrived; a copy-out that waits behind a fill is still to be made
(R40, R330). -/
def coreDrained (s : State) (c : Nat) (x : Core) : Bool :=
  x.pst == .ended && x.ops.isEmpty && x.cpas.isEmpty && x.sq.isEmpty &&
    (x.jobs.all fun j => match j.k with | .fill _ => true | _ => false) && (x.regions.all fun r => r.2.flush.isEmpty) &&
    !(s.msgs.any fun m => match m.2 with | .str d _ _ _ _ src _ _ => d = c || src = c | _ => false) && !(s.remote.any fun r => r.core = c)

/-- DRAIN_DONE (R40): the completion counter rises by 1, and the cores are free. -/
def execDrainDone (gid : Nat) (s : State) : Result :=
  onRun s (match aget s.gangs gid with
    | none => s
    | some g =>
      match aget s.ctxs g.ctx with
      | none => s
      | some cx =>
        if g.st = .draining ∧ cx.st = .live ∧ (g.cores.all fun c => ((getCore s c).map fun x => coreDrained s c x).getD false) then
          let s1 := fire (complAdd s g.die cx (recCompl g.raw) 1) .drainDone gid 0
          let s2 := protectZero s1 cx.prot g.cores
          let s3 : State := { s2 with cores := s2.cores.filter fun p => p.2.gid ≠ gid }
          dropMsgs { s3 with gangs := s3.gangs.filter fun h => h.1 ≠ gid } [gid] g.cores
        else s)

/-! ### Floors of other devices (R34, R35) -/

/-- DOMAIN_FLOOR_MESSAGE (R34, R35): a device's report about a launch replaces its last one. -/
def execDomainFloorMessage (dev compl dgroup : Nat) (queued : Bool) (floor : Option (BitVec 32)) (s : State) : Result :=
  let rest := s.floors.filter fun f => !(f.dev = dev && f.compl = compl && f.dgroup = dgroup)
  onRun s { s with floors := if queued || floor.isSome then rest ++ [{ dev := dev, compl := compl, dgroup := dgroup, queued := queued, floor := floor }] else rest }

end Sys2Proof.Machine
end

