-- ==== Sys2Proof/Machine/HostEvents.lean ====
section
/-! DEFINITION. The host (R141, R400 to R405), invalidation (R103), SPDM (R411) and the fabric (R408, R409). -/

namespace Sys2Proof.Machine

/-! ### Answers to host fault entries (R141) -/

/-- The walk of a die whose entry, not yet answered, has a WALK (R140). -/
def pendingWalk (s : State) (die walk : Nat) : Option Walk := s.walks.find? fun w => w.entry = walk && w.die = die && w.st == .posted

/-- A replay: the page is walked again; PAGE_REPLAY when it is found, else a new entry. That entry takes a WALK of its own, so that a later
answer to the old one names no entry (R143; R140 and R141 do not say it: log 75). -/
def replayWalk (s : State) (die walk : Nat) : State :=
  match pendingWalk s die walk with
  | none => s
  | some w =>
    match aget s.ctxs w.ctx with
    | none => s
    | some cx =>
      match walkTables s cx.ptroot (w.page * 65536) with
      | .present e base =>
        let s1 := walkFound s w base e
        if parkedOn s w.id = 0 then fire s1 .pageReplay w.id 0 else s1
      | .absent lv bad =>
        postWalk { s with nextId := s.nextId + 1,
                          walks := s.walks.map fun v => if v.id = w.id then { v with entry := s.nextId, st := .owed, level := lv, malformed := bad } else v } w.id

/-- The pointer, first word and address that a lane's refusal records, when it is parked on a walk. -/
def parkedRef (id : Nat) (la : Lane) : Option (DWord × Word × BitVec 48) :=
  match la.st, la.sst with
  | .faultParked w p w0, .faultParked v q v0 =>
    if w = id then some (p, w0, la.pcv) else if v = id then some (q, v0, la.epc) else none
  | .faultParked w p w0, _ => if w = id then some (p, w0, la.pcv) else none
  | _, .faultParked v q v0 => if v = id then some (q, v0, la.epc) else none
  | _, _ => none

/-- A lane refused: it exits with its record, whatever %trapctl holds; in a handler's own code R19 applies. -/
def refuseLane (s : State) (c sl l id : Nat) : State :=
  match coreStrand s c sl with
  | none => s
  | some (x, st) =>
    let la := lane st l
    match if la.st = .exited then none else parkedRef id la with
    | none => s
    | some (p, w0, pc) =>
      let f : LFault := { lane := l, cause := .pageAbsent, addr := p, detail := 0 }
      if st.handler.isSome && la.st.parkedOn id then
        let s1 := coreRecord s x (laneRec s c sl x f (flagHandler + flagReject) w0 pc)
        exitLanes ((lanesOf (liveMask st)).foldl (fun s i => fire s .laneKill c (64 * sl + i)) s1) c sl (liveMask st)
      else killLanes s c sl x st [f] flagReject w0 (some pc)

/-- Every running lane parked on a walk is refused. -/
def refuseLanes (s : State) (id : Nat) : State :=
  s.cores.foldl (fun s p => p.2.strands.foldl (fun s q => (List.range 32).foldl (fun s l => refuseLane s p.1 q.1 l id) s) s) s

/-- Lanes of a strand that a refusal reaches: those parked on the walk; every live lane where one of them is parked in its handler's own
code (R19). -/
def refusedLanes (id : Nat) (st : Strand) : Word :=
  if st.handler.isSome && st.lanes.any fun la => la.st.parkedOn id then liveMask st
  else maskOf fun l => (lane st l).st != .exited && (parkedRef id (lane st l)).isSome

/-- Refused lanes of a strand are EXITED. -/
def exitParked (id : Nat) (st : Strand) : Strand := modLanes st (refusedLanes id st) fun la => { la with st := .exited, sst := .exited }

/-- The record of a saved lane that is refused. The core that raised the fault is not stated (log 9). -/
def savedRecord (s : State) (g : Gang) (x : Core) (q : Nat × Strand) (id flags l : Nat) : State :=
  match parkedRef id (lane q.2 l) with
  | none => s
  | some (p, w0, pc) =>
    let r := laneRec s (Config.unstated s.freeCnt 0) q.1 x { lane := l, cause := .pageAbsent, addr := p, detail := 0 } flags w0 pc
    faultRecord s g.ctx { r with gang := g.index, compl := recCompl g.raw }

/-- A saved strand is refused a walk: a record for each parked lane, or one for the handler's (R19, R141), and LANE_KILL for each lane. -/
def refuseStrand (id : Nat) (g : Gang) (x : Core) (s : State) (q : Nat × Strand) : State :=
  let recs : List (Nat × Nat) :=
    match if q.2.handler.isSome then (List.range 32).find? fun l => (lane q.2 l).st.parkedOn id else none with
    | some l => [(flagHandler + flagReject, l)]
    | none => (lanesOf (refusedLanes id q.2)).map fun l => (flagReject, l)
  (lanesOf (refusedLanes id q.2)).foldl (fun s l => fire s .laneKill (Config.unstated s.freeCnt 0) (64 * q.1 + l))
    (recs.foldl (fun s r => savedRecord s g x q id r.1 r.2) s)

/-- Saved lanes are refused: their records, then their exit (R141). -/
def refuseSaved (s : State) (id : Nat) : State :=
  let s1 := s.gangs.foldl (fun s g => g.2.saved.foldl (fun s x => x.strands.foldl (refuseStrand id g.2 x) s) s) s
  let out (g : Gang) : Gang := { g with saved := g.saved.map (mapCoreStrands (exitParked id)) }
  { s1 with gangs := s1.gangs.map fun g => (g.1, out g.2) }

/-- Operations and jobs that wait for the walk, and fills that need its page, are refused that page (R141, R148, R345, R352). -/
def refuseEngines (s : State) (w : Walk) : State :=
  let op (o : Op) : Op := if o.wait = some w.id then { o with wait := none, refused := o.refused ++ [o.at_] } else o
  let needs (x : Core) (j : Job) : Bool :=
    match j.k with
    | .fill rn => ((aget x.regions rn).map fun r => r.order.any fun k => (chunkPtrs r k).any fun p => ptrVa p / 65536 = w.page).getD false
    | _ => false
  let job (x : Core) (j : Job) : Job :=
    if j.wait = some w.id then { j with wait := none, refused := j.refused ++ [j.at_] }
    else if needs x j then { j with refused := j.refused ++ [(0, w.page)] } else j
  mapCtxCores s w.die w.ctx fun x => { x with ops := x.ops.map op, jobs := x.jobs.map (job x) }

/-- Head records that wait for the walk's counter are removed (R35). -/
def refuseSched (s : State) (id : Nat) : State :=
  s.queues.foldl (fun s q =>
    match q.2.head? with
    | none => s
    | some r =>
      match aget s.ctxs r.ctx with
      | some c => if r.waitWalk = some id then waitFault s q.1 r c .pageAbsent flagReject else s
      | none => s) s

/-- A refused page of the private region halts its context (R32). -/
def refusePriv (s : State) (w : Walk) : State :=
  match aget s.ctxs w.ctx with
  | none => s
  | some c =>
    if !w.privr || c.st != .live then s
    else
      let u (k : Nat) : Nat := Config.unstated s.freeCnt k
      let s1 := faultRecord s w.ctx
        { cause := .pageAbsent, flags := flagReject + flagHalt, gang := u 1 % 2 ^ 24, wg := u 2 % 4, strand := u 3 % 64, lane := 0,
          word := BitVec.ofNat 32 (u 4), pc := BitVec.ofNat 48 (u 5), addr := BitVec.ofNat 64 (w.page * 65536), detail := 0, core := u 0,
          compl := BitVec.ofNat 64 (u 6) }
      ctxHalt s1 w.ctx c.seq

/-- A refusal (R141). -/
def refuseWalk (s : State) (die walk : Nat) : State :=
  match pendingWalk s die walk with
  | none => s
  | some w =>
    let s1 : State := { s with walks := s.walks.filter fun v => v.id ≠ w.id }
    refusePriv (refuseSched (refuseSaved (refuseLanes (refuseEngines s1 w) w.id) w.id) w.id) w

/-- ANS_REPLAY (R141). -/
def execAnsReplay (die walk : Nat) (s : State) : Result := onRun s (if hears s then replayWalk s die walk else s)

/-- ANS_REFUSE (R141). -/
def execAnsRefuse (die walk : Nat) (s : State) : Result := onRun s (if hears s then refuseWalk s die walk else s)

/-- The host link and the management cores serve while there is power. -/
def onPower (s t : State) : Result := .next (if s.power = .flushed then s else t)

/-! ### Invalidation (R103) -/

/-- INV_REQUEST (R103). -/
def execInvRequest (ctl : Word) (s : State) : Result := onPower s (invWrite s ctl)

/-- The request under way names a TLB entry. -/
def invHits (s : State) (t : TlbE) : Bool :=
  t.ctx = s.ctl.reqCtx.toNat && (s.ctl.reqAll || (decide (t.base ≤ ptrVa s.ctl.reqVa) && decide (ptrVa s.ctl.reqVa < t.base + pageBytes t.e.size)))

/-- INV_DONE (R103): no TLB holds the entry, a die's or a core's; a walk in flight reads the tables when it ends. -/
def execInvDone (s : State) : Result :=
  onPower s (if s.ctl.invGo then
      let drop (l : List TlbE) : List TlbE := l.filter fun t => !invHits s t
      let s1 : State := { s with tlbs := drop s.tlbs, l1 := s.l1.map fun p => (p.1, drop p.2) }
      msix { s1 with ctl := { s1.ctl with invGo := false } } 2
    else s)

/-! ### The control page (R403) -/

/-- Walks that wait for a slot are served, while the device runs. -/
def serveOwed (s : State) : State := if s.power = .run then postOwed s else s

/-- HFQ_BASE of a die. -/
def hfqBaseWrite (s : State) (die : Nat) (v : DWord) : State := serveOwed (hfqBasePut s die v)

/-- HFQ_CONS of a die, in its three copies (R162). -/
def hfqConsWrite (s : State) (die : Nat) (v : Word) : State := serveOwed (hfqConsPut s die v)

/-- HFQ_BASE_WRITE (R139). -/
def execHfqBaseWrite (die : Nat) (val : DWord) (s : State) : Result := onPower s (hfqBaseWrite s die val)

/-- HFQ_CONS_WRITE (R139). -/
def execHfqConsWrite (die : Nat) (val : Word) (s : State) : Result := onPower s (hfqConsWrite s die val)

/-- STATUS_READ (R403): APERR is cleared when read. -/
def execStatusRead (s : State) : Result :=
  onPower s { s with hostOut := s.hostOut ++ [.word ((statusWord s).setWidth 64)], ctl := { s.ctl with aperr := false } }

/-- ANS_WALK of a die: the answer of the current ANS_KIND (R141, R403). -/
def walkWrite (s : State) (die : Nat) (v : Word) : State :=
  if !hears s then s else if s.ctl.ansKind.getD die false then refuseWalk s die v.toNat else replayWalk s die v.toNat

/-- A write of the control page: 64-bit fields take the whole value at their offset, or a half at its own. -/
def ctlWrite (s : State) (off : Nat) (val : DWord) : State :=
  let w := val.extractLsb' 0 32
  let lo : Word := s.ctl.invVa.extractLsb' 0 32
  let base (d : Nat) : Nat := s.ctl.hfqBase.getD d 0
  if off = 0x8 then { s with ctl := { s.ctl with apbase := val.toNat } }
  else if off = 0xC then { s with ctl := { s.ctl with apbase := putHalf s.ctl.apbase true w } }
  else if off = 0x40 then kindWrite { s with ctl := { s.ctl with tagv := val.getLsbD 0 } } 1 w
  else if off = 0x14 then hfqConsWrite s 0 w
  else if off = 0x34 then hfqConsWrite s 1 w
  else if off = 0x18 then hfqBaseWrite s 0 val
  else if off = 0x1C then hfqBaseWrite s 0 (BitVec.ofNat 64 (putHalf (base 0) true w))
  else if off = 0x38 then hfqBaseWrite s 1 val
  else if off = 0x3C then hfqBaseWrite s 1 (BitVec.ofNat 64 (putHalf (base 1) true w))
  else if off = 0x20 then kindWrite s 0 w
  else if off = 0x24 then walkWrite s 0 w
  else if off = 0x44 then walkWrite s 1 w
  else if off = 0x80 then invVaWrite s val
  else if off = 0x84 then invVaWrite s (w ++ lo)
  else if off = 0x88 then invWrite s w
  else if off = 0x100 then mreqWrite s val
  else if off = 0x200 then { s with ctl := { s.ctl with plimit := val.toNat % 65536 } }
  else s

/-- CTRL_PAGE_WRITE (R403). -/
def execCtrlPageWrite (off : Nat) (val : DWord) (s : State) : Result := onPower s (ctlWrite s off val)

/-! ### BAR2 (R402, R404) -/

/-- The physical address at an offset of the aperture. -/
def apAddr (s : State) (off : Nat) : Nat := (s.ctl.apbase + off) % physTop

/-- The tags that a byte of the tag view shows: of two granules of LPDDR 6 or Cask; 0 elsewhere. -/
def tagByte (s : State) (off : Nat) : Byte :=
  let pa := apAddr s (64 * off)
  if decide (off < 2 ^ 30) && (isDram pa || isCask pa) then sget 0 s.tags (pa / 32 + 1) ++ sget 0 s.tags (pa / 32) else 0

/-- A byte of the tag view written: the tags of its two granules. Accesses that have passed their tag check are performed first
(R200). -/
def tagByteWrite (s : State) (off : Nat) (v : Byte) : State :=
  let pa := apAddr s (64 * off)
  if decide (off < 2 ^ 30) && (isDram pa || isCask pa) then
    homeSetTag (homeSetTag (settleTags s (pa / 64)) (pa / 32) (v.extractLsb' 0 4) noCore) (pa / 32 + 1) (v.extractLsb' 4 4) noCore
  else s

/-- A byte of the data view: all ones of a poisoned granule; a free value where no memory is. -/
def dataByte (s : State) (off : Nat) : Byte :=
  let pa := apAddr s off
  if isReserved pa then BitVec.ofNat 8 (Config.unstated s.freeCnt (16 + off)) else if sget false s.gpois (pa / 32) then 0xFF else homeByte s pa

/-- A host read of n bytes of BAR2; a poisoned granule sets APERR (R401, R402). -/
def apRead (s : State) (off n : Nat) : State :=
  if s.ctl.tagv then { s with hostOut := s.hostOut ++ [.bytes ((List.range n).map fun i => tagByte s (off + i))] }
  else
    let s1 := { s with hostOut := s.hostOut ++ [.bytes ((List.range n).map fun i => dataByte s (off + i))] }
    if (List.range n).any fun i => sget false s.gpois (apAddr s (off + i) / 32) then msix { s1 with ctl := { s1.ctl with aperr := true } } 6 else s1

/-- A host write of bytes through BAR2. -/
def apWrite (s : State) (off : Nat) (bytes : List Byte) : State :=
  if s.ctl.tagv then bytes.zipIdx.foldl (fun s b => tagByteWrite s (off + b.2) b.1) s
  else if isReserved (apAddr s off) then s
  else physWrite s (bytes.length / 64 + 2) (apAddr s off) bytes

/-- An access lies within BAR2. -/
def inBar2 (off n : Nat) : Bool := decide (off + n ≤ 2 ^ 36)

/-- BAR2_READ (R402). -/
def execBar2Read (off n : Nat) (s : State) : Result := onPower s (if inBar2 off n then apRead s off n else s)

/-- BAR2_WRITE (R402, R203). -/
def execBar2Write (off : Nat) (bytes : List Byte) (s : State) : Result :=
  onPower s (if inBar2 off bytes.length then apWrite s off bytes else s)

/-- TAG_VIEW_READ (R404): one byte; of the data view while that is selected. -/
def execTagViewRead (off : Nat) (s : State) : Result := onPower s (if inBar2 off 1 then apRead s off 1 else s)

/-- TAG_VIEW_WRITE (R404). -/
def execTagViewWrite (off : Nat) (val : Byte) (s : State) : Result := onPower s (if inBar2 off 1 then apWrite s off [val] else s)

/-! ### MSI-X and the link (R400, R401) -/

/-- MSIX_UNMASK (R401): one message follows for a vector that is pending. -/
def execMsixUnmask (vector : Nat) (s : State) : Result :=
  let s1 : State := { s with masked := s.masked.filter fun v => v ≠ vector, pendMsix := s.pendMsix.filter fun v => v ≠ vector }
  onPower s (if s.pendMsix.contains vector then { s1 with hostOut := s1.hostOut ++ [.msix vector] } else s1)

/-- LINK_RETRAINING (R400): invisible. -/
def execLinkRetraining (s : State) : Result := .next s

/-! ### SPDM (R411) -/

/-- The answer to a request: its code and n words of payload, which the spec does not state (log 9). -/
def spdmAnswer (s : State) (code nonce n : Nat) : State :=
  { s with hostOut := s.hostOut ++ [.spdm code ((List.range n).map (Config.spdm (code + 16 * nonce)))] }

/-- GET_VERSION: 1.2 and 1.3. -/
def execGetVersion (s : State) : Result := onPower s { s with hostOut := s.hostOut ++ [.spdm 0 [0x12, 0x13]] }
/-- GET_CAPABILITIES. -/
def execGetCapabilities (s : State) : Result := onPower s (spdmAnswer s 1 0 1)
/-- NEGOTIATE_ALGORITHMS: ECDSA P-384 and SHA-384, as SPDM numbers them (log 40). -/
def execNegotiateAlgorithms (s : State) : Result := onPower s { s with hostOut := s.hostOut ++ [.spdm 2 [0x80, 2]] }
/-- GET_DIGESTS: a SHA-384 digest. -/
def execGetDigests (s : State) : Result := onPower s (spdmAnswer s 3 0 6)
/-- GET_CERTIFICATE. -/
def execGetCertificate (s : State) : Result := onPower s (spdmAnswer s 4 0 1)
/-- CHALLENGE: an ECDSA P-384 signature over the nonce. -/
def execChallenge (nonce : Nat) (s : State) : Result := onPower s (spdmAnswer s 5 nonce 12)
/-- The measurement blocks (R411): of ROM, firmware, microcode and fuses; of the configuration record with %dev; the debug state. -/
def measureBlock (s : State) (i : Nat) : List DWord :=
  if i = 5 then [Config.spdm 7 4, s.dev.setWidth 64] else if i = 6 then [if s.dbg then 1 else 0] else [Config.spdm 7 (i - 1)]

/-- GET_MEASUREMENTS: the six blocks, each with its ECDSA P-384 signature over the nonce. -/
def execGetMeasurements (nonce : Nat) (s : State) : Result :=
  onPower s { s with hostOut := s.hostOut ++
    [.spdm 6 ((List.range 6).map fun i => measureBlock s (i + 1) ++ (List.range 12).map fun k => Config.spdm (6 + 16 * nonce) (12 * i + k)).flatten] }

/-! ### The fabric (R192, R408, R409) -/

/-- FABRIC_PORT_LOSS (R408): bandwidth only. -/
def execFabricPortLoss (port : Nat) (s : State) : Result := onPower s { s with ports := s.ports.filter fun p => p ≠ port }

/-- The new value of an update that another device asks for: 0 to 6 by R322, 7 ACAS, 8 AFADD. -/
def remoteOp (op : Nat) (ty : BitVec 4) (b c m : DWord) : DWord :=
  if op = 7 then (if m = b then c else m)
  else if op = 8 then (afaddOp ty (m.extractLsb' 0 32) (b.extractLsb' 0 32)).setWidth 64
  else atomOp op ty m b

/-- REMOTE_ACCESS_ARRIVE (R192, R408): an access of another device is performed at this device's home. -/
def execRemoteAccessArrive (pa : Nat) (write : Option (List Byte)) (n : Nat) (atom : Option (Nat × BitVec 4 × DWord × DWord)) (s : State) : Result :=
  onPower s (if isReserved pa || decide (physTop < pa + n) then s
    else
      match write, atom with
      | some data, _ => physWrite s (data.length / 64 + 2) pa data
      | none, some (op, ty, b, c) =>
        let m : DWord := BitVec.ofNat 64 (bytesNat (physBytes s pa n))
        homeWrite s pa (natBytes (remoteOp op ty b c m).toNat n) (physPois s pa n) noCore none
      | none, none => s)

/-- Registers that an operation gives a lane. -/
def opWords (o : Op) : Nat :=
  match o.k with
  | .load _ ty => tyWords ty
  | .ldr ty => tyWords ty
  | .atom _ ty => if o.dest = .none then 0 else atomBytes ty / 4
  | .acas ty => atomBytes ty / 4
  | .afadd _ => 1
  | .unite _ => 1
  | .find _ => 1
  | .dsize _ => 1
  | .dsnap _ => 2
  | .sigins _ _ => 1
  | _ => 0

/-- The record of a write that was dropped (R409). Of the bytes of a held line it names the store that wrote last, and its lane
(log 16). -/
def rtoRecord (s : State) (r : RReq) : State :=
  let u (k : Nat) : Nat := Config.unstated s.freeCnt k
  let x := getCore s r.core
  let g := x.bind (gangOf s)
  faultRecord s r.ctx
    { cause := .pageAbsent, flags := flagImpr + flagRto, gang := (g.map (·.index)).getD (u 1 % 2 ^ 24), wg := (x.map (·.wg)).getD (u 2 % 4),
      strand := r.slot, lane := r.lane % 32, word := 0, pc := r.pc, addr := r.ptr,
      detail := 0, core := if r.core = noCore then u 0 else r.core, compl := (g.map fun g => recCompl g.raw).getD (BitVec.ofNat 64 (u 6)) }

/-- A load or atomic that went unanswered: its lane is done, its destination free and poisoned (R409). -/
def timeoutLane (s : State) (c id l : Nat) : State :=
  let vals (o : Op) : List RVal := (List.range (opWords o)).map fun i => { v := BitVec.ofNat 32 (Config.unstated s.freeCnt (10 + i)), p := true }
  modCore s c fun x => { x with ops := x.ops.map fun o =>
    if o.id = id then { o with lanes := o.lanes.map fun y => if y.lane = l ∧ !y.done then { y with done := true, vals := vals o } else y } else o }

/-- The result of a TGET that went unanswered is free and poisoned (R409). -/
def timeoutTag (s : State) (r : RReq) : State :=
  if r.dest = .none then s
  else modStrand s r.core r.slot fun st => landOne st r.dest r.lane 0 { v := BitVec.ofNat 32 (Config.unstated s.freeCnt 10), p := true }

/-- REMOTE_TIMEOUT (R409). -/
def execRemoteTimeout (req : Nat) (s : State) : Result :=
  onRun s (match s.remote.find? fun r => r.id = req with
    | none => s
    | some r =>
      let s1 : State := { s with remote := s.remote.filter fun q => q.id ≠ req }
      let s2 := match r.op with
        | some (id, l) => if r.ask then timeoutLane s1 r.core id l else s1
        | none => timeoutTag s1 r
      let s3 := if r.data.isEmpty then s2 else rtoRecord s2 r
      mgmtPost (fire (ackOne s3 r) .remoteTimeout r.dev 0) 8 10 r.dev 1)

end Sys2Proof.Machine
end

