-- ==== Sys2Proof/Machine/HealthEvents.lean ====
section
/-! DEFINITION. Kiln (R124, R125), errors that strike (R107, R365), leaky buckets (R180), REMAP (R371), the containment scan and CONTAINMENT_STOP (R162, R373),
in-field test (R372), the restart record and power loss (R121 to R123), power and heat (R412), boot (R410). -/

namespace Sys2Proof.Machine

/-! ### Kiln -/

/-- Arithmetic-clock cycles of some hours at 1.7 GHz. -/
def hourCycles (h : Nat) : Nat := h * 3600 * 1700000000

/-- The pass of a memory under way; the first began at boot. -/
def kilnOf (s : State) (cls unit : Nat) : Kiln :=
  (s.kiln.find? fun k => k.cls = cls && k.unit = unit).getD
    { cls := cls, unit := unit, start := 0, corr := 0, unc := 0, seen := [], ended := false }

def setKiln (s : State) (k : Kiln) : State :=
  { s with kiln := k :: s.kiln.filter fun x => !(x.cls = k.cls && x.unit = k.unit) }

/-- A memory that Kiln reads: a channel, a stack, a slice (R370). -/
def kilnUnit (cls unit : Nat) : Bool :=
  (cls = 4 && decide (unit < 256)) || (cls = 5 && decide (unit < 16)) || (cls = 6 && decide (unit < 128))

/-- The deadline period of a memory's pass is over (R124). -/
def passOver (s : State) (cls unit : Nat) : Bool := decide ((kilnOf s cls unit).start.toNat + hourCycles s.scrubHours ≤ s.clock.toNat)

/-- A pass ends: SCRUB_PASS, with its counts (R124, R142). -/
def passEnd (s : State) (cls unit : Nat) : State :=
  let k := kilnOf s cls unit
  if k.ended then s
  else setKiln (mgmtPost (fire s .scrubPass cls unit) 4 cls unit (k.corr % 2 ^ 32 + k.unc % 2 ^ 32 * 2 ^ 32)) { k with ended := true }

/-- SCRUB_PASS_START (R124): the deadline period starts again, and with it the next pass; one that has not ended ends at its
deadline. -/
def execScrubPassStart (cls unit : Nat) (s : State) : Result :=
  onRun s (if kilnUnit cls unit && passOver s cls unit then
      setKiln (passEnd s cls unit) { cls := cls, unit := unit, start := s.clock, corr := 0, unc := 0, seen := [], ended := false }
    else s)

/-- The channel of LPDDR 6 that holds an address (R106). -/
def channelOf (pa : Nat) : Nat := 128 * dieOfPa pa + (pa / 2 ^ 11 % 128 ^^^ pa / 2 ^ 18 % 128)

/-- The Cask stack that holds an address (R118). -/
def stackOf (pa : Nat) : Nat := 8 * dieOfPa pa + pa / 4096 % 8

/-- The home slice of an address's line (R108). -/
def sliceOf (pa : Nat) : Nat :=
  64 * dieOfPa pa + [6, 12, 18, 24, 30, 36].foldl (fun n k => n ^^^ pa / 2 ^ k % 64) 0

/-- A physical address lies in a unit. -/
def unitHolds (cls unit pa : Nat) : Bool :=
  if cls = 4 then isDram pa && unit = channelOf pa
  else if cls = 5 then isCask pa && unit = stackOf pa
  else (isDram pa || isCask pa) && unit = sliceOf pa

/-- What a pass reads at an address: a granule, or a line of the L2. -/
def scrubKey (cls pa : Nat) : Nat := if cls = 6 then pa / 64 else pa / 32

/-- The pass of a unit under way reads an address: it lies in the unit, and the pass has not read it yet (R124). -/
def passReads (s : State) (cls unit pa : Nat) : Bool :=
  kilnUnit cls unit && unitHolds cls unit pa && !(kilnOf s cls unit).ended && !(kilnOf s cls unit).seen.contains (scrubKey cls pa)

/-- A write to a granule's line that is not yet durable finds the granule lost where it is undone. -/
def loseOld (g : Nat) (w : NvW) : NvW :=
  if w.line ≠ g / 2 then w
  else if g % 2 = 0 then { w with tag0 := 0, p0 := true } else { w with tag1 := 0, p1 := true }

/-- A granule is lost: poisoned, its tag 0 (R104, R125), and no power loss brings back what it held (R121). -/
def loseGranule (s : State) (g : Nat) : State :=
  let s1 := poisonWrite s (32 * g) 32 true
  { s1 with tags := sset 0 s1.tags g 0, nvLog := s1.nvLog.map (loseOld g) }

/-- The L2 holds a line. -/
def l2Has (s : State) (line : Nat) : Bool := s.l2.any fun p => p.1 = line

/-- The L2 takes a line in (R94). -/
def l2Fill (s : State) (line : Nat) : State :=
  if (isDram (64 * line) || isCask (64 * line)) && !l2Has s line then { s with l2 := s.l2 ++ [(line, false)] } else s

/-- A line leaves the L2. A dirty one is written back whole; of a clean one, what memory has lost behind it is lost now. -/
def l2Drop (s : State) (line : Nat) : State :=
  let s1 : State := { s with l2 := s.l2.filter (fun p => p.1 ≠ line), behind := s.behind.filter fun g => g / 2 ≠ line }
  if s.l2.contains (line, true) then s1 else (s.behind.filter fun g => g / 2 = line).foldl loseGranule s1

/-- A dirty line is lost in the L2: it is written back poisoned. Lines of Cask are never dirty there (R118, R125). -/
def loseLine (s : State) (line : Nat) : State :=
  if isDram (64 * line) then
    poisonWrite (poisonWrite { s with l2 := s.l2.filter (fun p => p.1 ≠ line), behind := s.behind.filter fun g => g / 2 ≠ line } (64 * line) 32 true)
      (64 * line + 32) 32 true
  else s

/-- A granule is lost in memory: for good, or behind the copy of its line in the L2, which reads meet until the line leaves it. -/
def loseBehind (s : State) (g : Nat) : State :=
  if !l2Has s (g / 2) then loseGranule s g
  else if s.behind.contains g then s
  else { recordPoison s g with behind := s.behind ++ [g] }

/-- What a read that met an error changes: 2 an uncorrectable error in memory, or in a clean L2 line, which is invalidated; 3 one in a dirty
L2 line. -/
def kilnLose (s : State) (cls pa : Nat) (err : BitVec 2) : State :=
  if cls = 6 then (if err = 3 then loseLine s (pa / 64) else if err = 2 then l2Drop s (pa / 64) else s)
  else if err = 1 then s else loseBehind s (pa / 32)

/-- The row or frame that an error counts against (R370). -/
def errRow (cls pa : Nat) : Nat := if cls = 6 then pa / 4096 else pa / 65536

/-- KILN_SCRUB_READ (R124, R125): `err` 0 none, 1 correctable, 2 uncorrectable, 3 uncorrectable in a dirty L2 line. -/
def execKilnScrubRead (cls unit addr : Nat) (err : BitVec 2) (s : State) : Result :=
  let k0 := kilnOf s cls unit
  let k := { k0 with seen := scrubKey cls addr :: k0.seen }
  onRun s (if !passReads s cls unit addr then s
    else if err = 0 then setKiln s k
    else
      let k1 : Kiln := if err = 1 then { k with corr := k.corr + 1 } else { k with unc := k.unc + 1 }
      countErr (setKiln (kilnLose s cls addr err) k1) cls unit (errRow cls addr))

/-! ### Leaky buckets (R180) -/

/-- A drain tick of an earlier cycle has not been taken yet (R180). -/
def drainDue (s : State) (b : Bucket) : Bool := decide (0 < b.level) && decide (0 < drainTicks s b)

/-- BUCKET_DRAIN_TICK (R180). -/
def execBucketDrainTick (cls unit : Nat) (s : State) : Result :=
  let b := bucketOf s cls unit
  onRun s (if drainDue s b then
      setBucket s { b with level := b.level - 1, drained := b.drained + BitVec.ofNat 64 ((bucketParams s cls).1 * 2 ^ 20) }
    else s)

/-- BUCKET_WINDOW_CLOSE (R180). -/
def execBucketWindowClose (cls unit : Nat) (s : State) : Result :=
  let b := bucketOf s cls unit
  onRun s (if windowDue s b then setBucket s { b with win := none, rows := [] } else s)

/-- REMAP (R371): a remap that is due takes effect once the gangs are off the unit; they are asked to move until then. -/
def execRemap (cls unit row : Nat) (s : State) : Result :=
  let b := bucketOf s cls unit
  onRun s (if b.due = some row then
      if remapReady s cls unit row then doRemap (setBucket s { b with due := none }) cls unit row
      else moveAll s (remapCores cls unit row)
    else s)

/-! ### The restart record (R122, R123) -/

/-- State of a context in the restart record. -/
def ctxCode (c : Ctx) : Nat :=
  match c.st with
  | .live => 0
  | .halted => 1
  | .stopped => 2
  | .ending h => if h then 1 else 0

/-- The entry of a workgroup. -/
def wgEntry (g : Gang) (x : Core) (saved : Bool) : List Byte :=
  natBytes ((recCompl g.raw).toNat % 2 ^ 48) 8 ++ natBytes (g.index % 2 ^ 24) 4 ++ natBytes x.wg 1 ++ natBytes (if saved then 1 else 0) 1 ++
    natBytes g.ctx 2 ++ natBytes ((x.durPhase.map (·.toNat)).getD 0xFFFFFFFF) 4 ++ natBytes x.phase.toNat 4

/-- The entries of the workgroups: those that hold cores, in core order, then the SAVED ones. -/
def wgEntries (s : State) : List (List Byte) :=
  (s.cores.filterMap fun p => (gangOf s p.2).map fun g => wgEntry g p.2 false) ++
    (s.gangs.map fun g => g.2.saved.map fun x => wgEntry g.2 x true).flatten

/-- STATUS of the restart record: every write queue flushed; the list of workgroups truncated. -/
def restartStatus (s : State) (flushed : Bool) : Nat := (if flushed then 1 else 0) + (if 2557 < (wgEntries s).length then 2 else 0)

/-- The bytes of the restart record, every write queue flushed. -/
def restartBytes (s : State) (reason : Nat) : List Byte :=
  let cs := (s.ctxs.filter fun c => s.gangs.any fun g => g.2.ctx = c.1).take 256
  let ws := wgEntries s
  let seq := bytesNat (readBytes s.mem (caskBase + 8) 8)
  natBytes 0x52535452 4 ++ natBytes 1 4 ++ natBytes (seq + 1) 8 ++ natBytes reason 4 ++ natBytes cs.length 4 ++
    natBytes (min ws.length 2557) 4 ++ natBytes (restartStatus s true) 4 ++ natBytes s.clock.toNat 8 ++ natBytes 0 24 ++
    (cs.map fun c => natBytes c.1 2 ++ natBytes (ctxCode c.2) 2 ++ natBytes 0 12).flatten ++ (ws.take 2557).flatten

/-- The record is written. The queues that drain ahead of it are `nvLog` as it stands. -/
def writeRestart (s : State) (reason : Nat) : State :=
  let b := restartBytes s reason
  { physWrite s (b.length / 64 + 2) caskBase b with nvLog := s.nvLog }

/-! ### Containment (R162, R373) -/

/-- An upset of a copy: table, copy, entry, and what it holds now. -/
def upset (s : State) (u : Nat × Nat × Nat × Nat) : State :=
  let t := contTab s u.1
  let v : DWord := BitVec.ofNat 64 u.2.2.2
  let t1 : CTab := if u.2.1 = 0 then { t with c0 := sset 0 t.c0 u.2.2.1 v }
    else if u.2.1 = 1 then { t with c1 := sset 0 t.c1 u.2.2.1 v } else { t with c2 := sset 0 t.c2 u.2.2.1 v }
  { s with cont := s.cont.set u.1 t1 }

/-- The entries of a table that some copy lists. -/
def tabKeys (t : CTab) : List Nat := (t.c0 ++ t.c1 ++ t.c2).foldl (fun l p => if l.contains p.1 then l else l ++ [p.1]) []

/-- CONTAINMENT_STOP (R373): contexts STOPPED, the Cask queues drain by the next clock, the restart record with REASON 2, vector 5, a management event. -/
def containmentStop (s : State) (unit : Nat) : State :=
  let s1 : State := { s with ctxs := s.ctxs.map fun c => (c.1, { c.2 with st := .stopped }) }
  let s2 := writeRestart (fire { s1 with ctl := { s1.ctl with stopped := true }, power := .stopped } .containmentStop unit 0) 2
  mgmtPost (msix s2 5) 7 7 unit 0

/-- An entry is read in its copies: agreeing ones win, a copy that disagrees is rewritten and counts; with no two agreeing,
containment is lost. -/
def scanEntry (s : State) (t k : Nat) : State :=
  if s.power ≠ .run then s
  else
    let tab := contTab s t
    match tab.vote k with
    | none => containmentStop s t
    | some v =>
      if sget 0 tab.c0 k = v ∧ sget 0 tab.c1 k = v ∧ sget 0 tab.c2 k = v then s
      else countErr (contSet s t k v) 7 t 0

/-- CONTAINMENT_SCAN (R162): every copy of every entry is read; `upsets` struck since the last scan. -/
def execContainmentScan (upsets : List (Nat × Nat × Nat × Nat)) (s : State) : Result :=
  let s1 := upsets.foldl upset s
  onRun s ((List.range 6).foldl (fun s t => (tabKeys (contTab s t)).foldl (fun s k => scanEntry s t k) s) s1)

/-! ### In-field test (R372) -/

/-- A cluster's test falls due: its period is over, or a first mark asks for it. -/
def testDue (s : State) (cl : Nat) : Bool :=
  s.testSoon.contains cl || decide ((sget 0 s.tested cl).toNat + hourCycles s.testHours ≤ s.clock.toNat)

def testOf (s : State) (cl : Nat) : Option FTest := s.ftest.find? fun t => t.cluster = cl

/-- A cluster of a die. -/
def clusterNum (die cluster : Nat) : Nat := 32 * die + cluster

/-- FIELD_TEST_DUE (R372): the gangs of the cluster are asked to migrate. -/
def execFieldTestDue (die cluster : Nat) (s : State) : Result :=
  let cl := clusterNum die cluster
  onRun s (if decide (die < 2) && decide (cluster < 32) then
      match testOf s cl with
      | some t => if t.running then s else moveAll s (clusterCores cl)
      | none =>
        if testDue s cl then
          moveAll { s with ftest := s.ftest ++ [{ cluster := cl, running := false, start := s.clock }], testSoon := s.testSoon.filter fun k => k ≠ cl }
            (clusterCores cl)
        else s
    else s)

/-- The cluster holds no gang, and none is about to be restored there. -/
def clusterEmpty (s : State) (cl : Nat) : Bool :=
  (clusterCores cl).all fun c => (getCore s c).isNone && !(s.gangs.any fun g => g.2.cores.contains c)

/-- FIELD_TEST (R372): the test runs on a cluster that holds no gang. -/
def execFieldTest (die cluster : Nat) (s : State) : Result :=
  let cl := clusterNum die cluster
  onRun s (match testOf s cl with
    | some t =>
      if !t.running && clusterEmpty s cl then
        fire { s with ftest := s.ftest.map fun u => if u.cluster = cl then { u with running := true, start := s.clock } else u } .fieldTest cl 0
      else s
    | none => s)

/-- FIELD_TEST_END (R372): the cluster is cleared and free; failing units are remapped, or the cluster is withdrawn. -/
def execFieldTestEnd (die cluster : Nat) (failing : List (Nat × Nat × Nat)) (s : State) : Result :=
  let cl := clusterNum die cluster
  onRun s (match testOf s cl with
    | some t =>
      if t.running then
        let bad := failing.filter fun f => (f.1 = 1 || f.1 = 2 || f.1 = 3) && clusterOfUnit f.1 f.2.1 = cl
        let s1 : State := { s with ftest := s.ftest.filter fun u => u.cluster ≠ cl, tested := sset 0 s.tested cl s.clock }
        let s2 := mgmtPost (protectZero s1 true (clusterCores cl)) 5 3 cl bad.length
        bad.foldl (fun s f => doRemap s f.1 f.2.1 f.2.2) s2
      else s
    | none => s)

/-! ### Power loss and heat (R121, R122, R412) -/

/-- A line goes back to what it held before a write that is lost. -/
def undoWrite (s : State) (w : NvW) : State :=
  { s with mem := writeBytes s.mem (64 * w.line) w.old, tags := sset 0 (sset 0 s.tags (2 * w.line) w.tag0) (2 * w.line + 1) w.tag1,
           gpois := sset false (sset false s.gpois (2 * w.line) w.p0) (2 * w.line + 1) w.p1 }

/-- The writes of a flag list that survive, with all that must precede them (R121). -/
def surviving (s : State) (keep : List Bool) : List Bool := nvClose s.nvLog s.nvLog.length keep

/-- The writes that do not survive are undone, latest first; none is under way any more. -/
def recoverCask (s : State) (keep : List Bool) : State :=
  let undone := ((s.nvLog.zip (surviving s keep)).reverse).foldl (fun s e => if e.2 then s else undoWrite s e.1) s
  { undone with nvLog := [] }

/-- The record of CONTAINMENT_STOP as a loss of power during the stop leaves it: STATUS[0] tells whether every queue flushed
(R374). -/
def stopRecord (s : State) (keep : List Bool) : State :=
  let b := readBytes s.mem caskBase 65528
  let s1 := recoverCask s keep
  let all := (surviving s keep).all id
  let status := natBytes (bytesNat ((b.drop 28).take 4) / 2 * 2 + (if all then 1 else 0)) 4
  { s1 with mem := writeBytes (writeBytes s1.mem caskBase b) (caskBase + 28) status }

/-- POWER_LOSS_FLUSH (R122): `keep` has a bit for each write not yet durable, in their order: it is in a write queue. After
CONTAINMENT_STOP the flush fires its event too (R44), and the one record stands (R374). -/
def execPowerLossFlush (keep : Nat) (s : State) : Result :=
  let kept := (List.range s.nvLog.length).map keep.testBit
  .next (match s.power with
    | .run => { writeRestart (fire (recoverCask s kept) .powerLossFlush 0 0) 1 with power := .flushed }
    | .stopped =>
      let s1 := fire s .powerLossFlush 0 0
      { (if s1.nvLog.isEmpty then s1 else stopRecord s1 kept) with power := .flushed }
    | .flushed => s)

/-- The arithmetic clock after a reading: lowered above PLIMIT or at 105 °C, raised below PLIMIT less 5 %. -/
def nextMhz (s : State) (pnow tj : Nat) : Nat :=
  if s.ctl.plimit < pnow ∨ 105 ≤ tj then max 800 (s.mhz - 100)
  else if 100 * pnow < 95 * s.ctl.plimit then min 1700 (s.mhz + 100) else s.mhz

/-- CLOCK_ADJUST (R412): PNOW and TJMAX are read; vector 7 where the clock changes; at 120 °C POWER_LOSS_FLUSH is next. -/
def execClockAdjust (pnow tj : Nat) (s : State) : Result :=
  let f := nextMhz s (pnow % 65536) (tj % 256)
  let s1 : State := { s with ctl := { s.ctl with pnow := pnow % 65536, tjmax := tj % 256 }, mhz := f }
  let s2 := if f ≠ s.mhz then msix s1 7 else s1
  onPower s (if 120 ≤ tj % 256 then
      msix { s2 with agenda := .event (.powerLossFlush (Config.survive s.freeCnt)) :: s2.agenda } 7
    else s2)

/-! ### Boot and wake (R126, R410) -/

/-- The part of a map of physical bytes, or of granules of 32, that lies in Cask. -/
def caskPart {α : Type} (m : SMap α) (unit : Nat) : SMap α := m.filter fun p => decide (caskBase ≤ p.1 * unit)

/-- BOOT (R410): power-on or a management reset. Cask, the remap tables, the retired-page list and the spares taken are kept;
%dev is set; WAKE_ZERO on every core; READY. -/
def execBoot (dev : BitVec 20) (s : State) : Result :=
  let s := s.behind.foldl loseGranule { s with behind := [] }
  let s1 : State := { State.reset with
    mem := caskPart s.mem 1, tags := caskPart s.tags 32, gpois := caskPart s.gpois 32, withdrawn := s.withdrawn, spares := s.spares,
    cont := s.cont.take 3 ++ [CTab.empty, CTab.empty, CTab.empty],
    agenda := s.agenda, nextId := s.nextId, freeCnt := s.freeCnt, hostOut := s.hostOut, log := s.log, dev := dev }
  let s2 := (List.range 256).foldl (fun s c => fire s .wakeZero c 0) s1
  .next { s2 with ctl := { s2.ctl with ready := true } }

/-! ### Inputs (log 57) -/

/-- A demand read meets an error of a granule at its home (R107): corrected, or the granule is lost; it counts in its channel's or
stack's bucket. A read of a line that the L2 holds does not reach the memory. -/
def eccHit (s : State) (pa : Nat) (unc : Bool) : State :=
  if (!isDram pa && !isCask pa) || l2Has s (pa / 64) then s
  else
    let cls := if isDram pa then 4 else 5
    countErr (if unc then loseGranule s (pa / 32) else s) cls (if isDram pa then channelOf pa else stackOf pa) (errRow cls pa)

/-- A read of the L2 meets an error of a line (R125). -/
def lineHit (s : State) (line : Nat) (lost : Bool) : State :=
  if !isDram (64 * line) && !isCask (64 * line) then s
  else countErr (if lost then loseLine s line else s) 6 (sliceOf (64 * line)) (errRow 6 (64 * line))

/-- A word of an array of a core's cluster counts an error: the unit is the cluster, the row names core, array and row (R370). -/
def arrayErr (s : State) (c arr row : Nat) : State := countErr s 3 (clusterOf c) (c * 2 ^ 24 + arr * 2 ^ 20 + row % 2 ^ 20)

/-- The physical granules, in order, of a frame of a strand that the register file holds: of `frame` 0 its handler frame, or outside a
handler its current frame; of n the frame n − 1 places from the top of its chain (R72, R74). -/
def physGrans (st : Strand) (frame : Nat) : List Nat :=
  match frame, st.handler with
  | 0, some h => (List.range 4).map fun i => 0x1F0 + 4 * h.idx + i
  | n, _ => ((st.frames[n - 1]?).map fun f => if f.res then f.phys else []).getD []

/-- A register of such a frame, for a lane, is poisoned. -/
def strikeReg (frame reg l : Nat) (st : Strand) : Strand :=
  let hit (m : SMap RVal) : SMap RVal := rset m reg l { (rget m reg l) with p := true }
  match frame, st.handler with
  | 0, some h => { st with handler := some { h with regs := hit h.regs } }
  | n, _ => { st with frames := st.frames.zipIdx.map fun p => if p.2 = n - 1 then { p.1 with regs := hit p.1.regs } else p.1 }

/-- A word of the register file meets an error (R365): its operand bank counts it, by the row of its granule (R47, R370, log 69). -/
def regHit (s : State) (c sl frame reg l : Nat) (unc : Bool) : State :=
  match (getStrand s c sl).bind fun st => (physGrans st frame)[reg / 8]? with
  | none => s
  | some g =>
    if l < 32 then
      let s1 := if unc then modStrand s c sl (strikeReg frame reg l) else s
      countErr s1 1 (c * 256 + sl % 4 * 64 + l / 2 * 4 + reg % 4) (g * 2 + reg % 8 / 4)
    else s

/-- A word of the scratchpad or code bank meets an error (R365). -/
def locHit (s : State) (c w : Nat) (unc : Bool) : State :=
  if (getCore s c).isNone || decide (codeTop ≤ 4 * w) then s
  else
    let s1 := if unc then modCore s c fun x => { x with lpois := sset false x.lpois w true } else s
    if 4 * w < codeBase then arrayErr s1 c 1 w else arrayErr s1 c 2 (w - codeBase / 4)

/-- A word of the tile file meets an error (R365). -/
def tileHit (s : State) (c w : Nat) (unc : Bool) : State :=
  if (getCore s c).isNone || decide (65536 ≤ w) then s
  else arrayErr (if unc then modCore s c fun x => { x with tiles := sset RVal.zero x.tiles w { sget RVal.zero x.tiles w with p := true } } else s) c 3 w

/-- A word of a held line meets an error in the L1 (R365): that word is poisoned in what the core holds. -/
def heldHit (s : State) (c key word : Nat) (unc : Bool) : State :=
  match getCore s c with
  | none => s
  | some x =>
    let h := lineOf x key
    if !isHeld h || decide (16 ≤ word) then s
    else arrayErr (if unc then setCore s c (setLine x key { h with wp := setBit h.wp word true }) else s) c 4 key

/-- A line of the instruction cache meets an error, which its cluster counts (R370). R365 gives it no poison: the cache holds a copy, and one
that cannot be corrected is dropped, so that the next fetch reads its home (log 57). -/
def icHit (s : State) (c key : Nat) (unc : Bool) : State :=
  match getCore s c with
  | none => s
  | some x =>
    if (aget x.ic key).isNone then s
    else arrayErr (if unc then setCore s c { x with ic := x.ic.filter fun p => p.1 ≠ key } else s) c 5 key

/-- A word of an example of a lane in trial will mismatch twice, when the lane reaches it (R367). -/
def trialHit (s : State) (c sl l ex w : Nat) : State :=
  modStrand s c sl fun st => { st with trial := st.trial.map fun t => { t with bad := t.bad ++ [(l, ex, w)] } }

/-- The management cores program a class of buckets; MARK2 stands above MARK1 (R179). -/
def bucketProgram (s : State) (cls : Nat) (drain : BitVec 8) (m1 m2 win : BitVec 16) : State :=
  if 1 ≤ cls ∧ cls ≤ 7 ∧ m1.toNat < m2.toNat then { s with bcfg := s.bcfg.set (cls - 1) (drain.toNat, m1.toNat, m2.toNat, win.toNat) } else s

/-- A host read of 32 bits through BAR0 (R402, R403): a read of STATUS clears APERR. -/
def bar0Word (s : State) (off : Nat) : State :=
  let s1 : State := { s with hostOut := s.hostOut ++ [.word ((ctlWord s (off / 4 * 4)).setWidth 64)] }
  if off / 4 = 0 then { s1 with ctl := { s1.ctl with aperr := false } } else s1

/-- What an input does while the device runs. -/
def strike (i : Input) (s : State) : State :=
  match i with
  | .eccRead pa unc => eccHit s pa unc
  | .lineErr line lost => lineHit s line lost
  | .regErr c sl frame reg l unc => regHit s c sl frame reg l unc
  | .locErr c w unc => locHit s c w unc
  | .tileErr c w unc => tileHit s c w unc
  | .heldErr c key word unc => heldHit s c key word unc
  | .icErr c key unc => icHit s c key unc
  | .trialMiss c sl l ex w => trialHit s c sl l ex w
  | .copyBytes c op m bytes => copyOn s c op m bytes
  | .l2Line line held => if held then l2Fill s line else l2Drop s line
  | .mismatch c sl l => if (getStrand s c sl).isSome ∧ l < 32 then countErr s 2 (laneUnit s c sl l) 0 else s
  | .contStrike t => if t < 6 then containmentStop s t else s
  | .scrubEnd cls unit => if kilnUnit cls unit then passEnd s cls unit else s
  | _ => s

/-- An input befalls the device. The management cores and the host act while there is power. -/
def applyInput (i : Input) (s : State) : State :=
  if s.power = .flushed then s
  else
    match i with
    | .firmware n => { s with mgmt := s.mgmt.drop n }
    | .bucketSet cls drain m1 m2 win => bucketProgram s cls drain m1 m2 win
    | .scrubPeriod h => if 1 ≤ h ∧ h ≤ 168 then { s with scrubHours := h } else s
    | .testPeriod h => if 1 ≤ h ∧ h ≤ 168 then { s with testHours := h } else s
    | .plimit w => if 600 ≤ w ∧ w ≤ 1500 then { s with ctl := { s.ctl with plimit := w } } else s
    | .debugUnlock => { s with dbg := true }
    | .msixMask v => if v < 8 ∧ !s.masked.contains v then { s with masked := s.masked ++ [v] } else s
    | .bar0Read off => if off < 65536 then bar0Word s off else s
    | _ => if s.power = .run then strike i s else s

/-- WAKE_ZERO (R126): the units of a core that was gated wake zeroed. A core that holds a workgroup is not gated. -/
def execWakeZero (core : Nat) (s : State) : Result :=
  onRun s (if (getCore s core).isNone && decide (core < 256) then fire s .wakeZero core 0 else s)

end Sys2Proof.Machine
end

