-- ==== Sys2Proof/Machine/LaneOps.lean ====
section
/-! DEFINITION. Major 0x28: moves between lanes and answers over the executing lanes (R304 to R307). -/

namespace Sys2Proof.Machine

/-- A lane move: each executing lane takes the source of the lane that `src` names, or 0 where it names none (R305). -/
def runMove (i : Instr) (f : Form) (s : State) (src : Nat → Word → Option Nat) : Host.Outcome State Fault Refusal :=
  runLanes i f s false fun _ st _ l =>
    let b := opB f st l 1
    let vals := match src l b.lo with
      | some k => rdRegs st f.sa.toNat f.kca k f.w64
      | none => List.replicate f.w64 RVal.zero
    .ok { vals := alsoPois b.p vals, pred := none, flags := 0 }

/-- LGET (R305). -/
def execLget (f : Form) (s : State) : Host.Outcome State Fault Refusal :=
  runMove (.lget f) f s fun _ b => some (b.toNat % 32)

/-- LROT (R305). -/
def execLrot (f : Form) (s : State) : Host.Outcome State Fault Refusal :=
  runMove (.lrot f) f s fun l b => some ((l + b.toNat % 32) % 32)

/-- LSLIDE (R305). -/
def execLslide (f : Form) (s : State) : Host.Outcome State Fault Refusal :=
  runMove (.lslide f) f s fun l b =>
    let k : Int := (l : Int) - b.toInt
    if 0 ≤ k ∧ k < 32 then some k.toNat else none

/-- LSWAP (R305). -/
def execLswap (f : Form) (s : State) : Host.Outcome State Fault Refusal :=
  runMove (.lswap f) f s fun l b => some (l ^^^ (b.toNat % 32))

/-- The executing lanes of a lane instruction. -/
def execLanes (f : Form) (st : Strand) (u : Cur) : List Nat := lanesOf (splitGuard f st u.mask).1

/-- Some predicate SA of an executing lane is poisoned. -/
def predsPois (f : Form) (st : Strand) (ls : List Nat) : Bool := ls.any fun l => (readP (lane st l) f.sa.toNat).2
/-- The executing lanes whose predicate SA is true. -/
def predsTrue (f : Form) (st : Strand) (ls : List Nat) : List Nat := ls.filter fun l => (readP (lane st l) f.sa.toNat).1

/-- LMASK (R306). -/
def execLmask (f : Form) (s : State) : Host.Outcome State Fault Refusal :=
  runLanes (.lmask f) f s false fun _ st u _ =>
    let ls := execLanes f st u
    .ok { vals := [{ v := maskOf fun l => (predsTrue f st ls).contains l, p := predsPois f st ls }], pred := none, flags := 0 }

/-- The answer of QUORUM for t true lanes of n. -/
def quorumHolds (kind t n : Nat) : Bool :=
  if kind = 0 then t = n else if kind = 1 then decide (1 ≤ t) else if kind = 2 then decide (n < 2 * t) else t % 2 = 1

/-- QUORUM (R306). -/
def execQuorum (f : Form) (s : State) : Host.Outcome State Fault Refusal :=
  runLanes (.quorum f) f s false fun _ st u _ =>
    let ls := execLanes f st u
    .ok (outPred (quorumHolds f.md.toNat (predsTrue f st ls).length ls.length) (predsPois f st ls) 0)

/-- Two words combined (R307). -/
def combine (op : Nat) (sgn : Bool) (a b : Word) : Word :=
  let less := decide (readInt a.toNat 32 sgn < readInt b.toNat 32 sgn)
  if op = 0 then a + b else if op = 1 then (if less then a else b) else if op = 2 then (if less then b else a)
  else if op = 3 then a &&& b else if op = 4 then a ||| b else a ^^^ b

/-- Words combined from left to right. -/
def combineAll (op : Nat) (sgn : Bool) : List Word → Word
  | [] => 0
  | a :: t => t.foldl (combine op sgn) a

/-- LCOMB (R307). -/
def execLcomb (f : Form) (s : State) : Host.Outcome State Fault Refusal :=
  runLanes (.lcomb f) f s false fun _ st u _ =>
    let vs := (execLanes f st u).map fun l => opA f st l 1
    .ok { vals := [{ v := combineAll f.m64.toNat (f.ty = 0) (vs.map (·.lo)), p := vs.any (·.p) }], pred := none, flags := 0 }

/-- LDUP (R306). -/
def execLdup (f : Form) (s : State) : Host.Outcome State Fault Refusal :=
  runLanes (.ldup f) f s false fun _ st u l =>
    let vs := (execLanes f st u).map fun k => (k, opA f st k f.w64)
    let mine := (opA f st l f.w64).v
    let same := vs.filter fun p => p.2.v == mine
    let first := f.m64 = 1
    .ok (outPred (if first then !(same.any fun p => decide (p.1 < l)) else same.any fun p => p.1 ≠ l) (vs.any (·.2.p)) 0)

end Sys2Proof.Machine
end

