-- ==== Sys2Proof/Machine/Packed.lean ====
section
/-! DEFINITION. Major 0x24: packed eight-bit floats, dot products, packing (R215, R217, R299 to R303). -/

namespace Sys2Proof.Machine

/-! ### Packed E4M3 arithmetic (R215) -/

/-- One byte of QADD4 or QMUL4, with OVF and NAN. -/
def q4Byte (mul nosat : Bool) (x y : Nat) : Nat × Flags :=
  let a := fmtE4m3.read x
  let b := fmtE4m3.read y
  if a.isNan || b.isNan then (0x7F, fNAN)
  else
    let r := roundVal fmtE4m3 0 { sat := false, nosat := nosat } (if mul then fmul a b else fadd 0 a b).1
    (r.1, flagIf (r.2 &&& fOF != 0) fOVF)

/-- Each of the four bytes of words. -/
def q4Word (mul nosat : Bool) (a b : Nat) : Nat → Nat × Flags
  | 0 => (0, 0)
  | n + 1 =>
    let lo := q4Byte mul nosat (a % 256) (b % 256)
    let hi := q4Word mul nosat (a / 256) (b / 256) n
    (lo.1 + 256 * hi.1, lo.2 ||| hi.2)

/-- QADD4 and QMUL4. -/
def runQ4 (i : Instr) (f : Form) (s : State) (mul : Bool) : Host.Outcome State Fault Refusal :=
  runAlu i f s 1 1 1 0 fun a b _ => let r := q4Word mul f.sat a.toNat b.toNat 4; (BitVec.ofNat 64 r.1, r.2)

/-- QADD4 (R215). -/
def execQadd4 (f : Form) (s : State) : Host.Outcome State Fault Refusal := runQ4 (.qadd4 f) f s false

/-- QMUL4 (R215). -/
def execQmul4 (f : Form) (s : State) : Host.Outcome State Fault Refusal := runQ4 (.qmul4 f) f s true

/-! ### Values over several registers -/

/-- Registers as one number, the first lowest, and the OR of their poison. -/
def regsNat : List RVal → Nat
  | [] => 0
  | v :: t => v.v.toNat + 2 ^ 32 * regsNat t
def regsPois (l : List RVal) : Bool := l.any (·.p)

/-- A number cut into n registers. -/
def natRegs (v : Nat) (p : Bool) : Nat → List RVal
  | 0 => []
  | n + 1 => { v := BitVec.ofNat 32 v, p := p } :: natRegs (v / 2 ^ 32) p n

/-- Elements of ws bits each mapped to elements of wd bits, k elements from the lowest; flags joined. -/
def mapElems (ws wd : Nat) (g : Nat → Nat × Flags) : Nat → Nat → Nat × Flags
  | 0, _ => (0, 0)
  | k + 1, v =>
    let lo := g (v % 2 ^ ws)
    let hi := mapElems ws wd g k (v / 2 ^ ws)
    (lo.1 + 2 ^ wd * hi.1, lo.2 ||| hi.2)

/-- An instruction that maps the elements of na registers of SA into nd registers. -/
def runElems (i : Instr) (f : Form) (s : State) (na nd ws wd k : Nat) (g : Nat → Nat × Flags) : Host.Outcome State Fault Refusal :=
  runLanes i f s false fun _ st _ l =>
    let a := rdRegs st f.sa.toNat f.kca l na
    let r := mapElems ws wd g k (regsNat a)
    .ok { vals := natRegs r.1 (regsPois a) nd, pred := none, flags := r.2 }

/-- One element of QCVT (R300): NAN in place of NV when a side is e4m3, OVF in place of OF into e4m3. -/
def qcvtElem (f : Form) (a : Nat) : Nat × Flags :=
  let r := convEnc (fmtOf f.ty) (fmtOf f.srcTy) f.rnd.toNat { sat := false, nosat := f.sat } a
  let nan := r.2 &&& fNV != 0
  let ovf := r.2 &&& fOF != 0
  let e4 := f.ty = 7 || f.srcTy = 7
  (r.1, (r.2 &&& (fUF ||| fNX)) ||| flagIf nan (if e4 then fNAN else fNV) ||| flagIf ovf (if f.ty = 7 then fOVF else fOF))

/-- QCVT (R300). -/
def execQcvt (f : Form) (s : State) : Host.Outcome State Fault Refusal :=
  runElems (.qcvt f) f s (qcvtSrc f) (qcvtDst f) (8 * qcvtSrc f) (8 * qcvtDst f) 4 (qcvtElem f)

/-- The sum of products of n elements of w bits (R217). -/
def dotSum (w : Nat) (sa sb : Bool) (a b : Nat) : Nat → Int
  | 0 => 0
  | n + 1 => readInt a w sa * readInt b w sb + dotSum w sa sb (a / 2 ^ w) (b / 2 ^ w) n

/-- DOT4 and DOT8. -/
def runDot (i : Instr) (f : Form) (s : State) (w : Nat) : Host.Outcome State Fault Refusal :=
  runAlu i f s 1 1 1 1 fun a b c =>
    deliverInt (readInt c.toNat 32 true + dotSum w (f.md.getLsbD 0) (f.md.getLsbD 1) a.toNat b.toNat (32 / w)) 32 true f.sat

/-- DOT4 (R301). -/
def execDot4 (f : Form) (s : State) : Host.Outcome State Fault Refusal := runDot (.dot4 f) f s 8

/-- DOT8 (R301). -/
def execDot8 (f : Form) (s : State) : Host.Outcome State Fault Refusal := runDot (.dot8 f) f s 4

/-! ### PACK and UNPACK (R302, R303) -/

/-- The destination element width of PACK. -/
def packWd (f : Form) : Nat :=
  if f.aux.getLsbD 4 then 4
  else if f.srcTy = 7 ∨ f.srcTy = 8 ∨ f.srcTy = 9 ∨ f.srcTy = 10 ∨ f.srcTy = 13 then 8 else 16

/-- PACK (R302). -/
def execPack (f : Form) (s : State) : Host.Outcome State Fault Refusal :=
  runAlu (.pack f) f s 1 1 1 0 fun a b _ =>
    let w := packWd f
    (BitVec.ofNat 64 (mapElems (2 * w) w (fun e => (e % 2 ^ w, 0)) (32 / w) (a.toNat + 2 ^ 32 * b.toNat)).1, 0)

/-- UNPACK (R303). -/
def execUnpack (f : Form) (s : State) : Host.Outcome State Fault Refusal :=
  let ws := unpackWs f
  let wd := intTyBits f.ty
  runElems (.unpack f) f s 1 (unpackN f) ws wd (32 / ws) fun e => ((wrapInt (readInt e ws (intTySigned f.srcTy)) wd).toNat, 0)

end Sys2Proof.Machine
end

