-- ==== Sys2Proof/Machine/Dispatch.lean ====
section
/-! DEFINITION. The meaning of each step: one arm for each constructor of Instr. -/

namespace Sys2Proof.Machine

/-- One step's meaning. -/
def exec (i : Instr) (s : State) : Host.Outcome State Fault Refusal :=
  match i with
  | .nop f => Sys2Proof.Machine.execNop f s
  | .exit f => Sys2Proof.Machine.execExit f s
  | .yield f => Sys2Proof.Machine.execYield f s
  | .sleep f => Sys2Proof.Machine.execSleep f s
  | .nopre f => Sys2Proof.Machine.execNopre f s
  | .preok f => Sys2Proof.Machine.execPreok f s
  | .bra f => Sys2Proof.Machine.execBra f s
  | .bri f => Sys2Proof.Machine.execBri f s
  | .call f => Sys2Proof.Machine.execCall f s
  | .calli f => Sys2Proof.Machine.execCalli f s
  | .ret f => Sys2Proof.Machine.execRet f s
  | .unwind f => Sys2Proof.Machine.execUnwind f s
  | .trap f => Sys2Proof.Machine.execTrap f s
  | .eret f => Sys2Proof.Machine.execEret f s
  | .mfs f => Sys2Proof.Machine.execMfs f s
  | .mts f => Sys2Proof.Machine.execMts f s
  | .launch f => Sys2Proof.Machine.execLaunch f s
  | .waitw f => Sys2Proof.Machine.execWaitw f s
  | .ipf f => Sys2Proof.Machine.execIpf f s
  | .ipin f => Sys2Proof.Machine.execIpin f s
  | .iunpin f => Sys2Proof.Machine.execIunpin f s
  | .fencei f => Sys2Proof.Machine.execFencei f s
  | .bar f => Sys2Proof.Machine.execBar f s
  | .gbar f => Sys2Proof.Machine.execGbar f s
  | .btest f => Sys2Proof.Machine.execBtest f s
  | .phase f => Sys2Proof.Machine.execPhase f s
  | .wait f => Sys2Proof.Machine.execWait f s
  | .waitt f => Sys2Proof.Machine.execWaitt f s
  | .sdrain f => Sys2Proof.Machine.execSdrain f s
  | .frd f => Sys2Proof.Machine.execFrd f s
  | .fwr f => Sys2Proof.Machine.execFwr f s
  | .finfo f => Sys2Proof.Machine.execFinfo f s
  | .iadd f => Sys2Proof.Machine.execIadd f s
  | .isub f => Sys2Proof.Machine.execIsub f s
  | .imin f => Sys2Proof.Machine.execImin f s
  | .imax f => Sys2Proof.Machine.execImax f s
  | .iabs f => Sys2Proof.Machine.execIabs f s
  | .ineg f => Sys2Proof.Machine.execIneg f s
  | .isad f => Sys2Proof.Machine.execIsad f s
  | .imul f => Sys2Proof.Machine.execImul f s
  | .imulh f => Sys2Proof.Machine.execImulh f s
  | .imad f => Sys2Proof.Machine.execImad f s
  | .idiv f => Sys2Proof.Machine.execIdiv f s
  | .irem f => Sys2Proof.Machine.execIrem f s
  | .imulw f => Sys2Proof.Machine.execImulw f s
  | .and f => Sys2Proof.Machine.execAnd f s
  | .or f => Sys2Proof.Machine.execOr f s
  | .xor f => Sys2Proof.Machine.execXor f s
  | .andn f => Sys2Proof.Machine.execAndn f s
  | .not f => Sys2Proof.Machine.execNot f s
  | .blut f => Sys2Proof.Machine.execBlut f s
  | .shl f => Sys2Proof.Machine.execShl f s
  | .shr f => Sys2Proof.Machine.execShr f s
  | .sar f => Sys2Proof.Machine.execSar f s
  | .rotl f => Sys2Proof.Machine.execRotl f s
  | .rotr f => Sys2Proof.Machine.execRotr f s
  | .fshl f => Sys2Proof.Machine.execFshl f s
  | .fshr f => Sys2Proof.Machine.execFshr f s
  | .clz f => Sys2Proof.Machine.execClz f s
  | .ctz f => Sys2Proof.Machine.execCtz f s
  | .popc f => Sys2Proof.Machine.execPopc f s
  | .brev f => Sys2Proof.Machine.execBrev f s
  | .bfe f => Sys2Proof.Machine.execBfe f s
  | .bfi f => Sys2Proof.Machine.execBfi f s
  | .bswz f => Sys2Proof.Machine.execBswz f s
  | .icmp f => Sys2Proof.Machine.execIcmp f s
  | .isel f => Sys2Proof.Machine.execIsel f s
  | .pand f => Sys2Proof.Machine.execPand f s
  | .por f => Sys2Proof.Machine.execPor f s
  | .pxor f => Sys2Proof.Machine.execPxor f s
  | .pnot f => Sys2Proof.Machine.execPnot f s
  | .pmov f => Sys2Proof.Machine.execPmov f s
  | .pchk f => Sys2Proof.Machine.execPchk f s
  | .mov f => Sys2Proof.Machine.execMov f s
  | .movi f => Sys2Proof.Machine.execMovi f s
  | .movk f => Sys2Proof.Machine.execMovk f s
  | .lea f => Sys2Proof.Machine.execLea f s
  | .cvti f => Sys2Proof.Machine.execCvti f s
  | .gpc f => Sys2Proof.Machine.execGpc f s
  | .fadd f => Sys2Proof.Machine.execFadd f s
  | .fsub f => Sys2Proof.Machine.execFsub f s
  | .fmul f => Sys2Proof.Machine.execFmul f s
  | .ffma f => Sys2Proof.Machine.execFfma f s
  | .fmin f => Sys2Proof.Machine.execFmin f s
  | .fmax f => Sys2Proof.Machine.execFmax f s
  | .fcmp f => Sys2Proof.Machine.execFcmp f s
  | .fsel f => Sys2Proof.Machine.execFsel f s
  | .frcp f => Sys2Proof.Machine.execFrcp f s
  | .frsq f => Sys2Proof.Machine.execFrsq f s
  | .fsqrt f => Sys2Proof.Machine.execFsqrt f s
  | .fexp2 f => Sys2Proof.Machine.execFexp2 f s
  | .flog2 f => Sys2Proof.Machine.execFlog2 f s
  | .fsin f => Sys2Proof.Machine.execFsin f s
  | .fcos f => Sys2Proof.Machine.execFcos f s
  | .ftanh f => Sys2Proof.Machine.execFtanh f s
  | .cvtf f => Sys2Proof.Machine.execCvtf f s
  | .cvtfi f => Sys2Proof.Machine.execCvtfi f s
  | .cvtif f => Sys2Proof.Machine.execCvtif f s
  | .frnd f => Sys2Proof.Machine.execFrnd f s
  | .fclass f => Sys2Proof.Machine.execFclass f s
  | .fdiv f => Sys2Proof.Machine.execFdiv f s
  | .hpadd f => Sys2Proof.Machine.execHpadd f s
  | .hpmul f => Sys2Proof.Machine.execHpmul f s
  | .hpfma f => Sys2Proof.Machine.execHpfma f s
  | .bpadd f => Sys2Proof.Machine.execBpadd f s
  | .bpmul f => Sys2Proof.Machine.execBpmul f s
  | .bpfma f => Sys2Proof.Machine.execBpfma f s
  | .hpmin f => Sys2Proof.Machine.execHpmin f s
  | .hpmax f => Sys2Proof.Machine.execHpmax f s
  | .qadd4 f => Sys2Proof.Machine.execQadd4 f s
  | .qmul4 f => Sys2Proof.Machine.execQmul4 f s
  | .qcvt f => Sys2Proof.Machine.execQcvt f s
  | .dot4 f => Sys2Proof.Machine.execDot4 f s
  | .dot8 f => Sys2Proof.Machine.execDot8 f s
  | .pack f => Sys2Proof.Machine.execPack f s
  | .unpack f => Sys2Proof.Machine.execUnpack f s
  | .lget f => Sys2Proof.Machine.execLget f s
  | .lrot f => Sys2Proof.Machine.execLrot f s
  | .lslide f => Sys2Proof.Machine.execLslide f s
  | .lswap f => Sys2Proof.Machine.execLswap f s
  | .lmask f => Sys2Proof.Machine.execLmask f s
  | .quorum f => Sys2Proof.Machine.execQuorum f s
  | .lcomb f => Sys2Proof.Machine.execLcomb f s
  | .ldup f => Sys2Proof.Machine.execLdup f s
  | .ld f => Sys2Proof.Machine.execLd f s
  | .ldb f => Sys2Proof.Machine.execLdb f s
  | .lds f => Sys2Proof.Machine.execLds f s
  | .ldr f => Sys2Proof.Machine.execLdr f s
  | .ldk f => Sys2Proof.Machine.execLdk f s
  | .st f => Sys2Proof.Machine.execSt f s
  | .stb f => Sys2Proof.Machine.execStb f s
  | .sts f => Sys2Proof.Machine.execSts f s
  | .str f => Sys2Proof.Machine.execStr f s
  | .atom f => Sys2Proof.Machine.execAtom f s
  | .acas f => Sys2Proof.Machine.execAcas f s
  | .afadd f => Sys2Proof.Machine.execAfadd f s
  | .atoms f => Sys2Proof.Machine.execAtoms f s
  | .acass f => Sys2Proof.Machine.execAcass f s
  | .red f => Sys2Proof.Machine.execRed f s
  | .cpa f => Sys2Proof.Machine.execCpa f s
  | .rgnset f => Sys2Proof.Machine.execRgnset f s
  | .rgnclr f => Sys2Proof.Machine.execRgnclr f s
  | .rgnfl f => Sys2Proof.Machine.execRgnfl f s
  | .chkw f => Sys2Proof.Machine.execChkw f s
  | .chkt f => Sys2Proof.Machine.execChkt f s
  | .tset f => Sys2Proof.Machine.execTset f s
  | .tget f => Sys2Proof.Machine.execTget f s
  | .pbar f => Sys2Proof.Machine.execPbar f s
  | .tcfg f => Sys2Proof.Machine.execTcfg f s
  | .tld f => Sys2Proof.Machine.execTld f s
  | .tst f => Sys2Proof.Machine.execTst f s
  | .tzero f => Sys2Proof.Machine.execTzero f s
  | .mma f => Sys2Proof.Machine.execMma f s
  | .mmas f => Sys2Proof.Machine.execMmas f s
  | .mtrn f => Sys2Proof.Machine.execMtrn f s
  | .tmov f => Sys2Proof.Machine.execTmov f s
  | .unite f => Sys2Proof.Machine.execUnite f s
  | .find f => Sys2Proof.Machine.execFind f s
  | .dsize f => Sys2Proof.Machine.execDsize f s
  | .relabel f => Sys2Proof.Machine.execRelabel f s
  | .dsnap f => Sys2Proof.Machine.execDsnap f s
  | .dundo f => Sys2Proof.Machine.execDundo f s
  | .dinit f => Sys2Proof.Machine.execDinit f s
  | .trial f => Sys2Proof.Machine.execTrial f s
  | .tret f => Sys2Proof.Machine.execTret f s
  | .xld f => Sys2Proof.Machine.execXld f s
  | .sigins f => Sys2Proof.Machine.execSigins f s
  | .sigclr f => Sys2Proof.Machine.execSigclr f s
  | .rng f => Sys2Proof.Machine.execRng f s
  | .fold f => Sys2Proof.Machine.execFold f s
  | .mreqCreate addr => Sys2Proof.Machine.execMreqCreate addr s
  | .mreqDestroy addr => Sys2Proof.Machine.execMreqDestroy addr s
  | .schedStep die => Sys2Proof.Machine.execSchedStep die s
  | .preemptSave gang examples => Sys2Proof.Machine.execPreemptSave gang examples s
  | .resumeRestore gang => Sys2Proof.Machine.execResumeRestore gang s
  | .drainDone gang => Sys2Proof.Machine.execDrainDone gang s
  | .phasePublish core lines => Sys2Proof.Machine.execPhasePublish core lines s
  | .phaseMessage msg => Sys2Proof.Machine.execPhaseMessage msg s
  | .domainFloorMessage dev compl dgroup queued floor => Sys2Proof.Machine.execDomainFloorMessage dev compl dgroup queued floor s
  | .spargeQuiescence core => Sys2Proof.Machine.execSpargeQuiescence core s
  | .spargeStarvation core => Sys2Proof.Machine.execSpargeStarvation core s
  | .trapEntry core slot => Sys2Proof.Machine.execTrapEntry core slot s
  | .gbarArrival msg => Sys2Proof.Machine.execGbarArrival msg s
  | .storeCheck core => Sys2Proof.Machine.execStoreCheck core s
  | .storeFaultDeliver core slot => Sys2Proof.Machine.execStoreFaultDeliver core slot s
  | .varlatComplete core op lanes regs land => Sys2Proof.Machine.execVarlatComplete core op lanes regs land s
  | .pageWalkDone walk => Sys2Proof.Machine.execPageWalkDone walk s
  | .ansReplay die walk => Sys2Proof.Machine.execAnsReplay die walk s
  | .ansRefuse die walk => Sys2Proof.Machine.execAnsRefuse die walk s
  | .tileJobDone core job bad => Sys2Proof.Machine.execTileJobDone core job bad s
  | .cpaCopyDone core op lanes => Sys2Proof.Machine.execCpaCopyDone core op lanes s
  | .chunkArrive core region chunk => Sys2Proof.Machine.execChunkArrive core region chunk s
  | .copyoutAck core region => Sys2Proof.Machine.execCopyoutAck core region s
  | .relabelDone core job => Sys2Proof.Machine.execRelabelDone core job s
  | .strArrive msg => Sys2Proof.Machine.execStrArrive msg s
  | .ldrArrive core op lanes => Sys2Proof.Machine.execLdrArrive core op lanes s
  | .waitwRetest core slot lane => Sys2Proof.Machine.execWaitwRetest core slot lane s
  | .sleepExpire core slot => Sys2Proof.Machine.execSleepExpire core slot s
  | .ageExpire core slot => Sys2Proof.Machine.execAgeExpire core slot s
  | .nopreExpire core slot => Sys2Proof.Machine.execNopreExpire core slot s
  | .trialComplete core slot bad => Sys2Proof.Machine.execTrialComplete core slot bad s
  | .trialAbandon core slot => Sys2Proof.Machine.execTrialAbandon core slot s
  | .scrubPassStart cls unit => Sys2Proof.Machine.execScrubPassStart cls unit s
  | .kilnScrubRead cls unit addr err => Sys2Proof.Machine.execKilnScrubRead cls unit addr err s
  | .bucketDrainTick cls unit => Sys2Proof.Machine.execBucketDrainTick cls unit s
  | .bucketWindowClose cls unit => Sys2Proof.Machine.execBucketWindowClose cls unit s
  | .remap cls unit row => Sys2Proof.Machine.execRemap cls unit row s
  | .containmentScan upsets => Sys2Proof.Machine.execContainmentScan upsets s
  | .fieldTestDue die cluster => Sys2Proof.Machine.execFieldTestDue die cluster s
  | .fieldTest die cluster => Sys2Proof.Machine.execFieldTest die cluster s
  | .fieldTestEnd die cluster failing => Sys2Proof.Machine.execFieldTestEnd die cluster failing s
  | .powerLossFlush keep => Sys2Proof.Machine.execPowerLossFlush keep s
  | .clockAdjust pnow tj => Sys2Proof.Machine.execClockAdjust pnow tj s
  | .remoteTimeout req => Sys2Proof.Machine.execRemoteTimeout req s
  | .boot dev => Sys2Proof.Machine.execBoot dev s
  | .wakeZero core => Sys2Proof.Machine.execWakeZero core s
  | .invRequest ctl => Sys2Proof.Machine.execInvRequest ctl s
  | .invDone => Sys2Proof.Machine.execInvDone s
  | .hfqBaseWrite die val => Sys2Proof.Machine.execHfqBaseWrite die val s
  | .statusRead => Sys2Proof.Machine.execStatusRead s
  | .ctrlPageWrite off val => Sys2Proof.Machine.execCtrlPageWrite off val s
  | .bar2Read off n => Sys2Proof.Machine.execBar2Read off n s
  | .bar2Write off bytes => Sys2Proof.Machine.execBar2Write off bytes s
  | .tagViewRead off => Sys2Proof.Machine.execTagViewRead off s
  | .tagViewWrite off val => Sys2Proof.Machine.execTagViewWrite off val s
  | .getVersion => Sys2Proof.Machine.execGetVersion s
  | .getCapabilities => Sys2Proof.Machine.execGetCapabilities s
  | .negotiateAlgorithms => Sys2Proof.Machine.execNegotiateAlgorithms s
  | .getDigests => Sys2Proof.Machine.execGetDigests s
  | .getCertificate => Sys2Proof.Machine.execGetCertificate s
  | .challenge nonce => Sys2Proof.Machine.execChallenge nonce s
  | .getMeasurements nonce => Sys2Proof.Machine.execGetMeasurements nonce s
  | .nonInstruction w0 => Sys2Proof.Machine.execNonInstruction w0 s
  | .fetchFault cause addr => Sys2Proof.Machine.execFetchFault cause addr s
  | .emptyRound => Sys2Proof.Machine.execEmptyRound s
  | .hfqConsWrite die val => Sys2Proof.Machine.execHfqConsWrite die val s
  | .msixUnmask vector => Sys2Proof.Machine.execMsixUnmask vector s
  | .linkRetraining => Sys2Proof.Machine.execLinkRetraining s
  | .fabricPortLoss port => Sys2Proof.Machine.execFabricPortLoss port s
  | .remoteAccessArrive pa write n atom => Sys2Proof.Machine.execRemoteAccessArrive pa write n atom s

end Sys2Proof.Machine
end

