-- ==== Sys2Proof/Machine/Pending.lean ====
section
/-! DEFINITION. The happenings that are due in a state (log 1). What the host, another device, an error or a loss of power
brings comes from the agenda only (log 57). -/

namespace Sys2Proof.Machine

/-- The lane waits in WAITW. -/
def waitsWord (l : LaneState) : Bool := match l with
  | .parked (.waitw _ _ _ _ _) => true
  | _ => false

/-- Happenings due to a strand. -/
def strandPending (c sl : Nat) (st : Strand) : List Instr :=
  (if dueNow st then [.storeFaultDeliver c sl] else []) ++
    (if st.nopre && decide (Config.limit64k ≤ st.npc) && !st.stopped then [.nopreExpire c sl] else []) ++
    (if st.st = .inTrial then [.trialComplete c sl [], .trialAbandon c sl] else []) ++
    ((List.range 32).filterMap fun l =>
      if waitsWord (lane st l).st || (st.handler.isSome && (lane st l).st != .exited && waitsWord (lane st l).sst) then some (.waitwRetest c sl l)
      else none)

/-- Happenings due to an operation of a core. -/
def opPending (c : Nat) (o : Op) : List Instr :=
  match o.k with
  | .ldr _ => [.ldrArrive c o.id 0xFFFFFFFF, .varlatComplete c o.id 0xFFFFFFFF 15 true]
  | .str => []
  | _ => if o.wait.isSome then [] else [.varlatComplete c o.id 0xFFFFFFFF 15 true]

/-- Chunks of an entry that strands wait for. -/
def wantedChunks (x : Core) (rn : Nat) : List Nat :=
  x.strands.filterMap fun p => match p.2.hold with
    | some h => (match h.k with | .chunk r k _ _ => if r = rn then some k else none | _ => none)
    | none => none

/-- Happenings due to a job of a core. -/
def jobPendings (c : Nat) (x : Core) (j : Job) : List Instr :=
  if j.wait.isSome || jobPending x j.id then []
  else
    match j.k with
    | .relabel _ _ _ _ _ _ _ _ _ => [.relabelDone c j.id]
    | .fill rn =>
      (match aget x.regions rn with
       | some r => (wantedChunks x rn ++ r.order).map fun k => .chunkArrive c rn k
       | none => [])
    | .copyout rn _ => [.copyoutAck c rn]
    | .trial _ => []
    | _ => [.tileJobDone c j.id []]

/-- Happenings due to a core. -/
def corePending (s : State) (c : Nat) (x : Core) : List Instr :=
  (match x.pst with | .publishing _ _ => [.phasePublish c (dirtyList x).length] | _ => []) ++
    (if x.sq.isEmpty then [] else [.storeCheck c]) ++
    (match trapHead x with | some sl => if 0 < hFree x then [.trapEntry c sl] else [] | none => []) ++
    (if 64 ≤ x.quiet ∧ spargeQuiet x then [.spargeQuiescence c] else []) ++
    (if starved s x then [.spargeStarvation c] else []) ++
    (x.strands.map fun p => strandPending c p.1 p.2).flatten ++ (x.ops.map (opPending c)).flatten ++
    (x.jobs.map (jobPendings c x)).flatten ++ (x.cpas.map fun q => .cpaCopyDone c q.id 0xFFFFFFFF) ++
    (x.regions.filterMap fun r => if r.2.flush.isEmpty || r.2.st != .present then none else some (.copyoutAck c r.1))

/-- Happenings due to a gang. -/
def gangPending (p : Nat × Gang) : List Instr :=
  match p.2.st with
  | .saving => [.preemptSave p.1 0]
  | .saved => if p.2.cores = [] then [] else [.resumeRestore p.1]
  | .draining => [.drainDone p.1]
  | .placed => []

def msgPending (m : Nat × Msg) : Instr :=
  match m.2 with
  | .phase _ _ _ _ _ => .phaseMessage m.1
  | .gbar _ _ _ _ => .gbarArrival m.1
  | .str _ _ _ _ _ _ _ _ => .strArrive m.1

/-- Happenings due to the schedulers and the management cores. -/
def mgmtPending (s : State) : List Instr :=
  (if s.ctl.ready then [] else [.boot s.dev]) ++
    (match s.mreqs.head? with
     | some a => if mgmtServes s then (if reqKind (physBytes s a 128) = 1 then [.mreqDestroy a] else [.mreqCreate a]) else []
     | none => []) ++
    (if s.queues.any (fun q => !q.2.isEmpty) || s.gangs.any (fun g => g.2.st == .saved || coresGone s g.2) then [.schedStep 0, .schedStep 1] else []) ++
    (if s.ctl.invGo then [.invDone] else [])

/-- Happenings due to Kiln, the counters, the containment logic and the field tests. -/
def healthPending (s : State) : List Instr :=
  (if s.clock.toNat < hourCycles s.scrubHours then []
   else (List.range 256).map (fun u => (4, u)) ++ (List.range 16).map (fun u => (5, u)) ++ (List.range 128).map (fun u => (6, u))).filterMap
      (fun p => if passOver s p.1 p.2 then some (.scrubPassStart p.1 p.2) else none) ++
    (s.buckets.map fun b =>
      (if drainDue s b then [.bucketDrainTick b.cls b.unit] else []) ++ (if windowDue s b then [.bucketWindowClose b.cls b.unit] else []) ++
        (match b.due with | some row => [.remap b.cls b.unit row] | none => [])).flatten ++
    (if s.clock.toNat % 2 ^ 20 = 0 ∧ s.clock ≠ 0 then [.containmentScan []] else []) ++
    (if s.testSoon.isEmpty && decide (s.clock.toNat < hourCycles s.testHours) then []
     else (List.range 64).filterMap fun cl => if testDue s cl && (testOf s cl).isNone then some (.fieldTestDue (cl / 32) (cl % 32)) else none) ++
    (s.ftest.map fun t =>
      if t.running then [.fieldTestEnd (t.cluster / 32) (t.cluster % 32) []]
      else [.fieldTestDue (t.cluster / 32) (t.cluster % 32), .fieldTest (t.cluster / 32) (t.cluster % 32)]).flatten

/-- Every happening that is due. -/
def pendingEvents (s : State) : List Instr :=
  mgmtPending s ++ (s.cores.map fun p => corePending s p.1 p.2).flatten ++ (s.gangs.map gangPending).flatten ++ s.msgs.map msgPending ++
    (s.walks.filterMap fun w => if w.st = .walking then some (.pageWalkDone w.id) else none) ++ healthPending s

/-- Timers that have run out: a sleep's, an age's. -/
def urgentEvent (s : State) : Option Instr :=
  s.cores.findSome? fun p => p.2.strands.findSome? fun q =>
    match q.2.hold with
    | some h => if h.k = .sleep 0 then some (.sleepExpire p.1 q.1) else if 4096 ≤ q.2.age then some (.ageExpire p.1 q.1) else none
    | none => if 4096 ≤ q.2.age then some (.ageExpire p.1 q.1) else none

end Sys2Proof.Machine
end

