-- ==== Sys2Proof/Machine/Round.lean ====
section
/-! DEFINITION. What happens next: the order of happenings (log 1), and how a program is placed for the next step. -/

namespace Sys2Proof.Machine

/-- A happening of the opcode table that befalls the device rather than being issued by a strand. -/
def isHappening (i : Instr) : Bool :=
  match i with
  | .nonInstruction _ => false
  | .fetchFault _ _ => false
  | .emptyRound => false
  | _ => i.opcode.isNone

/-- One of the happenings due, in turn with the clock (log 1). -/
def nextPending (s : State) : Option Instr :=
  let l := pendingEvents s
  l[s.clock.toNat % l.length]?

/-- The access of a strand that a chunk has let go on is performed, if the strand may still act (R148, R166). -/
def planTouch (s : State) (c sl : Nat) : Plan :=
  let may (x : Core) (st : Strand) : Bool :=
    (gangOf s x).any fun g => (aget s.ctxs g.ctx).any fun cx => s.power == .run && !markedNow x sl && mayIssue g.st cx.st st
  match getCore s c with
  | none => .over s
  | some x => if (aget x.strands sl).any (may x) then planIssue s c sl 0 0 else .over s

/-- A clock, with the acknowledgements of remote writes that come with it (log 16), and what they let be granted. -/
def clockStep (s : State) : State := grantAll (ackRemote (tick s))

/-- What the next step does: the first happening of the agenda; with none, a timer that has run out; then the round of the next
port that has a strand to issue for; when the round of the ports is over, a clock and one happening that is due. A port that the
agenda names and that may have no round in this cycle has it in the next (R41). -/
def planStep (s : State) : Plan :=
  match s.agenda with
  | .event i :: t => if isHappening i then .run i { s with agenda := t, cur := none } else .over { s with agenda := t }
  | .cycle :: t => .over (clockStep { s with agenda := t })
  | .input i :: t => .over (grantAll (applyInput i { s with agenda := t }))
  | .touch c sl :: t => planTouch { s with agenda := t } c sl
  | .issue c p m1 m2 :: t =>
    let s1 := { s with agenda := t }
    planPort (if portOpen s1 c p then s1 else clockStep s1) c p m1 m2
  | [] =>
    match urgentEvent s with
    | some i => .run i { s with cur := none }
    | none =>
      match nextIssue s with
      | some (c, p, t) => planPort { s with turn := t + 1 } c p 0 0
      | none =>
        let s1 := clockStep s
        match nextPending s1 with
        | some i => .run i { s1 with cur := none }
        | none => .over s1

/-- Faults due to strands that are BLOCKED or have no READY lane are delivered, before any grant (R82, R135). -/
def settleAll (s : State) : State :=
  s.cores.foldl (fun s p => p.2.strands.foldl (fun s q => if q.2.due.isEmpty then s else settleDue s p.1 q.1) s) s

/-- What ends a step: the round's bookkeeping, the faults now due at once, the grants that the step has made possible (R12, R81), and
the entries of walks that have found room in a host fault queue (R139). -/
def endRound (before s : State) : State := serveOwed (grantAll (settleAll (issueEnd before s)))

/-- The state a step starts from: a fresh free-value index (log 9). -/
def stepStart (s : State) : State := { s with freeCnt := s.freeCnt + 1 }

/-! ### A program placed for the next step (log 10) -/

/-- The page the placed program lies on, virtual and physical. -/
def progBase : Nat := 0x10000
def progPte : Pte :=
  { dev := 0, frame := 1, size := 0, cache := 0, rem := false, priv := false, tag := false, nv := false, xn := false, ro := false }

/-- A launch record of one gang of one workgroup of one strand: entry at the page, base demand 32 granules, scratchpad
768 KiB, lead allowance 1. -/
def progRecord : List Byte :=
  natBytes progBase 8 ++ natBytes 0 16 ++ natBytes 1 4 ++ natBytes 1 1 ++ natBytes 1 1 ++ natBytes 32 1 ++ natBytes 0 1 ++
    natBytes 786432 4 ++ natBytes 1 1 ++ natBytes 0 91

def progCtx : Ctx :=
  { num := 0, st := .live, ptroot := 0, privbase := 0, fqaddr := 0, fqlog := 0, priocap := 255, prot := false, trapctl := 0,
    qmask := 0, kdtbase := 0, kdtcnt := 0, dgroup := 0, seq := 0 }

def progGang : Gang :=
  { gid := 0, rid := 0, ctx := 0, index := 0, raw := progRecord, prio := 0, st := .placed, ticket := 0, die := 0, cores := [0],
    ended := [], saved := [], order := 0, target := none, since := 0 }

/-- The state with an instruction's words placed, so that the next step fetches and runs it. The device is READY (R410), as
it is when any gang runs. -/
def placeProgram (s : State) (ws : List Word) : State :=
  let bytes := (ws.map wordBytes).flatten
  { s with mem := writeBytes s.mem progBase bytes,
           tlbs := [{ die := 0, ctx := 0, base := progBase, e := progPte }], l1 := [],
           ctxs := [(0, progCtx)], gangs := [(0, progGang)],
           cores := [(0, newCore 0 0 [(0, newStrand 0 1 32 (List.range 32) (BitVec.ofNat 48 progBase) 0 0 0)] 0 0)],
           agenda := [], turn := 0, nextId := 2, power := .run, cur := none, ctl := { s.ctl with ready := true } }

end Sys2Proof.Machine
end

