-- ==== Sys2Proof/Machine/Step.lean ====
section
/-! DEFINITION. One step of the device. -/

namespace Sys2Proof.Machine

/-- One step: what comes next is planned (`planStep`), executed, and its round ended. -/
def step (s : State) : Host.Outcome State Fault Refusal :=
  match planStep (stepStart s) with
  | .over s1 => .next s1
  | .run i s1 =>
    match exec i s1 with
    | .next s2 => .next (endRound s1 s2)
    | .fault r => .fault r
    | .refused r => .refused r

/-- The state with the instruction that the opcode table's numbering gives placed where the next step fetches it. -/
def State.withFetchWord (s : State) (nbits w : Nat) : State := placeProgram s (tableWords nbits w)

end Sys2Proof.Machine
end

