-- ==== Sys2Proof/Safety.lean ====
section
/-! DEFINITION. The terms in which statements speak of the machine: canonical forms, the strand that issues, and what the
two shapes of an instruction (lane by lane, once for the strand) leave. -/

namespace Sys2Proof.Machine

/-! ### Canonical forms -/

/-- The registers of a strand are canonical maps, and it has its 32 lanes and a base frame (R12, R45, R73). -/
def Strand.wf (st : Strand) : Bool :=
  decide (st.lanes.length = 32) && !st.frames.isEmpty && swf RVal.zero st.k && st.frames.all (fun g => swf RVal.zero g.regs) &&
    match st.handler with
    | some h => swf RVal.zero h.regs && swf RVal.zero h.k
    | none => true

/-- The device memory, its tags and its poison are canonical maps: equal contents are equal data. -/
def State.MemInv (s : State) : Prop := Memory.wf s.mem = true ∧ swf 0 s.tags = true ∧ swf false s.gpois = true

/-- The keys of a list rise strictly. -/
def rising {α : Type} (l : List (Nat × α)) : Bool := decide ((l.map fun p => p.1).Pairwise (· < ·))

/-- The maps of a core are canonical, its strands and held lines stand in order, and the maps of its strands are canonical. -/
def Core.wf (x : Core) : Bool :=
  swf 0 x.loc && swf false x.lpois && swf RVal.zero x.tiles && swf 0 x.tc && rising x.strands && rising x.held &&
    x.strands.all fun p => p.2.wf

/-- There are six containment tables, and the maps of their copies are canonical (R162). -/
def State.TabInv (s : State) : Prop :=
  s.cont.length = 6 ∧ ∀ t ∈ s.cont, swf 0 t.c0 = true ∧ swf 0 t.c1 = true ∧ swf 0 t.c2 = true

/-- Cores and gangs stand in order, gangs under their names; the maps of every core, of every saved workgroup and of every queued
record are canonical, and the tables are. -/
def State.CoreInv (s : State) : Prop :=
  rising s.cores = true ∧ rising s.gangs = true ∧ (∀ p ∈ s.gangs, p.2.gid = p.1) ∧ (∀ p ∈ s.cores, p.2.wf = true) ∧ (∀ g ∈ s.gangs, ∀ x ∈ g.2.saved, x.wf = true) ∧
    (∀ q ∈ s.queues, ∀ r ∈ q.2, swf 0 r.tc = true) ∧ s.TabInv

/-! ### The strand that issues -/

/-- At s, strand st of core x issues the well-formed instruction i, of fields f, for the lanes of `u.mask`: it runs and waits for
nothing (R41), the registers it names lie in the frame (R46), and no datapath result mismatches (R367). -/
structure IssuesFree (i : Instr) (f : Form) (s : State) (x : Core) (st : Strand) (u : Cur) : Prop where
  at_ : issuer s = some (x, st, u)
  wf : i.wf = true
  fits : ∃ sp, i.spec = some sp ∧ fits sp f (curGran st) = true
  clean : u.mm1 = 0
  canon : st.wf = true
  runs : st.st = .running ∨ st.st = .inHandler
  idle : st.hold = none

/-- As `IssuesFree`, and no guard of a lane at the issue address is poisoned (R233). -/
structure Issues (i : Instr) (f : Form) (s : State) (x : Core) (st : Strand) (u : Cur) : Prop extends IssuesFree i f s x st u where
  guards : ∀ l, inMask u.mask l = true → (guardOf f (lane st l)).2 = false

/-- Lane l executes the instruction: it is at the issue address and its guard is true (R233). -/
def executes (f : Form) (st : Strand) (u : Cur) (l : Nat) : Bool := inMask u.mask l && (guardOf f (lane st l)).1

/-- The lanes that execute, and those at the address that do not, as masks. -/
def execMask (f : Form) (st : Strand) (u : Cur) : Word := maskOf (executes f st u)
def idleMask (f : Form) (st : Strand) (u : Cur) : Word := maskOf fun l => inMask u.mask l && !(guardOf f (lane st l)).1

/-- s with another strand in the issuing slot, and nothing else changed. -/
def withStrand (s : State) (u : Cur) (st : Strand) : State := modStrand s u.core u.slot fun _ => st

/-- Every lane at the issue address has passed the instruction. -/
def passed (f : Form) (st : Strand) (u : Cur) : Strand := advLanes st u.mask f.bytes

/-- The lanes that do not execute have passed the instruction. -/
def skipped (f : Form) (st : Strand) (u : Cur) : Strand := advLanes st (idleMask f st u) f.bytes

/-! ### Instructions that act lane by lane -/

/-- A lane after an instruction that it executed. -/
def laneDone (f : Form) (o : LaneOut) (la : Lane) : Lane :=
  let la1 := { la with pcv := la.pcv + BitVec.ofNat 48 f.bytes, fpflags := la.fpflags ||| o.flags }
  match o.pred with
  | some (b, p) => writeP la1 (f.dst.toNat % 8) b p
  | none => la1

/-- The lanes among `ex` write what `out` gives; every lane at the address passes the instruction; no other register,
predicate, flag, frame, or other part of the strand changes. -/
structure LaneEffect (f : Form) (st : Strand) (u : Cur) (ex : Nat → Bool) (out : Nat → LaneOut) (st' : Strand) : Prop where
  rest : { st' with lanes := st.lanes, k := st.k, frames := st.frames, handler := st.handler } = st
  frames : st'.frames.map (fun g => { g with regs := [] }) = st.frames.map fun g => { g with regs := [] }
  callers : st'.frames.drop 1 = st.frames.drop 1
  handler : st'.handler.map (fun h => { h with regs := [], k := [] }) = st.handler.map fun h => { h with regs := [], k := [] }
  count : st'.lanes.length = 32
  lanes : ∀ l, l < 32 → lane st' l =
    if inMask u.mask l then
      (if ex l then laneDone f (out l) (lane st l) else { lane st l with pcv := (lane st l).pcv + BitVec.ofNat 48 f.bytes })
    else lane st l
  regs : ∀ r l, l < 32 → readV st' r l =
    if ex l ∧ f.dk = false ∧ f.dst.toNat ≤ r ∧ r < f.dst.toNat + (out l).vals.length then (out l).vals.getD (r - f.dst.toNat) RVal.zero
    else readV st r l
  uniforms : ∀ n, readK st' n =
    if f.dk then
      (match (lanesOf u.mask).find? ex with
       | some l => if f.dst.toNat ≤ n ∧ n < f.dst.toNat + (out l).vals.length then (out l).vals.getD (n - f.dst.toNat) RVal.zero else readK st n
       | none => readK st n)
    else readK st n

/-- The rule of an instruction that acts lane by lane: it completes, and each executing lane's result is what `out` gives. -/
def LaneRule (mk : Form → Instr) (out : Form → Core → Strand → Cur → Nat → LaneOut) : Prop :=
  ∀ f s x st u, Issues (mk f) f s x st u →
    ∃ st', exec (mk f) s = .next (withStrand s u st') ∧ LaneEffect f st u (executes f st u) (out f x st u) st'

/-- The rule of a computation from up to three sources into wd registers, with flags: poisoned when a source is (R57). -/
def AluRule (mk : Form → Instr) (wd wa wb wc : Form → Nat) (g : Form → DWord → DWord → DWord → DWord × BitVec 9) : Prop :=
  LaneRule mk fun f _ st _ l =>
    let a := opA f st l (wa f)
    let b := opB f st l (wb f)
    let c := opC f st l (wc f)
    outWords (wd f) (g f a.v b.v c.v).1 (a.p || b.p || c.p) (g f a.v b.v c.v).2

/-- The rule of a result in a predicate. -/
def PredRule (mk : Form → Instr) (g : Form → Core → Strand → Cur → Nat → Bool × Bool) : Prop :=
  LaneRule mk fun f x st u l => outPred (g f x st u l).1 (g f x st u l).2 0

/-- The rule of an integer instruction (R280): the exact result, delivered. -/
def IntRule (mk : Form → Instr) (wb wc : Form → Nat) (g : Int → Int → Int → Int) : Prop :=
  AluRule mk Form.w64 Form.w64 wb wc fun f a b c => deliverInt (g (intOf f a) (intOf f b) (intOf f c)) (intW f) (intSgn f) f.sat

/-- The rule of a float instruction: encodings of the TYPE's format in, one encoding and flags out, in the mode RND. -/
def FloatRule (mk : Form → Instr) (wb wc : Nat) (g : Fmt → Nat → Nat → Nat → Nat → Nat × Flags) : Prop :=
  AluRule mk (fun _ => 1) (fun _ => 1) (fun _ => wb) (fun _ => wc) fun f a b c =>
    let r := g (fmtOf f.ty) f.rnd.toNat a.toNat b.toNat c.toNat
    (BitVec.ofNat 64 r.1, r.2)

/-- The rule of a paired form (R298): g on each half of the words, with the flags of both. -/
def PairRule (mk : Form → Instr) (wc : Nat) (t : Fmt) (g : Fmt → Nat → Nat → Nat → Nat → Nat × Flags) : Prop :=
  FloatRule mk 1 wc fun _ m a b c =>
    ((g t m (a % 65536) (b % 65536) (c % 65536)).1 + 65536 * (g t m (a / 65536) (b / 65536) (c / 65536)).1,
      (g t m (a % 65536) (b % 65536) (c % 65536)).2 ||| (g t m (a / 65536) (b / 65536) (c / 65536)).2)

/-- The rule of a select (R287): no guard; each lane at the issue address takes a or b by the predicate GP and GN, poisoned
as well when that is. -/
def SelectRule (mk : Form → Instr) (w : Form → Nat) : Prop :=
  ∀ f s x st u, IssuesFree (mk f) f s x st u →
    ∃ st', exec (mk f) s = .next (withStrand s u st') ∧
      LaneEffect f st u (inMask u.mask) (fun l =>
        { vals := (if (readP (lane st l) f.gp.toNat).1 != f.gn then rdRegs st f.sa.toNat f.kca l (w f) else bRegs f st l (w f)).map
            fun (v : RVal) => { v := v.v, p := v.p || (readP (lane st l) f.gp.toNat).2 }, pred := none, flags := 0 }) st'

/-- The rule of a lane move (R305): the source of the lane that `src` names, or zeros. -/
def MoveRule (mk : Form → Instr) (src : Nat → Word → Option Nat) : Prop :=
  LaneRule mk fun f _ st _ l =>
    { vals := ((match src l (opB f st l 1).lo with
        | some k => rdRegs st f.sa.toNat f.kca k f.w64
        | none => List.replicate f.w64 RVal.zero).map fun (v : RVal) => { v := v.v, p := v.p || (opB f st l 1).p }), pred := none, flags := 0 }

/-- The executing lanes, ascending. -/
def executing (f : Form) (st : Strand) (u : Cur) : List Nat := (List.range 32).filter (executes f st u)

/-! ### Instructions that act once for the strand (R246) -/

/-- The executing lanes go to the address that `t` gives, the others at the issue address pass the instruction. -/
def jumped (f : Form) (st : Strand) (u : Cur) (t : Nat → BitVec 48) : Strand :=
  { st with lanes := st.lanes.mapIdx fun l la =>
      if executes f st u l then { la with pcv := t l }
      else if inMask u.mask l then { la with pcv := la.pcv + BitVec.ofNat 48 f.bytes } else la }

/-- s with the faults of lanes raised, if there are any. -/
def raised (s : State) (u : Cur) (bad : List LFault) : State := if bad.isEmpty then s else raiseFaults s u.core u.slot bad u.w0 u.ilen

/-- A fault of cause k, without an address, in every executing lane. -/
def failing (f : Form) (st : Strand) (u : Cur) (k : Cause) (addr : DWord) : List LFault :=
  (executing f st u).map fun l => { lane := l, cause := k, addr := addr, detail := 0 }

/-- The executing lanes wait at the instruction, the others at the issue address have passed it. -/
def waiting (f : Form) (st : Strand) (u : Cur) (k : HoldK) : Strand :=
  { skipped f st u with hold := some { k := k, mask := execMask f st u, len := f.bytes } }

/-- A wait for counters: over at once when they are in their limits, else the lanes wait. -/
def waited (f : Form) (s : State) (st : Strand) (u : Cur) (k : HoldK) (met : Bool) : State :=
  withStrand s u (if met then { passed f st u with hold := none, bnd := !st.due.isEmpty } else waiting f st u k)

/-- Memory, tags and poison are as before. -/
def sameMemory (s t : State) : Prop := t.mem = s.mem ∧ t.tags = s.tags ∧ t.gpois = s.gpois

/-- The strands of other slots and cores are as before. -/
def sameOthers (s t : State) (c sl : Nat) : Prop := ∀ d m, d ≠ c ∨ m ≠ sl → getStrand t d m = getStrand s d m

/-- Some live lane that does not execute the instruction stays neither exited nor parked: no barrier sees the strand arrive. -/
def staysOut (f : Form) (st : Strand) (u : Cur) : Prop :=
  ∃ l, l < 32 ∧ executes f st u l = false ∧ ((lane st l).st = .ready ∨ (lane st l).st = .yielded)

/-- The rule of an instruction that acts once for its strand when some lane executes it: the next state. -/
def StrandRule (mk : Form → Instr) (hyp : Form → State → Core → Strand → Cur → Prop) (post : Form → State → Core → Strand → Cur → State) : Prop :=
  ∀ f s x st u, Issues (mk f) f s x st u → execMask f st u ≠ 0 → hyp f s x st u → exec (mk f) s = .next (post f s x st u)

/-- What CALL and CALLI check before they take a frame (R78). -/
def CallGoes (f : Form) (st : Strand) (top : Frame) (rest : List Frame) : Prop :=
  st.handler = none ∧ st.frames = top :: rest ∧ st.frames.length < 64 ∧
    f.sa.toNat + f.aux.toNat / 32 % 16 ≤ 8 * top.gran ∧ f.dst.toNat + f.aux.toNat / 512 % 16 ≤ 8 * top.gran ∧
    f.aux.toNat / 32 % 16 ≤ 8 * (f.aux.toNat % 32 + 1) ∧ f.aux.toNat / 512 % 16 ≤ 8 * (f.aux.toNat % 32 + 1)

/-! ### Accesses of memory -/

/-- Every operation that the core has issued has been performed. -/
def AllDone (x : Core) : Prop := ∀ o ∈ x.ops, ∀ l ∈ o.lanes, l.done = true

/-- The context whose translations the core uses. -/
def ctxNumOf (s : State) (x : Core) : Nat := ((gangOf s x).map fun g => g.ctx).getD 0

/-- An access of n bytes at a pointer may go ahead on page e: its form (R95), its alignment, its page at hand and not PRIV
(R100), no lock in its way (R152). -/
structure AccessOk (s : State) (x : Core) (u : Cur) (p : DWord) (n : Nat) (wr : Bool) (e : Pte) : Prop where
  form : ptrForm p = true
  aligned : p.toNat % n = 0
  page : xlate s u.core (ctxNumOf s x) (ptrVa p) = .hit e
  user : e.priv = false
  free : locked x 2 (ptrVa p) n wr = false

/-- t is s after an operation of class cls was issued for the executing lanes: it joins the core's operations with the lanes
given through `view`, its strand counts it and passes; memory, the store queue, the local arrays and the other strands are
as before. -/
def OpIssued {α : Type} (f : Form) (s t : State) (x : Core) (st : Strand) (u : Cur) (cls : Cls) (k : OpK) (dest : Dest) (dur : Bool)
    (view : OLane → α) (lanes : List α) : Prop :=
  ∃ x' o, getCore t u.core = some x' ∧ x'.ops = x.ops ++ [o] ∧ o.slot = u.slot ∧ o.sid = st.sid ∧ o.pc = u.pc ∧ o.w0 = u.w0 ∧
    o.k = k ∧ o.dest = dest ∧ o.dur = dur ∧ o.wait = none ∧ o.lanes.map view = lanes ∧
    getStrand t u.core u.slot = some { passed f st u with out := st.out ++ [{ cls := cls, id := o.id, done := false }] } ∧
    x'.sq = x.sq ∧ x'.loc = x.loc ∧ x'.lpois = x.lpois ∧ sameMemory s t ∧ sameOthers s t u.core u.slot

/-- t is s after a store took its entry of the queue for the executing lanes: nothing of it is in memory yet. -/
def StoreQueued {α : Type} (f : Form) (s t : State) (x : Core) (st : Strand) (u : Cur) (dir str : Bool) (view : SLane → α) (lanes : List α) : Prop :=
  ∃ x' q, getCore t u.core = some x' ∧ x'.sq = x.sq ++ [q] ∧ q.slot = u.slot ∧ q.sid = st.sid ∧ q.pc = u.pc ∧ q.w0 = u.w0 ∧ q.seq = st.seq ∧
    q.dir = dir ∧ q.str = str ∧ q.lanes.map view = lanes ∧
    getStrand t u.core u.slot =
      some { passed f st u with out := st.out ++ [{ cls := .st, id := q.id, done := false }], seq := st.seq + 1 } ∧
    x'.ops = x.ops ∧ x'.loc = x.loc ∧ x'.lpois = x.lpois ∧ sameMemory s t ∧ sameOthers s t u.core u.slot

/-- A load may be performed as a load of the core: its tags pass (R104). -/
def LoadOk (s : State) (x : Core) (u : Cur) (p : DWord) (n : Nat) (held : Bool) (e : Pte) : Prop :=
  AccessOk s x u p n false e ∧ tagFails s x e p (paOf e (ptrVa p)) n false (held && e.cache != 2) = none

/-- An atomic may go ahead: its page is writable, its operands are clean or its page may hold poison, its tags pass. -/
def AtomicOk (s : State) (x : Core) (u : Cur) (p : DWord) (n : Nat) (pois : Bool) (e : Pte) : Prop :=
  AccessOk s x u p n true e ∧ e.ro = false ∧ (pois = true → e.nv = false ∧ e.rem = false ∧ e.cache ≠ 2) ∧
    tagFails s x e p (paOf e (ptrVa p)) n true false = none

/-- Room for 32 more held lines (R109), for one more load or store of the strand, and for one more entry of the queues. -/
def RoomLoad (x : Core) (st : Strand) : Prop := heldCount x + 32 ≤ Config.heldMax ∧ outCount st .ld < 63
def RoomStore (x : Core) (st : Strand) : Prop :=
  heldCount x + 32 ≤ Config.heldMax ∧ outCount st .st < 63 ∧ x.sq.length < Config.sqDepth ∧ dueStores x < Config.sfDepth

/-- n bytes of a local array are in range, and no lock and no missing chunk is in their way (R110, R147, R152). -/
def LocalOk (s : State) (x : Core) (a n : Nat) (wr : Bool) : Prop := localIn (scrOf s x) a n = true ∧ localLock x a n wr = .free

/-- t is s after a job of an engine was registered for the executing lanes: it joins the core's jobs with entries that `ents`
describes, its strand counts it and passes; what it will read and write is as before. -/
def JobStarted (f : Form) (s t : State) (x : Core) (st : Strand) (u : Cur) (cls : Cls) (k : JobK) (ents : List REnt → Prop) : Prop :=
  ∃ x' j, getCore t u.core = some x' ∧ x'.jobs = x.jobs ++ [j] ∧ j.slot = u.slot ∧ j.sid = st.sid ∧ j.pc = u.pc ∧ j.k = k ∧ ents j.ents ∧
    getStrand t u.core u.slot = some { passed f st u with out := st.out ++ [{ cls := cls, id := j.id, done := false }] } ∧
    x'.tiles = x.tiles ∧ x'.loc = x.loc ∧ x'.lpois = x.lpois ∧ x'.ops = x.ops ∧ sameMemory s t ∧ sameOthers s t u.core u.slot

/-- The entry of the range-lock table names the tiles of one list, and those of the other as written. -/
def NamesTiles (e : REnt) (named written : List Nat) : Prop :=
  e.space = 1 ∧ ∀ n, n < 16 → (e.tmask.getLsbD n = true ↔ n ∈ named) ∧ (e.twmask.getLsbD n = true ↔ n ∈ written)

/-- The entry covers n bytes from each of the addresses that `row` gives below k, from the lowest to the highest. -/
def CoversRows (e : REnt) (space : Nat) (wr : Bool) (row : Nat → Nat) (k n : Nat) : Prop :=
  e.space = space ∧ e.write = wr ∧ (∀ i, i < k → e.base ≤ row i ∧ row i + n ≤ e.base + e.len) ∧
    (∃ i, i < k ∧ e.base = row i) ∧ ∃ i, i < k ∧ e.base + e.len = row i + n

/-- The shapes of a matrix job (R342): D is no source; widths; A is rows of D by K, B is K by columns of D. -/
def MatrixShapes (x : Core) (d a b wd wa wb : Nat) : Prop :=
  d ≠ a ∧ d ≠ b ∧ tcW (tcOf x d) = wd ∧ tcW (tcOf x a) = wa ∧ tcW (tcOf x b) = wb ∧ tcRows (tcOf x a) = tcRows (tcOf x d) ∧
    tcCols (tcOf x a) = tcRows (tcOf x b) ∧ tcCols (tcOf x b) = tcCols (tcOf x d)

/-- n bytes at a pointer that an engine reaches at their home lie on page e, which admits the access (R345, R356): as an
atomic (`wr`), or as a load. -/
def HomeOk (s : State) (x : Core) (u : Cur) (p : DWord) (n : Nat) (wr : Bool) (e : Pte) : Prop :=
  xlate s u.core (ctxNumOf s x) (ptrVa p) = .hit e ∧ e.priv = false ∧ (wr = true → e.ro = false) ∧
    (wr = false → locked x 2 (ptrVa p) n false = false) ∧ tagFails s x e p (paOf e (ptrVa p)) n true false = none

/-! ### Happenings -/

/-- The device runs, core c is x, in its canonical form. -/
structure Runs (s : State) (c : Nat) (x : Core) : Prop where
  power : s.power = .run
  core : getCore s c = some x
  wf : x.wf = true

/-- The gang of core x is g, PLACED, and its context LIVE. -/
def Live (s : State) (x : Core) (g : Gang) : Prop :=
  gangOf s x = some g ∧ g.st = .placed ∧ ∃ cx, aget s.ctxs g.ctx = some cx ∧ cx.st = .live

/-- n bytes from a physical address lie in the memory of this device. -/
def InMemory (pa n : Nat) : Prop := pa + n ≤ dramTop ∨ (caskBase ≤ pa ∧ pa + n ≤ physTop)

/-- Memory holds the bytes from pa on, and every other byte is as before. -/
def Wrote (s t : State) (pa : Nat) (bytes : List Byte) : Prop :=
  ∀ a, sget 0 t.mem a = if pa ≤ a ∧ a < pa + bytes.length then bytes.getD (a - pa) 0 else sget 0 s.mem a

/-- MSI-X vector v was raised, or has become pending while masked (R401). -/
def RaisedMsix (s t : State) (v : Nat) : Prop :=
  if v ∈ s.masked then v ∈ t.pendMsix else HostAns.msix v ∈ t.hostOut

/-! ### The step -/

/-- The state in which a port that the agenda names has its round: this cycle, or the next when it may have none in this one (R41). -/
def roundCycle (s : State) (c p : Nat) : State := if portOpen s c p then s else clockStep s

/-- At s the round of slot sl of core c comes next, on mismatch masks m1 and m2: nothing else is due before it (log 1). The
round begins in s0, in which the port has been served. -/
def NextRound (s : State) (c sl : Nat) (m1 m2 : Word) (s0 : State) : Prop :=
  ∃ p s1, ((s.agenda = [] ∧ urgentEvent (stepStart s) = none ∧ m1 = 0 ∧ m2 = 0 ∧
      ∃ t, nextIssue (stepStart s) = some (c, p, t) ∧ s1 = { stepStart s with turn := t + 1 }) ∨
    ∃ t, s.agenda = .issue c p m1 m2 :: t ∧ s1 = roundCycle { stepStart s with agenda := t } c p) ∧
    pickSlot s1 c p = some sl ∧ s0 = portServed s1 c p

/-- The line of code that holds a physical address, and the poison of its two granules, as a fetch finds it at its home (R409). -/
def homeCode (s : State) (e : Pte) (pa : Nat) : List Byte × Bool × Bool :=
  (homeBytes s e (pa / 64 * 64) 64, homePois s e (pa / 64 * 64) 32 || lateRead s e, homePois s e (pa / 64 * 64 + 32) 32 || lateRead s e)

/-- The same as the core fetches it: its cached line, or the line at its home. -/
def cachedCode (s : State) (c : Nat) (e : Pte) (pa : Nat) : List Byte × Bool × Bool :=
  ((getCore s c).bind fun x => aget x.ic (lineKey e pa)).getD (homeCode s e pa)

/-- Which line a full instruction cache loses does not matter to the fetch of n words: it has room for two lines, or its lines of
these words agree with their homes on this device (R263, log 58). -/
def FetchSure (s : State) (c : Nat) (x : Core) (pc n : Nat) : Prop :=
  x.ic.length + 2 ≤ Config.icLines ∨ ∀ k e, k < n → xlate s c (ctxNum s c) ((pc + 4 * k) % 2 ^ 48) = .hit e → e.rem = false ∧
    cachedCode s c e (paOf e ((pc + 4 * k) % 2 ^ 48)) = homeCode s e (paOf e ((pc + 4 * k) % 2 ^ 48))

/-- The words stand, clean, from an address on, on pages at hand that are neither PRIV nor XN (R100, R228). -/
def WordsAt (s : State) (c pc : Nat) (ws : List Word) : Prop :=
  ∀ k w, ws[k]? = some w → ∃ e, xlate s c (ctxNum s c) ((pc + 4 * k) % 2 ^ 48) = .hit e ∧ e.priv = false ∧ e.xn = false ∧
    ((cachedCode s c e (paOf e ((pc + 4 * k) % 2 ^ 48))).1.drop (paOf e ((pc + 4 * k) % 2 ^ 48) % 64)).take 4 = wordBytes w ∧
    (if paOf e ((pc + 4 * k) % 2 ^ 48) % 64 < 32 then (cachedCode s c e (paOf e ((pc + 4 * k) % 2 ^ 48))).2.1
      else (cachedCode s c e (paOf e ((pc + 4 * k) % 2 ^ 48))).2.2) = false

/-- What a step adds to an instruction: the end of its round. -/
def afterExec (i : Instr) (s : State) : Host.Outcome State Fault Refusal :=
  match exec i s with
  | .next t => .next (endRound s t)
  | .fault r => .fault r
  | .refused r => .refused r

end Sys2Proof.Machine
end

