-- ==== Sys2Proof/Certificates/Slice0/Obligations.lean ====
section
/-! DEFINITION. The statements for the provers: rules of the specification said of the machine. -/

section

open Sys2Proof Sys2Proof.Machine

/-! ### Instructions that act lane by lane -/

/-- R275, R276, R278, R280, R216: the integer instructions deliver the exact result of their operation. -/
def Obligations.IntegerArithmetic : Prop :=
  IntRule .iadd Form.w64 (fun _ => 0) (fun a b _ => a + b) ∧
  IntRule .isub Form.w64 (fun _ => 0) (fun a b _ => a - b) ∧
  IntRule .imin Form.w64 (fun _ => 0) (fun a b _ => if a ≤ b then a else b) ∧
  IntRule .imax Form.w64 (fun _ => 0) (fun a b _ => if a ≤ b then b else a) ∧
  IntRule .iabs (fun _ => 0) (fun _ => 0) (fun a _ _ => (a.natAbs : Int)) ∧
  IntRule .ineg (fun _ => 0) (fun _ => 0) (fun a _ _ => -a) ∧
  IntRule .isad Form.w64 Form.w64 (fun a b c => ((a - b).natAbs : Int) + c) ∧
  IntRule .imul Form.w64 (fun _ => 0) (fun a b _ => a * b) ∧
  IntRule .imad Form.w64 Form.w64 (fun a b c => a * b + c) ∧
  AluRule .imulh Form.w64 Form.w64 Form.w64 (fun _ => 0) (fun f a b _ =>
    deliverInt (intOf f a * intOf f b / 2 ^ intW f) (intW f) (intSgn f) f.sat) ∧
  AluRule .idiv Form.w64 Form.w64 Form.w64 (fun _ => 0) (fun f a b _ =>
    if intOf f b = 0 then (BitVec.allOnes 64, 0) else deliverInt ((intOf f a).tdiv (intOf f b)) (intW f) (intSgn f) f.sat) ∧
  AluRule .irem Form.w64 Form.w64 Form.w64 (fun _ => 0) (fun f a b _ =>
    if intOf f b = 0 then (a, 0)
    else deliverInt (intOf f a - intOf f b * (intOf f a).tdiv (intOf f b)) (intW f) (intSgn f) false) ∧
  AluRule .imulw (fun _ => 2) (fun _ => 1) (fun _ => 1) (fun _ => 0) (fun f a b _ =>
    deliverInt (intOf f a * intOf f b) 64 (intSgn f) false)

/-- R280: what delivering an exact integer x under a width w and a signedness gives. Without SAT it is x modulo 2^w and no
flag; with SAT it is the value of the type nearest to x, and ISAT is set exactly when that is not x. -/
def Obligations.IntegerDelivery : Prop :=
  ∀ (x : Int) (w : Nat) (sgn : Bool), w = 32 ∨ w = 64 →
    let lo : Int := if sgn then -(2 ^ (w - 1)) else 0
    let hi : Int := if sgn then 2 ^ (w - 1) - 1 else 2 ^ w - 1
    let r := readInt (deliverInt x w sgn false).1.toNat w sgn
    let q := readInt (deliverInt x w sgn true).1.toNat w sgn
    lo ≤ r ∧ r ≤ hi ∧ (2 ^ w : Int) ∣ x - r ∧ (deliverInt x w sgn false).2 = 0 ∧
      q = max lo (min x hi) ∧ (deliverInt x w sgn true).2 = if q = x then 0 else fISAT

/-- R281, R282: the logic instructions, the look-up of three inputs, the shifts and rotations by a count modulo the width,
and the funnel shifts. -/
def Obligations.LogicAndShifts : Prop :=
  AluRule .and Form.w64 Form.w64 Form.w64 (fun _ => 0) (fun _ a b _ => (a &&& b, 0)) ∧
  AluRule .or Form.w64 Form.w64 Form.w64 (fun _ => 0) (fun _ a b _ => (a ||| b, 0)) ∧
  AluRule .xor Form.w64 Form.w64 Form.w64 (fun _ => 0) (fun _ a b _ => (a ^^^ b, 0)) ∧
  AluRule .andn Form.w64 Form.w64 Form.w64 (fun _ => 0) (fun _ a b _ => (a &&& ~~~b, 0)) ∧
  AluRule .not Form.w64 Form.w64 (fun _ => 0) (fun _ => 0) (fun _ a _ _ => (~~~a, 0)) ∧
  AluRule .blut (fun _ => 1) (fun _ => 1) (fun _ => 1) (fun _ => 1) (fun f a b c =>
    ((List.range 32).foldl (fun (r : DWord) i =>
      r ||| (if f.aux.getLsbD ((if a.getLsbD i then 1 else 0) + (if b.getLsbD i then 2 else 0) + (if c.getLsbD i then 4 else 0))
        then (1 : DWord) <<< i else 0)) 0, 0)) ∧
  AluRule .shl Form.w64 Form.w64 (fun _ => 1) (fun _ => 0) (fun f a b _ => (a <<< (b.toNat % intW f), 0)) ∧
  AluRule .shr Form.w64 Form.w64 (fun _ => 1) (fun _ => 0) (fun f a b _ => (a >>> (b.toNat % intW f), 0)) ∧
  AluRule .sar Form.w64 Form.w64 (fun _ => 1) (fun _ => 0) (fun f a b _ =>
    (if f.w64 = 1 then ((a.setWidth 32).sshiftRight (b.toNat % 32)).setWidth 64 else a.sshiftRight (b.toNat % 64), 0)) ∧
  AluRule .rotl Form.w64 Form.w64 (fun _ => 1) (fun _ => 0) (fun f a b _ =>
    (if f.w64 = 1 then ((a.setWidth 32).rotateLeft (b.toNat % 32)).setWidth 64 else a.rotateLeft (b.toNat % 64), 0)) ∧
  AluRule .rotr Form.w64 Form.w64 (fun _ => 1) (fun _ => 0) (fun f a b _ =>
    (if f.w64 = 1 then ((a.setWidth 32).rotateRight (b.toNat % 32)).setWidth 64 else a.rotateRight (b.toNat % 64), 0)) ∧
  AluRule .fshl (fun _ => 1) (fun _ => 1) (fun _ => 1) (fun _ => 1) (fun _ a b c =>
    (((((a.setWidth 32 : Word) ++ (b.setWidth 32 : Word)) <<< (c.toNat % 32)).extractLsb' 32 32).setWidth 64, 0)) ∧
  AluRule .fshr (fun _ => 1) (fun _ => 1) (fun _ => 1) (fun _ => 1) (fun _ a b c =>
    (((((a.setWidth 32 : Word) ++ (b.setWidth 32 : Word)) >>> (c.toNat % 32)).extractLsb' 0 32).setWidth 64, 0))

/-- R283 to R285: counts and reversal of bits, field extract and insert, and the byte swizzle; and what the counts count, for
a value of w bits. -/
def Obligations.BitFields : Prop :=
  let control (b : DWord) : Nat × Nat :=
    if 32 ≤ b.toNat % 256 ∨ b.toNat / 256 % 256 = 0 then (0, 0) else (b.toNat % 256, min (b.toNat / 256 % 256) (32 - b.toNat % 256))
  let count (g : Nat → Nat → Nat) (f : Form) (a _ _ : DWord) : DWord × BitVec 9 := (BitVec.ofNat 64 (g a.toNat (intW f)), 0)
  AluRule .clz (fun _ => 1) Form.w64 (fun _ => 0) (fun _ => 0) (count clz) ∧
  AluRule .ctz (fun _ => 1) Form.w64 (fun _ => 0) (fun _ => 0) (count ctz) ∧
  AluRule .popc (fun _ => 1) Form.w64 (fun _ => 0) (fun _ => 0) (count popc) ∧
  AluRule .brev Form.w64 Form.w64 (fun _ => 0) (fun _ => 0) (count brev) ∧
  AluRule .bfe (fun _ => 1) (fun _ => 1) (fun _ => 1) (fun _ => 0) (fun f a b _ =>
    if (control b).2 = 0 then (0, 0)
    else (wrapInt (readInt (a.toNat / 2 ^ (control b).1) (control b).2 (intSgn f)) 32, 0)) ∧
  AluRule .bfi (fun _ => 1) (fun _ => 1) (fun _ => 1) (fun _ => 1) (fun _ a b c =>
    ((List.range 32).foldl (fun (r : DWord) i =>
      r ||| (if (if (control b).1 ≤ i ∧ i < (control b).1 + (control b).2 then a.getLsbD (i - (control b).1) else c.getLsbD i)
        then (1 : DWord) <<< i else 0)) 0, 0)) ∧
  AluRule .bswz (fun _ => 1) (fun _ => 1) (fun _ => 1) (fun _ => 0) (fun _ a b _ =>
    let byte (k prev : Nat) : Nat :=
      let c := b.toNat / 8 ^ k % 8
      if c < 4 then a.toNat / 256 ^ c % 256
      else if c = 4 then 0 else if c = 5 then 255 else if c = 6 then prev else if 128 ≤ prev then 255 else 0
    let b0 := byte 0 0
    let b1 := byte 1 b0
    let b2 := byte 2 b1
    (BitVec.ofNat 64 (b0 + 256 * b1 + 65536 * b2 + 16777216 * byte 3 b2), 0)) ∧
  (∀ v w : Nat, v < 2 ^ w →
      (clz v w ≤ w ∧ v < 2 ^ (w - clz v w) ∧ (v = 0 → clz v w = w) ∧ (v ≠ 0 → 2 ^ (w - clz v w) ≤ 2 * v)) ∧
      (ctz v w ≤ w ∧ (v = 0 → ctz v w = w) ∧ (v ≠ 0 → v.testBit (ctz v w) = true) ∧ ∀ i, i < ctz v w → v.testBit i = false) ∧
      popc v w = ((List.range w).map fun i => (v.testBit i).toNat).sum ∧
      ∀ i, i < w → (brev v w).testBit i = v.testBit (w - 1 - i))

/-- R286, R288, R289, R293: comparisons and predicate logic write a predicate, poisoned with what they read; PCHK writes
the poison of its source and is never poisoned itself. -/
def Obligations.ComparesAndPredicates : Prop :=
  let two (g : Bool → Bool → Bool) (f : Form) (st : Strand) (l : Nat) : LaneOut :=
    outPred (g (readP (lane st l) f.sa.toNat).1 (readP (lane st l) f.sb.toNat).1)
      ((readP (lane st l) f.sa.toNat).2 || (readP (lane st l) f.sb.toNat).2) 0
  let one (g : Bool → Bool) (f : Form) (st : Strand) (l : Nat) : LaneOut :=
    outPred (g (readP (lane st l) f.sa.toNat).1) (readP (lane st l) f.sa.toNat).2 0
  LaneRule .icmp (fun f _ st _ l =>
    let a := intOf f (opA f st l f.w64).v
    let b := intOf f (opB f st l f.w64).v
    let c := f.m64.toNat
    outPred (if c = 0 then decide (a = b) else if c = 1 then decide (a ≠ b) else if c = 2 then decide (a < b)
      else if c = 3 then decide (a ≤ b) else if c = 4 then decide (b < a) else decide (b ≤ a))
      ((opA f st l f.w64).p || (opB f st l f.w64).p) 0) ∧
  LaneRule .fcmp (fun f _ st _ l =>
    let r := fcmpCond f.m64 ((fmtOf f.ty).read (opA f st l 1).v.toNat) ((fmtOf f.ty).read (opB f st l 1).v.toNat)
    outPred r.1 ((opA f st l 1).p || (opB f st l 1).p) r.2) ∧
  LaneRule .pand (fun f _ st _ l => two (fun a b => a && b) f st l) ∧
  LaneRule .por (fun f _ st _ l => two (fun a b => a || b) f st l) ∧
  LaneRule .pxor (fun f _ st _ l => two (fun a b => Bool.xor a b) f st l) ∧
  LaneRule .pnot (fun f _ st _ l => one (fun a => !a) f st l) ∧
  LaneRule .pmov (fun f _ st _ l => one (fun a => a) f st l) ∧
  LaneRule .pchk (fun f _ st _ l => outPred (opA f st l 1).p false 0)

/-- R52, R287, R290, R291, R293: the selects take their source for every lane at the issue address, whatever its predicates
hold; the moves keep each register's poison; MOVK writes a uniform register from its lowest executing lane
(R49); LEA adds without a check; CVTI writes the source's integer under the destination's type; GPC gives its own address. -/
def Obligations.Moves : Prop :=
  SelectRule .isel Form.w64 ∧ SelectRule .fsel (fun _ => 1) ∧
  LaneRule .mov (fun f _ st _ l => { vals := rdRegs st f.sa.toNat f.kca l f.w64, pred := none, flags := 0 }) ∧
  LaneRule .movi (fun f _ _ _ _ =>
    { vals := if f.hasLit then [{ v := f.lit.extractLsb' 0 32, p := false }, { v := f.lit.extractLsb' 32 32, p := false }]
        else if f.ext then [{ v := f.aux, p := false }]
        else [{ v := BitVec.ofInt 32 (f.sa.extractLsb' 0 6 ++ f.sb.extractLsb' 0 6).toInt, p := false }],
      pred := none, flags := 0 }) ∧
  (∀ f s x st u, Issues (.movk f) f s x st u →
    ∃ st', exec (.movk f) s = .next (withStrand s u st') ∧
      LaneEffect { f with dk := true } st u (executes f st u) (fun l =>
        { vals := if f.hasLit then [{ v := f.lit.extractLsb' 0 32, p := false }] else [rd32 st f.sa.toNat f.kca l],
          pred := none, flags := 0 }) st') ∧
  AluRule .lea (fun _ => 2) (fun _ => 2) (fun _ => 1) (fun _ => 0) (fun f a b _ =>
    (a + ((if f.ty = 0 then (b.setWidth 32).signExtend 64 else (b.setWidth 32).setWidth 64) <<< (f.aux.toNat % 8)), 0)) ∧
  AluRule .cvti Form.w64 (fun f => wTy f.srcTy) (fun _ => 0) (fun _ => 0) (fun f a _ _ =>
    (intWrite f.ty (readInt a.toNat (intTyBits f.srcTy) (intTySigned f.srcTy)), 0)) ∧
  LaneRule .gpc (fun _ _ _ u _ => outWords 2 (u.pc.setWidth 64) false 0)

/-- R267, R304 to R307, R331: the lane moves read the lane that their selector names, executing or not; the answers over the
executing lanes; the test of a barrier's generation. -/
def Obligations.LaneMoves : Prop :=
  let yes (f : Form) (st : Strand) (u : Cur) : List Nat := (executing f st u).filter fun l => (readP (lane st l) f.sa.toNat).1
  let pois (f : Form) (st : Strand) (u : Cur) : Bool := (executing f st u).any fun l => (readP (lane st l) f.sa.toNat).2
  MoveRule .lget (fun _ b => some (b.toNat % 32)) ∧
  MoveRule .lrot (fun l b => some ((l + b.toNat) % 32)) ∧
  MoveRule .lslide (fun l b => if 0 ≤ (l : Int) - b.toInt ∧ (l : Int) - b.toInt < 32 then some ((l : Int) - b.toInt).toNat else none) ∧
  MoveRule .lswap (fun l b => some (l ^^^ (b.toNat % 32))) ∧
  LaneRule .lmask (fun f _ st u _ =>
    { vals := [{ v := maskOf fun l => decide (l ∈ yes f st u), p := pois f st u }], pred := none, flags := 0 }) ∧
  LaneRule .quorum (fun f _ st u _ =>
    let t := (yes f st u).length
    let n := (executing f st u).length
    outPred (if f.md.toNat = 0 then decide (t = n) else if f.md.toNat = 1 then decide (1 ≤ t)
      else if f.md.toNat = 2 then decide (n < 2 * t) else decide (t % 2 = 1)) (pois f st u) 0) ∧
  LaneRule .lcomb (fun f _ st u _ =>
    { vals := [{ v := combineAll f.m64.toNat (f.ty = 0) ((executing f st u).map fun l => (opA f st l 1).lo),
                 p := (executing f st u).any fun l => (opA f st l 1).p }], pred := none, flags := 0 }) ∧
  LaneRule .ldup (fun f _ st u l =>
    outPred (if f.m64 = 1 then decide (∀ m ∈ executing f st u, m < l → (opA f st m f.w64).v ≠ (opA f st l f.w64).v)
      else decide (∃ m ∈ executing f st u, m ≠ l ∧ (opA f st m f.w64).v = (opA f st l f.w64).v))
      ((executing f st u).any fun m => (opA f st m f.w64).p) 0) ∧
  LaneRule .btest (fun f x st _ l =>
    let g := if f.sb.getLsbD 4 then (barOf x.gbars (f.sb.toNat % 4)).gen else (barOf x.bars (f.sb.toNat % 16)).gen
    let a := opA f st l 1
    outPred (if f.md = 0 then decide (g ≠ a.v.setWidth 16) else decide (g.getLsbD 0 ≠ a.v.getLsbD 0)) a.p 0)

/-! ### Floats -/

/-- R292, R293, R296, R209 to R212: the scalar float instructions compute the exact result and round it once. Where OF
is set is the reading of log 20. -/
def Obligations.FloatArithmetic : Prop :=
  FloatRule .fadd 1 0 (fun t m a b _ => finish t m (fadd m (t.read a) (t.read b))) ∧
  FloatRule .fsub 1 0 (fun t m a b _ => finish t m (fadd m (t.read a) (fneg (t.read b)))) ∧
  FloatRule .fmul 1 0 (fun t m a b _ => finish t m (fmul (t.read a) (t.read b))) ∧
  FloatRule .ffma 1 1 (fun t m a b c => finish t m (ffma m (t.read a) (t.read b) (t.read c))) ∧
  FloatRule .fdiv 1 0 (fun t m a b _ => fdiv t m (t.read a) (t.read b)) ∧
  FloatRule .fsqrt 0 0 (fun t m a _ _ => fsqrt t m (t.read a)) ∧
  FloatRule .frnd 0 0 (fun t m a _ _ => frnd t m (t.read a)) ∧
  FloatRule .fmin 1 0 (fun t _ a b _ => fminmax t false a b) ∧
  FloatRule .fmax 1 0 (fun t _ a b _ => fminmax t true a b) ∧
  FloatRule .fclass 0 0 (fun t _ a _ _ => (fclass t a, 0))

/-- R206, R208, R209, R211: what rounding m × 2^−n to an integer gives in each mode: to nearest, ties to even; towards zero; up;
down; inexact exactly when it is not m × 2^−n. The value of every encoding that is no NaN rounds back to that encoding in
every mode, with no flag (a subnormal BF16 encoding aside, which reads as a zero). -/
def Obligations.Rounding : Prop :=
  (∀ (m n : Nat) (s : Bool), 0 < n →
    let r (mode : Nat) : Nat := (roundShift mode s m false (-(n : Int))).1
    (∀ mode, (roundShift mode s m false (-(n : Int))).2 = true ↔ ¬ 2 ^ n ∣ m) ∧
    (2 * m ≤ (2 * r 0 + 1) * 2 ^ n ∧ 2 * r 0 * 2 ^ n ≤ 2 * m + 2 ^ n ∧
      (2 * m = (2 * r 0 + 1) * 2 ^ n ∨ 2 * r 0 * 2 ^ n = 2 * m + 2 ^ n → r 0 % 2 = 0)) ∧
    (r 1 * 2 ^ n ≤ m ∧ m < (r 1 + 1) * 2 ^ n) ∧
    (if s then r 2 = r 1 else m ≤ r 2 * 2 ^ n ∧ r 2 * 2 ^ n < m + 2 ^ n) ∧
    (if s then m ≤ r 3 * 2 ^ n ∧ r 3 * 2 ^ n < m + 2 ^ n else r 3 = r 1)) ∧
  (∀ (t : Fmt) (mode b : Nat), t ∈ [fmtF32, fmtF16, fmtBf16, fmtE4m3, fmtE5m2] → mode < 4 → b < 2 ^ t.bits → t.read b ≠ .nan →
    (t.ftz = true → b / 2 ^ t.mb % 2 ^ t.eb = 0 → b % 2 ^ t.mb = 0) →
    roundVal t mode .plain (t.read b) = (b, 0))

/-- R210, R218, R294, R295: the approximate functions: NaN with NV for a NaN; the special and exact cases; elsewhere the
f32 function of the widened source (a free value within its bound: log 9), rounded to nearest into the type. -/
def Obligations.ApproximateFunctions : Prop :=
  let fn (k : Nat) (t : Fmt) (_ a _ _ : Nat) : Nat × Flags :=
    match t.read a, exactCase k (t.read a) with
    | .nan, _ => (t.nan, fNV)
    | _, some (v, fl) => ((roundVal t 0 .plain v).1, fl ||| (roundVal t 0 .plain v).2)
    | .num s m e, none =>
      let r := approxVal k (roundVal fmtF32 0 .plain (t.read a)).1 s m e
      ((roundVal t 0 .plain (fmtF32.read r.1)).1, r.2 ||| (roundVal t 0 .plain (fmtF32.read r.1)).2)
    | .inf _, none => (t.nan, fNV)
  FloatRule .frcp 0 0 (fn 0) ∧ FloatRule .frsq 0 0 (fn 1) ∧ FloatRule .fexp2 0 0 (fn 2) ∧ FloatRule .flog2 0 0 (fn 3) ∧
    FloatRule .fsin 0 0 (fn 4) ∧ FloatRule .fcos 0 0 (fn 5) ∧ FloatRule .ftanh 0 0 (fn 6)

/-- R213, R214, R276, R297: the conversions read the source's value, round it once under the destination's overflow rule,
and set NV for a NaN; a conversion to an integer clamps. Where OF is set is the reading of log 20. -/
def Obligations.Conversions : Prop :=
  AluRule .cvtf (fun _ => 1) (fun _ => 1) (fun _ => 0) (fun _ => 0) (fun f a _ _ =>
    let v := (fmtOf f.srcTy).read a.toNat
    let r := roundVal (fmtOf f.ty) f.rnd.toNat { sat := f.sat && decide (f.ty = 8), nosat := f.sat && decide (f.ty = 7) } v
    (BitVec.ofNat 64 r.1, r.2 ||| (if v = .nan then fNV else 0))) ∧
  AluRule .cvtfi Form.w64 (fun _ => 1) (fun _ => 0) (fun _ => 0) (fun f a _ _ =>
    let r := toInt ((fmtOf f.srcTy).read a.toNat) f.rnd.toNat (intTyBits f.ty) (intTySigned f.ty)
    (intWrite f.ty r.1, r.2)) ∧
  AluRule .cvtif (fun _ => 1) (fun f => wTy f.srcTy) (fun _ => 0) (fun _ => 0) (fun f a _ _ =>
    let x := readInt a.toNat (intTyBits f.srcTy) (intTySigned f.srcTy)
    let r := roundVal (fmtOf f.ty) f.rnd.toNat .plain (.num (decide (x < 0)) x.natAbs 0)
    (BitVec.ofNat 64 r.1, r.2))

/-- R298: the paired forms compute each half as the scalar form of its format does, with the flags of both. -/
def Obligations.PairedHalves : Prop :=
  let add (t : Fmt) (m a b _ : Nat) := finish t m (fadd m (t.read a) (t.read b))
  let mul (t : Fmt) (m a b _ : Nat) := finish t m (fmul (t.read a) (t.read b))
  let fma (t : Fmt) (m a b c : Nat) := finish t m (ffma m (t.read a) (t.read b) (t.read c))
  PairRule .hpadd 0 fmtF16 add ∧ PairRule .hpmul 0 fmtF16 mul ∧ PairRule .hpfma 1 fmtF16 fma ∧
  PairRule .bpadd 0 fmtBf16 add ∧ PairRule .bpmul 0 fmtBf16 mul ∧ PairRule .bpfma 1 fmtBf16 fma ∧
  PairRule .hpmin 0 fmtF16 (fun t _ a b _ => fminmax t false a b) ∧ PairRule .hpmax 0 fmtF16 (fun t _ a b _ => fminmax t true a b)

/-- R215, R217, R299 to R303: four-byte sums and products, dot products, and packing, element by element. -/
def Obligations.PackedForms : Prop :=
  let each (g : Nat → Nat → Nat × Flags) (_ : Form) (a b _ : DWord) : DWord × BitVec 9 :=
    (BitVec.ofNat 64 (((List.range 4).map fun k => 256 ^ k * (g (a.toNat / 256 ^ k % 256) (b.toNat / 256 ^ k % 256)).1).sum),
      (List.range 4).foldr (fun k r => (g (a.toNat / 256 ^ k % 256) (b.toNat / 256 ^ k % 256)).2 ||| r) 0)
  let q4 (mul : Bool) (f : Form) : DWord → DWord → DWord → DWord × BitVec 9 := each (fun x y =>
    if fmtE4m3.read x = .nan ∨ fmtE4m3.read y = .nan then (0x7F, fNAN)
    else
      let r := roundVal fmtE4m3 0 { sat := false, nosat := f.sat }
        (if mul then fmul (fmtE4m3.read x) (fmtE4m3.read y) else fadd 0 (fmtE4m3.read x) (fmtE4m3.read y)).1
      (r.1, if r.2 &&& fOF ≠ 0 then fOVF else 0)) f
  let dot (w : Nat) (f : Form) (a b c : DWord) : DWord × BitVec 9 :=
    deliverInt (readInt c.toNat 32 true + ((List.range (32 / w)).map fun k =>
      readInt (a.toNat / 2 ^ (w * k)) w (f.md.getLsbD 0) * readInt (b.toNat / 2 ^ (w * k)) w (f.md.getLsbD 1)).sum) 32 true f.sat
  AluRule .qadd4 (fun _ => 1) (fun _ => 1) (fun _ => 1) (fun _ => 0) (fun f => q4 false f) ∧
  AluRule .qmul4 (fun _ => 1) (fun _ => 1) (fun _ => 1) (fun _ => 0) (fun f => q4 true f) ∧
  AluRule .dot4 (fun _ => 1) (fun _ => 1) (fun _ => 1) (fun _ => 1) (dot 8) ∧
  AluRule .dot8 (fun _ => 1) (fun _ => 1) (fun _ => 1) (fun _ => 1) (dot 4) ∧
  AluRule .pack (fun _ => 1) (fun _ => 1) (fun _ => 1) (fun _ => 0) (fun f a b _ =>
    (BitVec.ofNat 64 (((List.range (32 / packWd f)).map fun k =>
      2 ^ (packWd f * k) * ((a.toNat + 2 ^ 32 * b.toNat) / 2 ^ (2 * packWd f * k) % 2 ^ packWd f)).sum), 0)) ∧
  LaneRule .unpack (fun f _ st _ l =>
    let a := rd32 st f.sa.toNat f.kca l
    { vals := natRegs (((List.range (32 / unpackWs f)).map fun k => 2 ^ (intTyBits f.ty * k) *
        (wrapInt (readInt (a.v.toNat / 2 ^ (unpackWs f * k)) (unpackWs f) (intTySigned f.srcTy)) (intTyBits f.ty)).toNat).sum) a.p (unpackN f),
      pred := none, flags := 0 }) ∧
  LaneRule .qcvt (fun f _ st _ l =>
    let a := rdRegs st f.sa.toNat f.kca l (qcvtSrc f)
    let elem (k : Nat) : Nat × Flags := qcvtElem f (regsNat a / 2 ^ (8 * qcvtSrc f * k) % 2 ^ (8 * qcvtSrc f))
    { vals := natRegs (((List.range 4).map fun k => 2 ^ (8 * qcvtDst f * k) * (elem k).1).sum) (a.any fun v => v.p) (qcvtDst f),
      pred := none, flags := (List.range 4).foldr (fun k r => (elem k).2 ||| r) 0 })

/-! ### Reads of other state, and what keeps an instruction from executing -/

/-- R64 to R66, R223, R257, R273, R359: FOLD updates the signature in its own destination pair; FRD reads a register of a
frame of the interrupted chain, a spilled one's from its record; MFS reads an assigned system register and, for the low word of a
wide read-only one, latches its high word for each lane, which of %eaddr is 0 outside a handler (another MFS ends a latch). The model's
choices here: what %prio.EFF reads (log 21); a register of a spilled frame whose record an error has struck reads as it was until the
frame comes back (log 27), and one whose record lies on a remote page reads from the model's own copy of it (log 7). -/
def Obligations.OtherReads : Prop :=
  LaneRule .fold (fun f _ st _ l =>
    let d := rd64 st f.dst.toNat false l
    let v := opA f st l 1
    let o := opB f st l 1
    outWords 2 (foldSig d.v v.lo o.v.toNat) (d.p || v.p || o.p) 0) ∧
  (∀ f s x st u g, Issues (.frd f) f s x st u → st.handler.isSome = true → st.frames[f.aux.toNat % 64]? = some g →
    f.aux.toNat / 256 % 256 < 8 * g.gran →
    (∀ l, executes f st u l = true → (opB f st l 1).p = false ∧ (opB f st l 1).v.toNat < 32) →
    ∃ st', exec (.frd f) s = .next (withStrand s u st') ∧ LaneEffect f st u (executes f st u) (fun l =>
      { vals := [rget (if g.res then g.regs else frameRegs s u.core st (f.aux.toNat % 64)) (f.aux.toNat / 256 % 256) (opB f st l 1).v.toNat],
        pred := none, flags := 0 }) st') ∧
  (∀ f s x st u, Issues (.mfs f) f s x st u → sysAssigned (sysNum f f.sa) = true →
    let n := sysNum f f.sa
    let st1 := if execMask f st u = 0 then st
      else { st with
        latch := if n ∈ [0x12, 0x14, 0x16, 0x4D] then
            some (n + 1, st.lanes.map fun la =>
              (if n = 0x12 then s.clock else if n = 0x14 then s.cap0 else if n = 0x16 then s.cap1
                else if st.handler.isSome then la.eaddr else 0).extractLsb' 32 32)
          else none }
    ∃ st', exec (.mfs f) s = .next (withStrand s u st') ∧ LaneEffect f st1 u (executes f st u) (fun l =>
      { vals := [{ v := sysRead s x st u (execMask f st u) l n, p := false }], pred := none, flags := 0 }) st')

/-- R46, R242: an instruction that names a lane register beyond its frame raises ILLEGAL in every lane at the issue address,
whatever its guard, and does nothing else. -/
def Obligations.RegistersBeyondFrame : Prop :=
  ∀ (i : Instr) (f : Form) (sp : Spec) (s : State) (x : Core) (st : Strand) (u : Cur), i.form = some f → i.spec = some sp → i.wf = true →
    issuer s = some (x, st, u) → fits sp f (curGran st) = false →
    exec i s = .next (raiseFaults s u.core u.slot
      ((lanesOf u.mask).map fun l => { lane := l, cause := .illegal, addr := 0, detail := 0 }) u.w0 u.ilen)

/-! ### Lane flow, branches, exits -/

/-- R233, R246, R77: when no lane executes an instruction that acts once for its strand, or that accesses memory lane by lane, the
lanes at its address pass it and nothing else happens. MMAS does so where its scale registers lie in the frame (R343). -/
def Obligations.NoLaneExecutes : Prop :=
  (∀ mk ∈ [Instr.nop, .exit, .yield, .sleep, .nopre, .preok, .bra, .bri, .call, .calli, .ret, .unwind, .trap, .eret, .mts, .launch,
      .ipf, .ipin, .iunpin, .fencei, .bar, .gbar, .phase, .wait, .waitt, .sdrain, .fwr, .finfo, .ldk, .rgnset, .rgnclr, .rgnfl, .pbar,
      .tcfg, .tld, .tst, .tzero, .tmov, .mma, .mtrn, .dundo, .dinit, .relabel, .sigclr, .trial,
      .ld, .ldb, .lds, .ldr, .st, .stb, .sts, .str, .atom, .acas, .afadd, .red, .atoms, .acass, .chkw, .tset, .tget, .waitw, .rng],
    ∀ f s x st u, Issues (mk f) f s x st u → execMask f st u = 0 → exec (mk f) s = .next (withStrand s u (passed f st u))) ∧
  ∀ f s x st u, Issues (.mmas f) f s x st u → execMask f st u = 0 →
    (let n := (tcCols (tcOf x (f.aux.toNat % 16)) + 15) / 16
     f.sa.toNat + n ≤ 8 * curGran st ∧ f.sb.toNat + n ≤ 8 * curGran st) →
    exec (.mmas f) s = .next (withStrand s u (passed f st u))

/-- R247, R249 to R251, R178: NOP only passes; YIELD gives up the next round; SLEEP waits 64 cycles for each unit of its
count, and not at all for 0; NOPRE opens the bracket with a count of 0 and changes nothing in an open one; PREOK closes it. -/
def Obligations.StrandFlow : Prop :=
  StrandRule .nop (fun _ _ _ _ _ => True) (fun f s _ st u => withStrand s u (passed f st u)) ∧
  StrandRule .yield (fun _ _ _ _ _ => True) (fun f s _ st u =>
    withStrand s u (modLanes (passed f st u) (execMask f st u) fun la => { la with st := .yielded })) ∧
  StrandRule .sleep (fun _ _ _ _ _ => True) (fun f s _ st u =>
    withStrand s u (if f.sa.toNat * 64 + f.sb.toNat = 0 then passed f st u
      else waiting f st u (.sleep (64 * (f.sa.toNat * 64 + f.sb.toNat))))) ∧
  StrandRule .nopre (fun _ _ _ _ _ => True) (fun f s _ st u =>
    withStrand s u { passed f st u with nopre := true, npc := if st.nopre then st.npc else 0 }) ∧
  StrandRule .preok (fun _ _ _ _ _ => True) (fun f s _ st u =>
    withStrand s u { passed f st u with nopre := false, npc := if st.nopre then 0 else st.npc })

/-- R18, R238, R248, R252, R253: EXIT makes the executing lanes EXITED, in a handler in the interrupted code as well, and when
no live lane is left the strand's slot is free; BRA sends the executing lanes to its address and four times its offset, or to
LIT; BRI sends each to
its own target, and a lane whose target is poisoned or no code address faults and stays. -/
def Obligations.BranchesAndExits : Prop :=
  (∀ f s x st u, Issues (.bra f) f s x st u →
    exec (.bra f) s = .next (withStrand s u (jumped f st u fun _ =>
      if f.hasLit then f.lit.extractLsb' 0 48
      else if f.ext then u.pc + BitVec.ofInt 48 (4 * f.aux.toInt)
      else u.pc + BitVec.ofInt 48 (4 * (f.dst.extractLsb' 0 6 ++ f.sa.extractLsb' 0 6 ++ f.sb.extractLsb' 0 6).toInt)))) ∧
  (∀ f s x st u, Issues (.bri f) f s x st u →
    let t (l : Nat) : WVal := rd64 st f.sa.toNat f.kca l
    let cause (l : Nat) : Option Cause :=
      if (t l).p then some .poisonUse else if (t l).v.toNat % 4 ≠ 0 ∨ 2 ^ 48 ≤ (t l).v.toNat then some .addrForm else none
    let bad : List LFault := (executing f st u).filterMap fun l =>
      (cause l).map fun k => { lane := l, cause := k, addr := (t l).v, detail := 0 }
    exec (.bri f) s = .next (raised (withStrand s u (jumped f st u fun l =>
      if cause l = none then (t l).v.setWidth 48 else (lane st l).pcv)) u bad)) ∧
  StrandRule .exit (fun f _ _ st u => staysOut f st u) (fun f s _ st u =>
    withStrand s u (modLanes (skipped f st u) (execMask f st u) fun la => { la with st := .exited, sst := .exited })) ∧
  (∀ f s x st u, Issues (.exit f) f s x st u → execMask f st u ≠ 0 → st.due = [] →
    (∀ l, l < 32 → (lane st l).st ≠ .exited → executes f st u l = true) →
    ∃ t, exec (.exit f) s = .next t ∧ getStrand t u.core u.slot = none)


/-! ### Frames -/

/-- R74 to R78, R81, R366: CALL and CALLI, when the frame can be granted at once, take the lowest free granules; the caller's link
gets the return address, base and count; the arguments of each executing lane are copied with their poison, all else of
the frame is zero; the executing lanes go to their targets and the others stay. Otherwise the strand blocks with its
whole demand and the targets it has read. -/
def Obligations.Calls : Prop :=
  let rule (mk : Form → Instr) (t : Form → Strand → Nat → BitVec 48) (ok : Form → Strand → Nat → Prop) : Prop :=
    ∀ f s x st u top rest, Issues (mk f) f s x st u → execMask f st u ≠ 0 → CallGoes f st top rest →
      (∀ l, inMask u.mask l = true → (lane st l).pcv = u.pc) → (∀ l, executes f st u l = true → ok f st l) →
      let d := f.aux.toNat % 32 + 1
      let a := f.aux.toNat / 32 % 16
      if grantNow x { slot := u.slot, demand := d, since := s.clock.toNat, eff := st.prio } = true then
        ∃ n st', exec (mk f) s = .next (fire
            { modCore (withStrand s u st') u.core (fun y => y.grantOver u.slot) with nextId := s.nextId + 1 }
            .frameAlloc u.core s.nextId) ∧
          st' = { st with
            lanes := st'.lanes, st := .running, block := none,
            frames := n :: { top with raddr := u.pc + BitVec.ofNat 48 f.bytes, rbase := f.dst.toNat, rcnt := f.aux.toNat / 512 % 16 } :: rest } ∧
          n.gran = d ∧ n.res = true ∧ n.phys = takeGran x d ∧ n.fid = s.nextId ∧ n.rcnt = 0 ∧ n.rbase = 0 ∧ n.raddr = 0 ∧
          (∀ r l, l < 32 → rget n.regs r l =
            if executes f st u l ∧ r < a then rget top.regs (f.sa.toNat + r) l else RVal.zero) ∧
          ∀ l, l < 32 → lane st' l = if executes f st u l then { lane st l with pcv := t f st l } else lane st l
      else
        exec (mk f) s = .next (withStrand s u { st with
          st := .blocked, block := some
            { demand := d, since := s.clock.toNat, call := some (f, (executing f st u).map fun l => (l, t f st l)) } })
  rule .call (fun f _ _ => f.lit.setWidth 48) (fun _ _ _ => True) ∧
  rule .calli (fun f st l => (rd64 st f.sb.toNat f.kcb l).v.setWidth 48) (fun f st l =>
    (rd64 st f.sb.toNat f.kcb l).p = false ∧ (rd64 st f.sb.toNat f.kcb l).v.toNat < 2 ^ 48 ∧ (rd64 st f.sb.toNat f.kcb l).v.toNat % 4 = 0)

/-- R75, R77, R79, R80, R85, R87: RET and UNWIND of a chain that is long enough complete. RET copies the return values of each
executing lane into the caller's frame, and into the record of a spilled one, and sends the lane to the return address; the other
lanes stay. UNWIND drops n frames and its executing lanes pass. The frame that is now current has a zero link-stack entry.
Where it is resident the strand goes on at once; a spilled one comes back from its record, at once or after the strand has
blocked for its granules. A record on a remote page is the model's own copy (log 7, its choice). -/
def Obligations.ReturnsAndUnwinds : Prop :=
  let goes (s t : State) (x : Core) (u : Cur) (now : Strand) (g : Frame) (rest : List Frame) : Prop :=
    if g.res then getStrand t u.core u.slot = some now
    else ∀ cx, ctxOf s x = some cx → ∃ st'' h, getStrand t u.core u.slot = some st'' ∧
      (st'' = { now with st := .blocked, block := some { demand := g.gran, since := s.clock.toNat, call := none } } ∨
        (st'' = { now with st := .running, block := none, frames := h :: rest } ∧
          h = { restored s (dieOf u.core) cx now 0 g with res := true, phys := h.phys }))
  (∀ f s x st u top g rest, Issues (.ret f) f s x st u → execMask f st u ≠ 0 → st.handler = none → st.frames = top :: g :: rest →
    ∃ t now g', exec (.ret f) s = .next t ∧ sameOthers s t u.core u.slot ∧
      (let s1 := if g.res then s else recordSync (withStrand s u now) u.core now 0
          ((executing f st u).map fun l => (List.range g.rcnt).map fun i => 32 * (g.rbase + i) + l).flatten
       sameMemory s1 t ∧ goes s1 t x u now g' rest) ∧
      now = { st with lanes := now.lanes, frames := g' :: rest } ∧ g' = { g with regs := g'.regs, raddr := 0, rbase := 0, rcnt := 0 } ∧
      (∀ r l, l < 32 → rget g'.regs r l =
        if executes f st u l ∧ g.rbase ≤ r ∧ r < g.rbase + g.rcnt then rget top.regs (r - g.rbase) l else rget g.regs r l) ∧
      ∀ l, l < 32 → lane now l = if executes f st u l then { lane st l with pcv := g.raddr } else lane st l) ∧
  (∀ f s x st u g rest, Issues (.unwind f) f s x st u → execMask f st u ≠ 0 → st.handler = none → 0 < f.sa.toNat →
    st.frames.drop f.sa.toNat = g :: rest →
    let g' : Frame := { g with raddr := 0, rbase := 0, rcnt := 0 }
    ∃ t, exec (.unwind f) s = .next t ∧ sameMemory s t ∧ sameOthers s t u.core u.slot ∧
      goes s t x u { advLanes st (execMask f st u) f.bytes with frames := g' :: rest } g' rest)

/-- R78 to R80, R255, R265, R266, R268: what makes a frame instruction, a barrier or PHASE fail, and what TRAP raises: a
fault of every executing lane. -/
def Obligations.StrandFaults : Prop :=
  (∀ mk ∈ [Instr.call, .calli, .ret, .unwind, .bar, .gbar, .phase], ∀ f s x st u, Issues (mk f) f s x st u → execMask f st u ≠ 0 →
    st.handler.isSome = true → ∃ s', exec (mk f) s = .next (raiseFaults s' u.core u.slot (failing f st u .illegal 0) u.w0 u.ilen) ∧
      (s' = s ∨ s' = withStrand s u (skipped f st u))) ∧
  (∀ f s x st u, Issues (.ret f) f s x st u → execMask f st u ≠ 0 → st.frames.length ≤ 1 →
    exec (.ret f) s = .next (raiseFaults s u.core u.slot (failing f st u .illegal 0) u.w0 u.ilen)) ∧
  (∀ f s x st u, Issues (.unwind f) f s x st u → execMask f st u ≠ 0 →
    f.sa.toNat = 0 ∨ st.frames.length ≤ f.sa.toNat →
    exec (.unwind f) s = .next (raiseFaults s u.core u.slot (failing f st u .illegal 0) u.w0 u.ilen)) ∧
  (∀ mk ∈ [Instr.call, .calli], ∀ f s x st u top rest, Issues (mk f) f s x st u → execMask f st u ≠ 0 → st.handler = none →
    st.frames = top :: rest →
    (8 * top.gran < f.sa.toNat + f.aux.toNat / 32 % 16 ∨ 8 * top.gran < f.dst.toNat + f.aux.toNat / 512 % 16 →
      exec (mk f) s = .next (raiseFaults s u.core u.slot (failing f st u .illegal 0) u.w0 u.ilen)) ∧
    (f.sa.toNat + f.aux.toNat / 32 % 16 ≤ 8 * top.gran → f.dst.toNat + f.aux.toNat / 512 % 16 ≤ 8 * top.gran → st.frames.length = 64 →
      f.aux.toNat / 32 % 16 ≤ 8 * (f.aux.toNat % 32 + 1) → f.aux.toNat / 512 % 16 ≤ 8 * (f.aux.toNat % 32 + 1) →
      exec (mk f) s = .next (raiseFaults s u.core u.slot (failing f st u .frameDepth 0) u.w0 u.ilen))) ∧
  StrandRule .trap (fun _ _ _ _ _ => True) (fun f s _ st u =>
    raiseFaults (withStrand s u (skipped f st u)) u.core u.slot (failing f st u .swtrap 0) u.w0 u.ilen)

/-! ### System registers, waits, barriers -/

/-- R64 to R71, R258: MTS of a register it may write, with a word it accepts, completes. A per-lane register takes each executing
lane's word; %sigstat is cleared by a one; %trapctl and %trapvec take the lowest executing lane's, from the next cycle on, and of
the ports that write one in a cycle the highest stands. A word with a reserved bit or a reserved action is ILLEGAL: of a per-lane
register in the lanes whose word has one, while the others write theirs; else in every executing lane. Numbers from 0x200 on give
PRIV, others that are not writable ILLEGAL. -/
def Obligations.SystemWrites : Prop :=
  let num (f : Form) : Nat := if f.ext then f.aux.toNat else f.dst.toNat % 16 * 64 + f.sb.toNat
  let word (f : Form) (st : Strand) (l : Nat) : Word := (opA f st l 1).v.setWidth 32
  let first (f : Form) (st : Strand) (u : Cur) : Nat := ((executing f st u).head?).getD 0
  let lanes (n : Nat) (g : Word → Lane → Lane) (hyp : Strand → Prop) (ok : Word → Bool) : Prop :=
    StrandRule .mts (fun f _ _ st _ => num f = n ∧ hyp st) (fun f s _ st u =>
      raised (withStrand s u { st with
        lanes := st.lanes.mapIdx fun l la =>
          if executes f st u l then
            (if ok (word f st l) then { g (word f st l) la with pcv := la.pcv + BitVec.ofNat 48 f.bytes } else la)
          else if inMask u.mask l then { la with pcv := la.pcv + BitVec.ofNat 48 f.bytes } else la }) u
        (((executing f st u).filter fun l => !ok (word f st l)).map fun l => { lane := l, cause := .illegal, addr := 0, detail := 0 }))
  let once (n : Nat) (ok : Word → Bool) (post : Form → State → Strand → Cur → Word → State) : Prop :=
    StrandRule .mts (fun f _ _ _ _ => num f = n) (fun f s _ st u =>
      if ok (word f st (first f st u)) then post f s st u (word f st (first f st u))
      else raiseFaults (withStrand s u (skipped f st u)) u.core u.slot (failing f st u .illegal 0) u.w0 u.ilen)
  lanes 0x20 (fun v la => { la with fpflags := v.setWidth 9 }) (fun _ => True) (fun v => decide (v.toNat < 2 ^ 9)) ∧
  lanes 0x4B (fun v la => { la with epc := (la.epc.extractLsb' 32 16 ++ v : BitVec 48) }) (fun st => st.handler.isSome = true) (fun v => decide (v.toNat % 4 = 0)) ∧
  lanes 0x4C (fun v la => { la with epc := (v.setWidth 16 ++ la.epc.extractLsb' 0 32 : BitVec 48) }) (fun st => st.handler.isSome = true)
    (fun v => decide (v.toNat < 2 ^ 16)) ∧
  lanes 0x4F (fun v la => { la with epred := v.setWidth 7, epoison := 0 }) (fun st => st.handler.isSome = true) (fun v => decide (v.toNat < 2 ^ 7)) ∧
  once 0x22 (fun v => decide (v.toNat < 2)) (fun f s st u v => withStrand s u { passed f st u with sigstat := st.sigstat && v.toNat != 1 }) ∧
  (∀ n ∈ [0x40, 0x41, 0x42],
    once n (fun v => if n = 0x40 then decide (v.toNat < 2 ^ 26 ∧ ∀ i, i < 13 → v.extractLsb' (2 * i) 2 ≠ 3)
        else if n = 0x41 then decide (v.toNat % 4 = 0) else decide (v.toNat < 2 ^ 16)) (fun f s st u v =>
      modCore (withStrand s u (passed f st u)) u.core fun x => { x with sysNext := x.sysNext ++ [(n, u.slot % 4, v)] })) ∧
  (∀ s c x, getCore s c = some x → ∃ y, getCore (tick s) c = some y ∧ y.trapctl = (sysSettle x).trapctl ∧ y.trapvec = (sysSettle x).trapvec ∧
    y.sysNext = []) ∧
  (∀ (x : Core) p v, p < 4 →
    let one (n : Nat) : Core := sysSettle { x with sysNext := [(n, p, v)] }
    one 0x40 = { x with sysNext := [], trapctl := v } ∧
    one 0x41 = { x with sysNext := [], trapvec := (x.trapvec.extractLsb' 32 16 ++ v : BitVec 48) } ∧
    one 0x42 = { x with sysNext := [], trapvec := (v.setWidth 16 ++ x.trapvec.extractLsb' 0 32 : BitVec 48) } ∧
    ∀ n ∈ [0x40, 0x41, 0x42], ∀ q w, q < p → sysSettle { x with sysNext := [(n, q, w), (n, p, v)] } = one n ∧
      sysSettle { x with sysNext := [(n, p, v), (n, q, w)] } = one n) ∧
  StrandRule .mts (fun f _ _ _ _ => 0x200 ≤ num f) (fun f s _ st u =>
    raiseFaults (withStrand s u (skipped f st u)) u.core u.slot (failing f st u .priv 0) u.w0 u.ilen) ∧
  StrandRule .mts (fun f _ _ st _ => num f < 0x200 ∧ num f ∉ [0x20, 0x22, 0x40, 0x41, 0x42] ∧
      (num f ∉ [0x4B, 0x4C, 0x4F] ∨ st.handler = none)) (fun f s _ st u =>
    raiseFaults (withStrand s u (skipped f st u)) u.core u.slot (failing f st u .illegal 0) u.w0 u.ilen)

/-- R263, R264, R274, R333, R337: FENCEI leaves the core's instruction cache with its pinned lines only, those of this device as they stand at their homes; FINFO gives FREEG, HFREE and the granules of the
strand's resident and spilled frames; PBAR closes the open Cask segment; TCFG sets a tile's shape where no job names it. -/
def Obligations.CoreState : Prop :=
  (∀ f s x st u, Issues (.fencei f) f s x st u → execMask f st u ≠ 0 →
    ∃ t x', exec (.fencei f) s = .next t ∧ getCore t u.core = some x' ∧ getStrand t u.core u.slot = some (passed f st u) ∧ sameMemory s t ∧
      sameOthers s t u.core u.slot ∧ x'.pins = x.pins ∧ ∀ k,
        if k ∈ x.pins then
          let pa := 64 * (k % 2 ^ 44)
          (keyPage k).rem = false →
            aget x'.ic k = some (homeBytes s (keyPage k) pa 64, homePois s (keyPage k) pa 32, homePois s (keyPage k) (pa + 32) 32)
        else aget x'.ic k = none) ∧
  LaneRule .finfo (fun _ x st _ _ =>
    let sum (r : Bool) : Nat := ((st.frames.filter fun g => g.res == r).map fun g => g.gran).sum
    { vals := [{ v := BitVec.ofNat 32 (freeG x + 2 ^ 9 * hFree x + 2 ^ 12 * sum true + 2 ^ 21 * sum false), p := false }], pred := none, flags := 0 }) ∧
  (∀ f s x st u, Issues (.pbar f) f s x st u → execMask f st u ≠ 0 →
    exec (.pbar f) s = .next (if x.segOpen then
      { modCore (withStrand s u (passed f st u)) u.core (fun x => { x with seg := x.seg + 1, segOpen := false }) with segs := sset 0 s.segs u.core (x.seg + 1) }
      else withStrand s u (passed f st u))) ∧
  (∀ f s x st u, Issues (.tcfg f) f s x st u → execMask f st u ≠ 0 →
    let l := ((executing f st u).head?).getD 0
    let v : Word := if f.hasLit then f.lit.setWidth 32 else (rd32 st f.sa.toNat f.kca l).v
    let t := f.dst.toNat % 16
    (f.hasLit = false → (rd32 st f.sa.toNat f.kca l).p = false) →
    let e := v.toNat % 8
    let w := if e = 0 ∨ 5 < e then 0 else 2 ^ e
    if w = 0 ∨ v.getLsbD 3 = true ∨ 2 ^ 18 ≤ v.toNat ∨ 131072 < (v.toNat / 16 % 64 + 1) * (v.toNat / 1024 % 256 + 1) * w then
      exec (.tcfg f) s = .next (raiseFaults (withStrand s u (skipped f st u)) u.core u.slot (failing f st u .illegal 0) u.w0 u.ilen)
    else (∀ j ∈ x.jobs, ∀ e ∈ j.ents, e.space = 1 → e.tmask.getLsbD t = false) →
      exec (.tcfg f) s = .next (modCore (withStrand s u (passed f st u)) u.core fun x => { x with tc := sset 0 x.tc t v }))

/-- R168, R270 to R272: the waits are over at once when the counters lie in their limits (SDRAIN: when every earlier store of
the strand has left the queue); else the executing lanes wait. -/
def Obligations.CounterWaits : Prop :=
  let n (st : Strand) (c : Cls) : Nat := (st.out.filter fun o => o.cls = c).length
  (∀ f s x st u, Issues (.wait f) f s x st u → execMask f st u ≠ 0 →
    let lim (i : Nat) : Nat := if f.ext then f.aux.toNat / 2 ^ (6 * i) % 64
      else if i = 0 then f.dst.toNat else if i = 1 then f.sa.toNat else if i = 2 then f.sb.toNat else 63
    exec (.wait f) s = .next (waited f s st u (.wait (lim 0) (lim 1) (lim 2) (lim 3))
      (decide (n st .ld ≤ lim 0 ∧ n st .st ≤ lim 1 ∧ n st .cp ≤ lim 2 ∧ n st .tl ≤ lim 3)))) ∧
  (∀ f s x st u, Issues (.waitt f) f s x st u → execMask f st u ≠ 0 →
    exec (.waitt f) s = .next (waited f s st u (.waitt f.sa.toNat (64 * f.dst.toNat + f.sb.toNat))
      (decide (n st (.tag f.sa.toNat) ≤ 64 * f.dst.toNat + f.sb.toNat)))) ∧
  (∀ f s x st u, Issues (.sdrain f) f s x st u → execMask f st u ≠ 0 →
    exec (.sdrain f) s = .next (waited f s st u (.sdrain st.seq) (decide (∀ e ∈ x.sq, e.sid = st.sid → st.seq ≤ e.seq))))

/-- R174, R265, R266: BAR and GBAR park the executing lanes; while some live lane of the strand stays elsewhere nothing else
happens. At BAR the strand arrives when its last live lane does: ARR rises, the first arrival fixes EXP, and when ARR
reaches EXP in a LIVE context (R269) the generation rises and the lanes pass. -/
def Obligations.Barriers : Prop :=
  StrandRule .bar (fun f _ _ st u => st.handler = none ∧ staysOut f st u) (fun f s _ st u =>
    withStrand s u { modLanes (skipped f st u) (execMask f st u) (fun la => { la with st := .parked (.bar f.sa.toNat) }) with
      barN := aput st.barN f.sa.toNat f.sb.toNat }) ∧
  StrandRule .gbar (fun f _ _ st u => st.handler = none ∧ staysOut f st u) (fun f s _ st u =>
    withStrand s u (modLanes (skipped f st u) (execMask f st u) fun la => { la with st := .parked (.gbar f.sa.toNat) })) ∧
  (∀ f s x st u, Issues (.bar f) f s x st u → execMask f st u ≠ 0 → st.handler = none → st.arrived = none →
    (∀ l, l < 32 → (lane st l).st ≠ .exited → executes f st u l = true) → (∃ l, l < 32 ∧ executes f st u l = true ∧ (lane st l).st ≠ .exited) →
    let r := barOf x.bars f.sa.toNat
    let n := if r.arr = 0 then (if f.sb.toNat = 0 then x.strands.length else f.sb.toNat) else r.exp
    ∃ t x' st', exec (.bar f) s = .next t ∧ getCore t u.core = some x' ∧ getStrand t u.core u.slot = some st' ∧ sameMemory s t ∧
      if r.arr + 1 = n ∧ coreLive s x = true then
        (barOf x'.bars f.sa.toNat).arr = 0 ∧ (barOf x'.bars f.sa.toNat).gen = r.gen + 1 ∧ st'.arrived = none ∧
          ∀ l, l < 32 → executes f st u l = true → lane st' l = { lane st l with st := .ready, pcv := (lane st l).pcv + BitVec.ofNat 48 f.bytes }
      else
        (barOf x'.bars f.sa.toNat).arr = r.arr + 1 ∧ (barOf x'.bars f.sa.toNat).exp = n ∧ (barOf x'.bars f.sa.toNat).gen = r.gen ∧
          st'.arrived = some f.sa.toNat ∧
          ∀ l, l < 32 → executes f st u l = true → lane st' l = { lane st l with st := .parked (.bar f.sa.toNat) })

/-- R27, R29, R268: PHASE holds its strand at the boundary; when the last live strand of the workgroup arrives the workgroup
publishes, or waits for the lead test. -/
def Obligations.PhaseArrival : Prop :=
  let held (f : Form) (st : Strand) (u : Cur) : Strand :=
    { skipped f st u with st := .atPhase, phMask := execMask f st u, phLen := f.bytes, dur := decide (f.md = 0x280) }
  StrandRule .phase (fun _ _ x st u => st.handler = none ∧
      (x.pst ≠ .running ∨ ∃ p ∈ x.strands, p.1 ≠ u.slot ∧ atPhase p.2 = false)) (fun f s _ st u => withStrand s u (held f st u)) ∧
  (∀ f s x st u, Issues (.phase f) f s x st u → execMask f st u ≠ 0 → st.handler = none → x.pst = .running →
    (x.strands.map fun p => p.1).Nodup → (∀ p ∈ x.strands, p.1 ≠ u.slot → atPhase p.2 = true) →
    let dur := decide (f.md = 0x280) || x.strands.any fun p => decide (p.1 ≠ u.slot) && p.2.dur
    ∃ t x', exec (.phase f) s = .next t ∧ getCore t u.core = some x' ∧ getStrand t u.core u.slot = some (held f st u) ∧ sameMemory s t ∧
      x'.phase = x.phase ∧ x'.pst = if leadOk s x then .publishing false dur else .leadWait false dur true)

/-! ### Traps -/

/-- R18, R67, R361 to R363: what TRAP does under each action of %trapctl.SWT. TRAP with a handler frame free: the lanes are
saved and start at %trapvec with their predicates false, the handler's bank is zero, and the strand is IN_HANDLER at
priority 255. KILL: the executing lanes exit. HALT: the context is HALTED and the lanes stay. -/
def Obligations.TrapActions : Prop :=
  (∀ f s x st u, Issues (.trap f) f s x st u → execMask f st u ≠ 0 → st.handler = none → st.hold = none →
    x.trapctl.extractLsb' 24 2 = 1 → x.trapvec ≠ 0 → handlerFree x u.slot = true →
    ∃ t st' h, exec (.trap f) s = .next t ∧ sameMemory s t ∧ sameOthers s t u.core u.slot ∧ getStrand t u.core u.slot = some st' ∧
      st'.st = .inHandler ∧ st'.eff = 255 ∧ st'.handler = some h ∧ h.emask = execMask f st u ∧
      h.ecause = BitVec.ofNat 32 (0x13 + 256 * u.ilen) ∧ h.eword = u.w0 ∧ (∀ r l, rget h.regs r l = RVal.zero) ∧
      (∀ n, sget RVal.zero h.k n = RVal.zero) ∧ h.idx < 4 ∧ h.idx ∉ usedHandlers x ∧ st'.frames = st.frames ∧ st'.k = st.k ∧
      ∀ l, l < 32 → lane st' l =
        let la := lane (skipped f st u) l
        if la.st = .exited then la
        else { la with
          epc := la.pcv, eaddr := 0, epred := la.p, epoison := la.pp, sst := if la.st = .yielded then .ready else la.st,
          p := 0, pp := 0, st := .ready, pcv := x.trapvec }) ∧
  (∀ f s x st u, Issues (.trap f) f s x st u → execMask f st u ≠ 0 → st.handler = none → x.trapctl.extractLsb' 24 2 = 0 → staysOut f st u →
    ∃ t, exec (.trap f) s = .next t ∧ sameOthers s t u.core u.slot ∧ getStrand t u.core u.slot =
      some (modLanes (skipped f st u) (execMask f st u) fun la => { la with st := .exited, sst := .exited })) ∧
  (∀ f s x st u g c, Issues (.trap f) f s x st u → execMask f st u ≠ 0 → st.handler = none → x.trapctl.extractLsb' 24 2 = 2 →
    gangOf s x = some g → aget s.ctxs g.ctx = some c → c.st = .live →
    ∃ t c', exec (.trap f) s = .next t ∧ getStrand t u.core u.slot = some (skipped f st u) ∧ sameOthers s t u.core u.slot ∧
      aget t.ctxs g.ctx = some c' ∧ c'.st = .halted)

/-- R50, R88, R256: ERET in a handler, when a live lane was READY in the interrupted code: each live lane goes to its %epc
with its saved predicates and state, the handler is unbound, the strand runs or is BLOCKED again, and its effective
priority is its base. Outside a handler ERET is ILLEGAL. -/
def Obligations.TrapReturn : Prop :=
  (∀ f s x st u, Issues (.eret f) f s x st u → execMask f st u ≠ 0 → st.handler.isSome = true →
    (∃ l, l < 32 ∧ (lane st l).st ≠ .exited ∧ (lane st l).sst = .ready) →
    ∃ t st', exec (.eret f) s = .next t ∧ sameMemory s t ∧ sameOthers s t u.core u.slot ∧ getStrand t u.core u.slot = some st' ∧
      st' = { st with
        lanes := st'.lanes, handler := none, st := if st.block.isSome then .blocked else .running, eff := st.prio } ∧
      ∀ l, l < 32 → (lane st l).st ≠ .exited →
        lane st' l = { lane st l with pcv := (lane st l).epc, p := (lane st l).epred, pp := (lane st l).epoison, st := (lane st l).sst }) ∧
  StrandRule .eret (fun _ _ _ st _ => st.handler = none) (fun f s _ st u =>
    raiseFaults (withStrand s u (skipped f st u)) u.core u.slot (failing f st u .illegal 0) u.w0 u.ilen)

/-- R89, R273: FWR in a handler writes, for each executing lane, the register and the lane that it names in a frame of the
interrupted chain, with the source's poison; of lanes that name the same one, the highest stands. The registers of a spilled
frame are written into its record too (of one on a remote page no byte here changes: log 7, the model's choice); of a resident one,
no byte of memory changes. -/
def Obligations.FrameWrites : Prop :=
  ∀ f s x st u g, Issues (.fwr f) f s x st u → execMask f st u ≠ 0 → st.handler.isSome = true →
    st.frames[f.aux.toNat % 64]? = some g → f.aux.toNat / 256 % 256 < 8 * g.gran →
    (∀ l, executes f st u l = true → (opB f st l 1).p = false ∧ (opB f st l 1).v.toNat < 32) →
    ∃ st' g', exec (.fwr f) s = .next (if g.res then withStrand s u st'
        else recordSync (withStrand s u st') u.core st' (f.aux.toNat % 64)
          ((executing f st u).map fun l => 32 * (f.aux.toNat / 256 % 256) + (opB f st l 1).v.toNat)) ∧ st' = { passed f st u with frames := lmod st.frames (f.aux.toNat % 64) fun _ => g' } ∧
      g' = { g with regs := g'.regs } ∧
      ∀ r i, i < 32 → rget g'.regs r i =
        match (executing f st u).reverse.find? fun l => (opB f st l 1).v.toNat = i with
        | some l => if r = f.aux.toNat / 256 % 256 then rd32 st f.sa.toNat f.kca l else rget g.regs r i
        | none => rget g.regs r i

/-! ### Code lines, launches, waits on words -/

/-- R262, R263: IPF, IPIN and IUNPIN of an unpoisoned code address below 2^48: the executing lanes pass; each line of the
span that can be fetched (a single one, or one of a span whose pages are all at hand) is in the instruction cache after IPF and
IPIN while the cache has room and its home is this device, and in the pin set after IPIN
while that has room; after IUNPIN none of them is pinned. -/
def Obligations.CodeLines : Prop :=
  let addr (f : Form) (st : Strand) (u : Cur) : WVal := opA f st (((executing f st u).head?).getD 0) 2
  let inSpan (f : Form) (a n : Nat) : Prop :=
    if f.ext then 0 < f.aux.toNat ∧ a / 64 ≤ n ∧ n ≤ (a + f.aux.toNat - 1) / 64 else n = a / 64
  let rule (mk : Form → Instr) (walks : Bool) (q : Form → Core → Core → Pte → Nat → Prop) : Prop :=
    ∀ f s x st u, Issues (mk f) f s x st u → execMask f st u ≠ 0 → (addr f st u).p = false → (addr f st u).v.toNat < 2 ^ 48 →
      ∃ t x', exec (mk f) s = .next t ∧ getCore t u.core = some x' ∧ getStrand t u.core u.slot = some (passed f st u) ∧ sameMemory s t ∧
        sameOthers s t u.core u.slot ∧
        ((walks = true → (∀ n, inSpan f (addr f st u).v.toNat n → n = (addr f st u).v.toNat / 64) ∨
            ∀ n cx, inSpan f (addr f st u).v.toNat n → ctxOf s x = some cx → (tlbCore s u.core cx.num (64 * n)).isSome = true) →
          ∀ n e pa, inSpan f (addr f st u).v.toNat n → codeLine s u.core n = some (e, pa) → q f x x' e (lineKey e pa))
  let span (f : Form) : Nat := if f.ext then f.aux.toNat / 64 + 2 else 1
  rule .ipf true (fun f x x' e k => (e.rem = false → x.ic.length + span f ≤ 2048 → (aget x'.ic k).isSome = true) ∧ x'.pins = x.pins) ∧
  rule .ipin true (fun f x x' e k => (e.rem = false → x.ic.length + span f ≤ 2048 → (aget x'.ic k).isSome = true) ∧
    (x.pins.length + span f ≤ 256 → k ∈ x'.pins)) ∧
  rule .iunpin false (fun _ x x' _ k => x'.ic = x.ic ∧ k ∉ x'.pins)

/-- R9, R129, R259: LAUNCH of a record that its core can read: with room in a queue that its context may use, the 128 bytes
join the queue with their priority under the context's ceiling and the executing lanes get 0; a full queue is left as it
is and they get 1. A queue that the context may not use is PRIV. -/
def Obligations.Launches : Prop :=
  let ptr (f : Form) (st : Strand) (u : Cur) : WVal := opA f st (((executing f st u).head?).getD 0) 2
  (∀ f s x st u cx e1 e2 s1 bytes, Issues (.launch f) f s x st u → execMask f st u ≠ 0 → (ptr f st u).p = false → ptrForm (ptr f st u).v = true →
    ctxOf s x = some cx → cx.qmask.getLsbD f.aux.toNat = true → (∀ o ∈ x.ops, ∀ l ∈ o.lanes, l.done = true) →
    let s0 := withStrand s u (skipped f st u)
    let ctx := ((gangOf s x).map fun g => g.ctx).getD 0
    xlate s0 u.core ctx (ptrVa (ptr f st u).v) = .hit e1 → xlate s0 u.core ctx (ptrVa (ptrAdd (ptr f st u).v 127)) = .hit e2 →
    readPieces u.core ctx { lane := ((executing f st u).head?).getD 0, ptr := (ptr f st u).v, n := 128, data := [], b := wz, c := wz } s0
      (recPieces (ptr f st u).v) = .ok s1 (bytes, false) →
    let q := (aget s.queues f.aux.toNat).getD []
    let full : Bool := decide (Config.queueDepth ≤ q.length)
    ∃ t st', exec (.launch f) s = .next t ∧ getStrand t u.core u.slot = some st' ∧ sameMemory s t ∧ sameOthers s t u.core u.slot ∧
      st'.lanes = (passed f st u).lanes ∧
      (∀ r l, l < 32 → readV st' r l =
        if f.dk = false ∧ executes f st u l = true ∧ r = f.dst.toNat then { v := if full then 1 else 0, p := false } else readV st r l) ∧
      (∀ n, readK st' n = if f.dk = true ∧ n = f.dst.toNat then { v := if full then 1 else 0, p := false } else readK st n) ∧
      (if full then t.queues = s.queues
       else ∃ r, t.queues = aput s.queues f.aux.toNat (q ++ [r]) ∧ r.raw = bytes ∧ r.ctx = ctx ∧
        r.prio = min (recPrio bytes) (((aget s.ctxs ctx).map fun c => c.priocap).getD 0) ∧ r.next = 0 ∧ r.checked = false)) ∧
  StrandRule .launch (fun f s x st u => (ptr f st u).p = false ∧ ptrForm (ptr f st u).v = true ∧
      ∃ cx, ctxOf s x = some cx ∧ cx.qmask.getLsbD f.aux.toNat = false) (fun f s _ st u =>
    raiseFaults (withStrand s u (skipped f st u)) u.core u.slot (failing f st u .priv 0) u.w0 u.ilen)

/-! ### Memory -/

/-- R60, R168, R310, R313, R316, R317, R320, R321: LD, LDB and LDK whose accesses may go ahead issue one operation, of class
LD, for their executing lanes (LDK: for the lowest); it is performed and lands later. A lane of LDB beyond the buffer's limit
gets zeros without an access where the descriptor says so. -/
def Obligations.Loads : Prop :=
  let ptr (f : Form) (st : Strand) (l : Nat) : DWord := ptrAdd (opA f st l 2).v f.aux.toInt
  let lane1 (l : OLane) : Nat × DWord × Nat × Pte × Bool := (l.lane, l.ptr, l.pa, l.e, l.done)
  let dest (f : Form) (st : Strand) : Dest :=
    if f.dk then .k f.dst.toNat f.memW (st.handler.map fun h => h.fid) else .v (curFid st) f.dst.toNat f.memW
  (∀ f s x st u (e : Nat → Pte), Issues (.ld f) f s x st u → execMask f st u ≠ 0 → RoomLoad x st →
    (∀ l, executes f st u l = true → (opA f st l 2).p = false ∧ LoadOk s x u (ptr f st l) f.memBytes (!f.dir) (e l)) →
    ∃ t, exec (.ld f) s = .next t ∧ OpIssued f s t x st u .ld (.load (!f.dir) f.ty) (dest f st) false lane1
      ((executing f st u).map fun l => (l, ptr f st l, paOf (e l) (ptrVa (ptr f st l)), e l, false))) ∧
  (∀ f s x st u (e : Nat → Pte), Issues (.ldb f) f s x st u → execMask f st u ≠ 0 → RoomLoad x st →
    let d := f.sa.toNat
    let base : DWord := (readK st (d + 1)).v ++ (readK st d).v
    let flags := (readK st (d + 3)).v
    let off (l : Nat) : Int := ((opB f st l 1).v.toNat * 2 ^ (flags.toNat % 8) : Nat) + f.aux.toInt
    (∀ i, i < 4 → (readK st (d + i)).p = false) → flags.toNat < 2 ^ 5 → flags.getLsbD 3 = false → flags.toNat % 8 ≤ 4 →
    (∀ l, executes f st u l = true → (opB f st l 1).p = false ∧ ptrForm (ptrAdd base (off l)) = true ∧
      if 0 ≤ off l ∧ off l + f.memBytes ≤ (readK st (d + 2)).v.toNat then LoadOk s x u (ptrAdd base (off l)) f.memBytes (!f.dir) (e l)
      else flags.getLsbD 4 = true) →
    ∃ t, exec (.ldb f) s = .next t ∧ OpIssued f s t x st u .ld (.load (!f.dir) f.ty) (dest f st) false
      (fun l => (l.lane, if l.done then none else some (l.ptr, l.pa, l.e), l.vals))
      ((executing f st u).map fun l =>
        if 0 ≤ off l ∧ off l + f.memBytes ≤ (readK st (d + 2)).v.toNat then
          (l, some (ptrAdd base (off l), paOf (e l) (ptrVa (ptrAdd base (off l))), e l), [])
        else (l, none, List.replicate f.memW RVal.zero))) ∧
  (∀ f s x st u e, Issues (.ldk f) f s x st u → execMask f st u ≠ 0 → RoomLoad x st →
    let l := ((executing f st u).head?).getD 0
    (opA f st l 2).p = false → LoadOk s x u (ptr f st l) f.memBytes (!f.dir) e →
    ∃ t, exec (.ldk f) s = .next t ∧ OpIssued f s t x st u .ld (.load (!f.dir) f.ty)
      (.k f.dst.toNat f.memW (st.handler.map fun h => h.fid)) false lane1 [(l, ptr f st l, paOf e (ptrVa (ptr f st l)), e, false)])

/-- R110, R114, R196, R316, R319: LDS reads the local array at issue, with its core's own STRs that are queued or on their way; LDR sends its request to the core that the window names,
where the ticket of the gang is the same. -/
def Obligations.LocalLoads : Prop :=
  let addr (f : Form) (st : Strand) (l : Nat) : Nat := (BitVec.ofInt 32 (((opA f st l 1).v.toNat : Int) + f.aux.toInt)).toNat
  let dest (f : Form) (st : Strand) : Dest :=
    if f.dk then .k f.dst.toNat f.memW (st.handler.map fun h => h.fid) else .v (curFid st) f.dst.toNat f.memW
  (∀ f s x st u, Issues (.lds f) f s x st u → execMask f st u ≠ 0 → outCount st .ld < 63 →
    (∀ l, executes f st u l = true → (opA f st l 1).p = false ∧ LocalOk s x (addr f st l) f.memBytes false) →
    ∃ t, exec (.lds f) s = .next t ∧ OpIssued f s t x st u .ld .value (dest f st) false (fun l => (l.lane, l.vals, l.done))
      ((executing f st u).map fun l =>
        (l, loadVals f.ty (strRead s u.core x u.core x (addr f st l) f.memBytes s.nextId).1 (strRead s u.core x u.core x (addr f st l) f.memBytes s.nextId).2, true))) ∧
  (∀ s c x a n lim, let r := strRead s c x c x a n lim
    ((∀ q ∈ x.sq, q.str = false) → s.msgs = [] →
      r = (readBytes x.loc a n, (List.range n).any fun i => sget false x.lpois ((a + i) / 4))) ∧
    ∀ q l before i, x.sq = before ++ [q] → q.str = true → q.id < lim → q.lanes = [l] → windowCore c l.pa = c → i < n →
      (l.pa % 2 ^ 20 ≤ a + i ∧ a + i < l.pa % 2 ^ 20 + l.data.length) → r.1[i]? = l.data[a + i - l.pa % 2 ^ 20]?) ∧
  (∀ f s x st u, Issues (.ldr f) f s x st u → execMask f st u ≠ 0 → outCount st .ld < 63 →
    (∀ l, executes f st u l = true → (opA f st l 1).p = false ∧ addr f st l < 2 ^ 22 ∧ addr f st l % 2 ^ 20 + f.memBytes ≤ scrOf s x ∧
      addr f st l % f.memBytes = 0 ∧ ticketOk s u.core x (addr f st l) = true) →
    ∃ t, exec (.ldr f) s = .next t ∧ OpIssued f s t x st u .ld (.ldr f.ty) (dest f st) false (fun l => (l.lane, l.pa, l.done))
      ((executing f st u).map fun l => (l, addr f st l, false)))

/-- R133, R134, R136, R318, R321: ST, STB and STR whose stores may go ahead take one entry of the store queue, in program order;
no byte of memory changes yet. Each lane carries the poison of each 32-bit word of its data (R314). A lane of STB beyond the limit
takes a bound verdict in the entry, or is dropped where the descriptor says so; a store all of whose lanes are dropped is counted ST, and
retires at once where no older store of its strand is outstanding (R168). -/
def Obligations.Stores : Prop :=
  let ptr (f : Form) (st : Strand) (l : Nat) : DWord := ptrAdd (opA f st l 2).v f.aux.toInt
  (∀ f s x st u (e : Nat → Pte), Issues (.st f) f s x st u → execMask f st u ≠ 0 → RoomStore x st → AllDone x →
    (∀ l, executes f st u l = true → (opA f st l 2).p = false ∧ AccessOk s x u (ptr f st l) f.memBytes true (e l) ∧
      ((storeData f st l).2.any id = true → (e l).nv = false ∧ (e l).rem = false ∧ (e l).cache ≠ 2)) →
    ∃ t, exec (.st f) s = .next t ∧ StoreQueued f s t x st u f.dir false (fun l => (l.lane, l.ptr, l.pa, l.data, l.pw, l.bound))
      ((executing f st u).map fun l =>
        (l, ptr f st l, paOf (e l) (ptrVa (ptr f st l)), (storeData f st l).1, (storeData f st l).2, none))) ∧
  (∀ f s x st u (e : Nat → Pte), Issues (.stb f) f s x st u → execMask f st u ≠ 0 → RoomStore x st → AllDone x →
    let d := f.sa.toNat
    let base : DWord := (readK st (d + 1)).v ++ (readK st d).v
    let flags := (readK st (d + 3)).v
    let lim := (readK st (d + 2)).v
    let off (l : Nat) : Int := ((opB f st l 1).v.toNat * 2 ^ (flags.toNat % 8) : Nat) + f.aux.toInt
    let inside (l : Nat) : Bool := decide (0 ≤ off l ∧ off l + f.memBytes ≤ lim.toNat)
    let data (l : Nat) : List Byte × List Bool := dataOf st f.sc.toNat f.kcc l f.memW f.memBytes
    let stores : List Nat := (executing f st u).filter fun l => inside l || !flags.getLsbD 4
    (∀ i, i < 4 → (readK st (d + i)).p = false) → flags.toNat < 2 ^ 5 → flags.getLsbD 3 = false → flags.toNat % 8 ≤ 4 →
    (∀ l, executes f st u l = true → (opB f st l 1).p = false ∧ ptrForm (ptrAdd base (off l)) = true ∧
      (inside l = true → AccessOk s x u (ptrAdd base (off l)) f.memBytes true (e l) ∧
        ((data l).2.any id = true → (e l).nv = false ∧ (e l).rem = false ∧ (e l).cache ≠ 2))) →
    if stores = [] then
      exec (.stb f) s = .next (withStrand s u { passed f st u with out := retireList (st.out ++ [{ cls := .st, id := s.nextId, done := true }]) [] })
    else ∃ t, exec (.stb f) s = .next t ∧ StoreQueued f s t x st u f.dir false (fun l => (l.lane, l.ptr, l.bound, l.data, l.pw))
      (stores.map fun l => (l, ptrAdd base (off l), if inside l then none else some lim,
        if inside l then data l else ([], [])))) ∧
  (∀ f s x st u, Issues (.str f) f s x st u → execMask f st u ≠ 0 → RoomStore x st →
    let addr (l : Nat) : Nat := (BitVec.ofInt 32 (((opA f st l 1).v.toNat : Int) + f.aux.toInt)).toNat
    (∀ l, executes f st u l = true → (opA f st l 1).p = false ∧ addr l < 2 ^ 22 ∧ addr l % 2 ^ 20 + f.memBytes ≤ scrOf s x ∧
      addr l % f.memBytes = 0) →
    ∃ t, exec (.str f) s = .next t ∧ StoreQueued f s t x st u false true (fun l => (l.lane, l.pa, l.data, l.pw))
      ((executing f st u).map fun l => (l, addr l, (storeData f st l).1, (storeData f st l).2)))

/-- R110, R168, R314, R318, R325: STS, ATOMS and ACASS act on the local array at issue, lane after lane in ascending order (`y`: the core
before each); every other byte of it, memory, and the other strands are as before. The atomics' old values land later. STS is counted
ST, and retires at once where no older store of its strand is outstanding. A word written with poisoned bytes is poisoned, a
word wholly written with clean ones is clean, any other keeps its poison. -/
def Obligations.LocalUpdates : Prop :=
  let addr (f : Form) (st : Strand) (l : Nat) : Nat := (BitVec.ofInt 32 (((opA f st l 1).v.toNat : Int) + f.aux.toInt)).toNat
  let old (y : Core) (a n : Nat) : DWord := BitVec.ofNat 64 (bytesNat (readBytes y.loc a n))
  let oldP (y : Core) (a n : Nat) : Bool := (wordsIn a n).any fun w => sget false y.lpois w
  let atomic (mk : Form → Instr) (c : Form → Strand → Nat → Bool) (g : Form → Strand → Nat → DWord → DWord) : Prop :=
    ∀ f s x st u, Issues (mk f) f s x st u → execMask f st u ≠ 0 → outCount st .ld < 63 →
      (∀ l, executes f st u l = true → (opA f st l 1).p = false ∧ LocalOk s x (addr f st l) (atomBytes f.ty) true) →
      ∃ (t : State) (y : Nat → Core) (o : Nat → OLane), exec (mk f) s = .next t ∧ y 0 = x ∧
        (∀ i (h : i < (executing f st u).length),
          let l := (executing f st u)[i]
          let a := addr f st l
          let n := atomBytes f.ty
          y (i + 1) = locWrite (y i) a (natBytes (g f st l (old (y i) a n)).toNat n)
              (List.replicate (n / 4) (oldP (y i) a n || c f st l)) ∧
            (o i).lane = l ∧ (o i).vals = valsOf (old (y i) a n) n (oldP (y i) a n)) ∧
        ∃ x' op, getCore t u.core = some x' ∧ x'.loc = (y (executing f st u).length).loc ∧ x'.lpois = (y (executing f st u).length).lpois ∧
          x'.ops = x.ops ++ [op] ∧ op.k = .value ∧
          op.dest = (if f.dk then .k f.dst.toNat f.w64 (st.handler.map fun h => h.fid) else .v (curFid st) f.dst.toNat f.w64) ∧
          op.lanes.map (fun l => (l.lane, l.vals)) = (List.range (executing f st u).length).map (fun i => ((o i).lane, (o i).vals)) ∧
          getStrand t u.core u.slot = some { passed f st u with out := st.out ++ [{ cls := .ld, id := op.id, done := false }] } ∧
          sameMemory s t ∧ sameOthers s t u.core u.slot
  (∀ f s x st u, Issues (.sts f) f s x st u → execMask f st u ≠ 0 → x.wf = true → outCount st .st < 63 →
    (∀ l, executes f st u l = true → (opA f st l 1).p = false ∧ LocalOk s x (addr f st l) f.memBytes true) →
    ∃ t x', exec (.sts f) s = .next t ∧ getCore t u.core = some x' ∧ getStrand t u.core u.slot =
        some { passed f st u with out := retireList (st.out ++ [{ cls := .st, id := s.nextId, done := true }]) [] } ∧
      sameMemory s t ∧ sameOthers s t u.core u.slot ∧ x'.sq = x.sq ∧ x'.ops = x.ops ∧
      x'.lpois = ((executing f st u).foldl (fun y l => locWrite y (addr f st l) (storeData f st l).1 (storeData f st l).2) x).lpois ∧
      (∀ b, sget 0 x'.loc b =
        match (executing f st u).reverse.find? fun l => decide (addr f st l ≤ b ∧ b < addr f st l + f.memBytes) with
        | some l => (storeData f st l).1.getD (b - addr f st l) 0
        | none => sget 0 x.loc b)) ∧
  (∀ (y : Core) a data pw w, y.wf = true → sget false (locWrite y a data pw).lpois w =
    if ∃ i, i < data.length ∧ (a + i) / 4 = w ∧ pw.getD (i / 4) false = true then true
    else if a ≤ 4 * w ∧ 4 * w + 4 ≤ a + data.length then false else sget false y.lpois w) ∧
  (∀ (l : List Out) id, (∀ o ∈ l, o.done = false) → retireList (l ++ [{ cls := .st, id := id, done := true }]) [] =
    if ∃ o ∈ l, o.cls = .st then l ++ [{ cls := .st, id := id, done := true }] else l) ∧
  atomic .atoms (fun f st l => (opB f st l f.w64).p) (fun f st l m => atomOp f.m64.toNat f.ty m (opB f st l f.w64).v) ∧
  atomic .acass (fun f st l => (opB f st l f.w64).p || (opC f st l f.w64).p)
    (fun f st l m => if m = (opB f st l f.w64).v then (opC f st l f.w64).v else m)

/-- R168, R314, R322 to R326: the global atomics whose accesses may go ahead issue one operation: class LD with the old values to
land, class ST for RED, which lands nothing; under scope .dur it retires when its writes are durable. The new value of a word:
sum, lesser, greater, and, or, exclusive or, exchange. -/
def Obligations.Atomics : Prop :=
  let ptr (f : Form) (st : Strand) (l : Nat) : DWord := ptrAdd (opA f st l 2).v f.aux.toInt
  let rule (mk : Form → Instr) (cls : Cls) (k : Form → OpK) (wd : Form → Option Nat) (n w : Form → Nat) (third : Bool) : Prop :=
    ∀ f s x st u (e : Nat → Pte), Issues (mk f) f s x st u → execMask f st u ≠ 0 → outCount st cls < 63 →
      (∀ l, executes f st u l = true → (opA f st l 2).p = false ∧
        AtomicOk s x u (ptr f st l) (n f) ((opB f st l (w f)).p || (third && (opC f st l (w f)).p)) (e l)) →
      ∃ t, exec (mk f) s = .next t ∧ OpIssued f s t x st u cls (k f)
        (match wd f with
         | some m => if f.dk then .k f.dst.toNat m (st.handler.map fun h => h.fid) else .v (curFid st) f.dst.toNat m
         | none => .none) (decide (f.scope = 5)) (fun l => (l.lane, l.ptr, l.pa, l.e, l.b, if third then l.c else wz, l.done))
        ((executing f st u).map fun l => (l, ptr f st l, paOf (e l) (ptrVa (ptr f st l)), e l, opB f st l (w f),
          if third then opC f st l (w f) else wz, false))
  rule .atom .ld (fun f => .atom f.m64.toNat f.ty) (fun f => some f.w64) (fun f => atomBytes f.ty) Form.w64 false ∧
  rule .acas .ld (fun f => .acas f.ty) (fun f => some f.w64) (fun f => atomBytes f.ty) Form.w64 true ∧
  rule .afadd .ld (fun f => .afadd f.ty) (fun _ => some 1) (fun _ => 4) (fun _ => 1) false ∧
  rule .red .st (fun f => .atom f.m64.toNat f.ty) (fun _ => none) (fun f => atomBytes f.ty) Form.w64 false ∧
  ∀ (t : BitVec 4) (m b : DWord), t.toNat < 4 →
    let w := if t.toNat < 2 then 32 else 64
    let v (x : DWord) : Int := readInt x.toNat w (decide (t.toNat % 2 = 0))
    (2 ^ w : Int) ∣ v (atomOp 0 t m b) - (v m + v b) ∧ v (atomOp 1 t m b) = min (v m) (v b) ∧ v (atomOp 2 t m b) = max (v m) (v b) ∧
      atomOp 3 t m b = m &&& b ∧ atomOp 4 t m b = m ||| b ∧ atomOp 5 t m b = m ^^^ b ∧ atomOp 6 t m b = b

/-- R327: CPA of sources at hand takes a place of the copy queue with the destination and the source runs of each executing
lane, counted on its tag. -/
def Obligations.Copies : Prop :=
  ∀ f s x st u (e : Nat → Pte), Issues (.cpa f) f s x st u → execMask f st u ≠ 0 → outCount st (.tag f.md.toNat) < 255 →
    (x.cpas.filter fun q => q.sid = st.sid).length < 8 →
    let d (l : Nat) : Nat := (rd32 st f.dst.toNat false l).v.toNat
    let p (l : Nat) : DWord := (opA f st l 2).v
    let n (l : Nat) : Nat := (opB f st l 1).v.toNat
    (∀ l, executes f st u l = true → (rd32 st f.dst.toNat false l).p = false ∧ (opA f st l 2).p = false ∧ (opB f st l 1).p = false ∧
      n l ≤ 32 ∧ d l % 32 = 0 ∧ LocalOk s x (d l) 32 true ∧ (0 < n l → ptrForm (p l) = true ∧ ptrVa (p l) % 64 + n l ≤ 64 ∧
        xlate s u.core (ctxNumOf s x) (ptrVa (p l)) = .hit (e l) ∧ (e l).priv = false ∧
        tagFails s x (e l) (p l) (paOf (e l) (ptrVa (p l))) (n l) false true = none)) →
    ∃ t x' q, exec (.cpa f) s = .next t ∧ getCore t u.core = some x' ∧ x'.cpas = x.cpas ++ [q] ∧ q.slot = u.slot ∧ q.sid = st.sid ∧
      q.tag = f.md.toNat ∧ q.lanes = (executing f st u).map (fun l =>
        ⟨l, d l, if n l = 0 then [] else [{ ptr := p l, pa := paOf (e l) (ptrVa (p l)), n := n l, e := e l }], 0, 0, false⟩) ∧
      getStrand t u.core u.slot = some { passed f st u with out := st.out ++ [{ cls := .tag f.md.toNat, id := q.id, done := false }] } ∧
      x'.loc = x.loc ∧ sameMemory s t ∧ sameOthers s t u.core u.slot

/-- R145 to R151, R328 to R331: RGNSET binds an empty entry to the window that a readable block describes (one of a remote home is answered in time, R409); RGNCLR empties an entry,
or waits while it is FLUSHING; RGNFL of a writable, present entry starts its copy-out, counted CP; CHKW lets the lanes
pass whose chunks are present and parks the others; CHKT writes for each lane whether they are. -/
def Obligations.Regions : Prop :=
  (∀ f s x st u e g, Issues (.rgnset f) f s x st u → execMask f st u ≠ 0 → AllDone x → heldCount x + 32 ≤ Config.heldMax →
    let l := ((executing f st u).head?).getD 0
    let p := opA f st l 2
    let pa := paOf e (ptrVa p.v)
    p.p = false → p.v.toNat % 128 = 0 → AccessOk (withStrand s u (skipped f st u)) x u p.v 128 false e →
    e.cache = 2 → lateRead s e = false → tagFails s x e p.v pa 128 false false = none → (viewRead s x e pa 128 false).2 = false →
    aget x.regions f.aux.toNat = none → regionFrom (scrOf s x) (viewRead s x e pa 128 false).1 u.slot false = some g → windowMeets x g = false →
    exec (.rgnset f) s = .next (modCore (withStrand s u (passed f st u)) u.core fun x => { x with regions := aput x.regions f.aux.toNat g })) ∧
  (∀ f s x st u, Issues (.rgnclr f) f s x st u → execMask f st u ≠ 0 →
    match aget x.regions f.aux.toNat with
    | none => exec (.rgnclr f) s = .next (withStrand s u (passed f st u))
    | some r =>
      if r.st = .flushing then exec (.rgnclr f) s = .next (withStrand s u (waiting f st u (.rgnclr f.aux.toNat)))
      else ∃ t x', exec (.rgnclr f) s = .next t ∧ getCore t u.core = some x' ∧ aget x'.regions f.aux.toNat = none ∧
        (∀ n, n ≠ f.aux.toNat → aget x'.regions n = aget x.regions n) ∧ (∀ j ∈ x'.jobs, j.k ≠ .fill f.aux.toNat) ∧ sameMemory s t) ∧
  (∀ f s x st u r, Issues (.rgnfl f) f s x st u → execMask f st u ≠ 0 → aget x.regions f.aux.toNat = some r → r.wr = true → r.st = .present →
    outCount st .cp < 63 → lockRoom x 2 = true →
    ∃ t x' j, exec (.rgnfl f) s = .next t ∧ getCore t u.core = some x' ∧ aget x'.regions f.aux.toNat = some { r with st := .flushing } ∧
      x'.jobs = x.jobs ++ [j] ∧ j.k = .copyout f.aux.toNat s.nextId ∧ j.ents.length = 2 ∧
      getStrand t u.core u.slot = some { passed f st u with out := st.out ++ [{ cls := .cp, id := s.nextId, done := false }] } ∧
      sameMemory s t ∧ sameOthers s t u.core u.slot) ∧
  StrandRule .rgnfl (fun f _ x _ _ => ∀ r, aget x.regions f.aux.toNat = some r → r.wr = false) (fun f s _ st u =>
    raiseFaults (withStrand s u (skipped f st u)) u.core u.slot (failing f st u .illegal 0) u.w0 u.ilen) ∧
  (∀ f s x st u, Issues (.chkw f) f s x st u → (∀ l, executes f st u l = true → (opB f st l 1).p = false) →
    (∀ r, aget x.regions (f.aux.toNat % 32) = some r → r.st ≠ .absent) →
    let here (l : Nat) : Bool := match aget x.regions (f.aux.toNat % 32) with
      | none => true
      | some r => (List.range 32).all fun i => !(opB f st l 1).v.getLsbD i || r.bitmap.getLsbD (32 * (f.aux.toNat / 32 % 16) + i)
    let after (l : Nat) (la : Lane) : Lane :=
      if executes f st u l && !here l then
        { la with st := .parked (.chkw (f.aux.toNat % 32) (f.aux.toNat / 32 % 16) ((opB f st l 1).v.setWidth 32)) }
      else if inMask u.mask l then { la with pcv := la.pcv + BitVec.ofNat 48 f.bytes } else la
    exec (.chkw f) s = .next (withStrand s u { st with lanes := st.lanes.mapIdx after })) ∧
  (∀ f s x st u, Issues (.chkt f) f s x st u → (∀ l, executes f st u l = true → (opB f st l 1).p = false) →
    ∃ st', exec (.chkt f) s = .next (withStrand s u st') ∧ LaneEffect f st u (executes f st u) (fun l =>
      outPred (match aget x.regions (f.aux.toNat % 32) with
        | none => true
        | some r => (List.range 32).all fun i => !(opB f st l 1).v.getLsbD i || r.bitmap.getLsbD (32 * (f.aux.toNat / 32 % 16) + i)) false 0) st')

/-- R104, R200, R332: TSET on tagged, writable pages of this device, of granules that no engine of another core has yet to read, sets the tag of each
executing lane's granule, the highest lane of one granule last, and no byte, poison or other tag; TGET gives each lane its granule's tag, poisoned as the granule is. On
pages of a remote device the requests are sent, and the strand issues nothing until they are acknowledged. -/
def Obligations.Tags : Prop :=
  let ptr (f : Form) (st : Strand) (l : Nat) : DWord := ptrAdd (opA f st l 2).v f.aux.toInt
  (∀ f s x st u (e : Nat → Pte), Issues (.tset f) f s x st u → s.MemInv → (∀ p ∈ s.cores, AllDone p.2) →
    let gran (l : Nat) : Nat := paOf (e l) (ptrVa (ptr f st l)) / 32
    (∀ l, executes f st u l = true → (opA f st l 2).p = false ∧ (opB f st l 1).p = false ∧ AccessOk s x u (ptr f st l) 1 true (e l) ∧
      (e l).ro = false ∧ (e l).tag = true ∧ (e l).rem = false ∧ isDev (32 * gran l) = false ∧ tagAwaited s u.core (e l) (gran l) = false) →
    ∃ t, exec (.tset f) s = .next t ∧ getStrand t u.core u.slot = some (passed f st u) ∧ sameOthers s t u.core u.slot ∧
      t.mem = s.mem ∧ t.gpois = s.gpois ∧
      ∀ g, sget 0 t.tags g =
        match (executing f st u).reverse.find? fun l => decide (gran l = g) with
        | some l => (opB f st l 1).v.setWidth 4
        | none => sget 0 s.tags g) ∧
  (∀ f s x st u (e : Nat → Pte), Issues (.tset f) f s x st u → execMask f st u ≠ 0 →
    (∀ l, executes f st u l = true → (opA f st l 2).p = false ∧ (opB f st l 1).p = false ∧ AccessOk s x u (ptr f st l) 1 true (e l) ∧
      (e l).ro = false ∧ (e l).tag = true ∧ (e l).rem = true) →
    ∃ t, exec (.tset f) s = .next t ∧ sameMemory s t ∧ sameOthers s t u.core u.slot ∧
      getStrand t u.core u.slot = some { passed f st u with
        hold := some { k := .remote ((List.range (executing f st u).length).map fun i => s.nextId + i), mask := 0, len := 0 } } ∧
      ∃ sent, t.remote = s.remote ++ sent ∧ sent.map (fun r => (r.id, r.dev, r.pa, r.core, r.data)) = (executing f st u).zipIdx.map fun p =>
        (s.nextId + p.2, (e p.1).dev, paOf (e p.1) (ptrVa (ptr f st p.1)), u.core, [((opB f st p.1 1).v.setWidth 4).setWidth 8])) ∧
  (∀ f s x st u (e : Nat → Pte), Issues (.tget f) f s x st u →
    let gran (l : Nat) : Nat := paOf (e l) (ptrVa (ptr f st l)) / 32
    (∀ l, executes f st u l = true → (opA f st l 2).p = false ∧ AccessOk s x u (ptr f st l) 1 false (e l) ∧ (e l).ro = false ∧ (e l).tag = true) →
    let far : List Nat := (executing f st u).filter fun l => (e l).rem && (lineOf x (lineKey (e l) (32 * gran l))).read.isNone
    ∃ t st', exec (.tget f) s = .next t ∧ (far = [] → t = withStrand s u st') ∧ sameMemory s t ∧ sameOthers s t u.core u.slot ∧
      (let ids := (List.range far.length).map fun i => s.nextId + i
       getStrand t u.core u.slot = some { st' with hold := if far = [] then none else some { k := .remote ids, mask := 0, len := 0 } }) ∧ LaneEffect f st u (executes f st u) (fun l =>
      { vals := [{ v := (viewTag s x (e l) (gran l) true).setWidth 32, p := viewPois s x (e l) (gran l) true }], pred := none, flags := 0 }) st')

/-! ### Waits on words, tiles, engines -/

/-- R261: WAITW tests the word of each executing lane as a load does that holds no line: where the condition holds the lane
passes, else it is parked with what it waits for (a word of a remote home is answered in time, R409). That the core's own dirty bytes count is the reading of log 22. -/
def Obligations.WaitsOnWords : Prop :=
  let ptr (f : Form) (st : Strand) (l : Nat) : DWord := ptrAdd (opA f st l 2).v f.aux.toInt
  ∀ f s x st u (e : Nat → Pte), Issues (.waitw f) f s x st u → AllDone x →
    let n := if f.ty.toNat < 2 then 4 else 8
    let val (l : Nat) : WVal := opB f st l (n / 4)
    let word (l : Nat) : List Byte × Bool := viewRead s x (e l) (paOf (e l) (ptrVa (ptr f st l))) n false
    let int (v : Nat) : Int := readInt v (8 * n) (decide (f.ty.toNat % 2 = 0))
    let holds (l : Nat) : Bool :=
      let w := int (bytesNat (word l).1)
      let v := int (val l).v.toNat
      match f.m64.toNat with
      | 0 => decide (w = v)
      | 1 => decide (w ≠ v)
      | 2 => decide (v ≤ w)
      | 3 => decide (v < w)
      | 4 => decide (w < v)
      | 5 => decide (w ≤ v)
      | _ => bytesNat (word l).1 &&& (val l).v.toNat != 0
    (∀ l, executes f st u l = true → (opA f st l 2).p = false ∧ (val l).p = false ∧ LoadOk s x u (ptr f st l) n false (e l) ∧
      lateRead s (e l) = false ∧ (word l).2 = false) →
    let after (l : Nat) (la : Lane) : Lane :=
      if executes f st u l && !holds l then { la with st := .parked (.waitw (ptr f st l) (val l).v f.ty f.m64 u.w0) }
      else if inMask u.mask l then { la with pcv := la.pcv + BitVec.ofNat 48 f.bytes } else la
    ∃ t, exec (.waitw f) s = .next t ∧ getStrand t u.core u.slot = some { st with lanes := st.lanes.mapIdx after } ∧ sameMemory s t ∧
      sameOthers s t u.core u.slot

/-- R338: TLD and TST of a tile with a shape, on pages or local bytes that admit the access, register a job of class TL with
the range from its lowest to its highest byte and its tile. -/
def Obligations.TileAccesses : Prop :=
  let first (f : Form) (st : Strand) (u : Cur) : Nat := ((executing f st u).head?).getD 0
  let stride (f : Form) (st : Strand) (u : Cur) : Int := ((opB f st (first f st u) 1).v.setWidth 32 : Word).toInt
  let shape (x : Core) (t : Nat) : Prop := tcW (tcOf x t) ≠ 0 ∧ tcCols (tcOf x t) * tcW (tcOf x t) % 8 = 0
  let glob (mk : Form → Instr) (store : Bool) (tile : Form → Nat) : Prop :=
    ∀ f s x st u (e : Nat → Nat → Pte), Issues (mk f) f s x st u → execMask f st u ≠ 0 → f.md = 0 → outCount st .tl < 63 → lockRoom x 2 = true →
      let t := tile f
      let tc := tcOf x t
      let len := tcCols tc * tcW tc / 8
      let a := ptrAdd (opA f st (first f st u) 2).v f.aux.toInt
      let row (i : Nat) : DWord := ptrAdd a ((i : Int) * stride f st u)
      let p (i k : Nat) : DWord := ptrAdd (row i) k
      shape x t → (opA f st (first f st u) 2).p = false → (opB f st (first f st u) 1).p = false → ptrForm a = true → a.toNat % 4 = 0 →
      (opB f st (first f st u) 1).v.toNat % 4 = 0 →
      (∀ i k, i < tcRows tc → k < len → xlate s u.core (ctxNumOf s x) (ptrVa (p i k)) = .hit (e i k) ∧ (e i k).priv = false ∧
        tagFails s x (e i k) (p i k) (paOf (e i k) (ptrVa (p i k))) 1 false true = none ∧
        (store = true → (e i k).ro = false ∧ (((e i k).nv = false ∧ (e i k).rem = false ∧ (e i k).cache ≠ 2) ∨
          ((∀ j ∈ x.jobs, ∀ q ∈ j.ents, q.space = 1 → q.twmask.getLsbD t = false) ∧ (tileElem x.tiles t 8 (i * len + k)).2 = false)))) →
      let runs := (List.range (tcRows tc)).map fun i => granuleSpans s u.core (ctxNumOf s x) (row i) len len
      ∃ t1, exec (mk f) s = .next t1 ∧ JobStarted f s t1 x st u .tl (if store then .tstG t tc runs else .tldG t tc runs) fun l =>
        ∃ r q, l = [r, q] ∧ CoversRows r 2 store (fun i => ptrVa (row i)) (tcRows tc) len ∧ NamesTiles q [t] (if store then [] else [t])
  let loc (mk : Form → Instr) (store : Bool) (tile : Form → Nat) : Prop :=
    ∀ f s x st u, Issues (mk f) f s x st u → execMask f st u ≠ 0 → f.md = 1 → outCount st .tl < 63 → lockRoom x 2 = true →
      let t := tile f
      let tc := tcOf x t
      let len := tcCols tc * tcW tc / 8
      let a := (BitVec.ofInt 32 (((opA f st (first f st u) 1).v.toNat : Int) + f.aux.toInt)).toNat
      let row (i : Nat) : Nat := (BitVec.ofInt 32 ((a : Int) + (i : Int) * stride f st u)).toNat
      shape x t → (opA f st (first f st u) 1).p = false → (opB f st (first f st u) 1).p = false → a % 4 = 0 →
      (opB f st (first f st u) 1).v.toNat % 4 = 0 → (∀ i, i < tcRows tc → row i + len ≤ scrOf s x ∧ row i + len ≤ 0xC0000) →
      (∀ r ∈ x.regions, r.2.st ≠ .absent) →
      let runs := (List.range (tcRows tc)).map fun i => (row i, len)
      ∃ t1, exec (mk f) s = .next t1 ∧ JobStarted f s t1 x st u .tl (if store then .tstL t tc runs else .tldL t tc runs) fun l =>
        ∃ r q, l = [r, q] ∧ CoversRows r 0 store row (tcRows tc) len ∧ NamesTiles q [t] (if store then [] else [t])
  glob .tld false (fun f => f.dst.toNat % 16) ∧ glob .tst true (fun f => f.sc.toNat % 16) ∧
    loc .tld false (fun f => f.dst.toNat % 16) ∧ loc .tst true (fun f => f.sc.toNat % 16)

/-- R49, R339 to R344: TZERO, TMOV, MMA, MMAS and MTRN of tiles with the shapes they need register a job of class TL with what it
takes from the strand: quarters, lane words, scales; and where TMOV's words go. Shapes that do not fit are ILLEGAL; scale registers
of MMAS past the frame are ILLEGAL for every lane at the issue address. -/
def Obligations.TileJobs : Prop :=
  let room (x : Core) (st : Strand) : Prop := outCount st .tl < 63 ∧ lockRoom x 1 = true
  let ents (named written : List Nat) (l : List REnt) : Prop := ∃ e, l = [e] ∧ NamesTiles e named written
  let quarters (f : Form) (st : Strand) (u : Cur) : List Nat :=
    (List.range 4).filter fun q => (List.range 8).any fun i => executes f st u (8 * q + i)
  let d (f : Form) : Nat := f.dst.toNat % 16
  let a (f : Form) : Nat := f.sa.toNat % 16
  let b (f : Form) : Nat := f.sb.toNat % 16
  let sa (f : Form) : Nat := f.aux.toNat % 16
  let sb (f : Form) : Nat := f.aux.toNat / 16 % 16
  let scales (x : Core) (f : Form) : Nat := (tcCols (tcOf x (sa f)) + 15) / 16
  let fits (x : Core) (f : Form) (a b : Nat) : Prop := MatrixShapes x (d f) a b (mmaFmtD f.md).bits (mmaFmtA f.md).bits (mmaFmtB f.md).bits
  let inFrame (x : Core) (st : Strand) (f : Form) : Prop := f.sa.toNat + scales x f ≤ 8 * curGran st ∧ f.sb.toNat + scales x f ≤ 8 * curGran st
  let regs (st : Strand) (r n : Nat) : List RVal := (List.range (32 * n)).map fun i => readV st (r + i / 32) (i % 32)
  let illegal (mk : Form → Instr) (ok : Form → Core → Strand → Prop) : Prop :=
    StrandRule mk (fun f _ x st _ => ¬ ok f x st) fun f s _ st u =>
      raiseFaults (withStrand s u (skipped f st u)) u.core u.slot (failing f st u .illegal 0) u.w0 u.ilen
  let job (mk : Form → Instr) (ok : Form → Core → Strand → Prop) (k : Form → Core → Strand → Cur → JobK) (named written : Form → List Nat) : Prop :=
    ∀ f s x st u, Issues (mk f) f s x st u → execMask f st u ≠ 0 → room x st → ok f x st →
      ∃ t, exec (mk f) s = .next t ∧ JobStarted f s t x st u .tl (k f x st u) (ents (named f) (written f))
  let tile (f : Form) : Nat := if f.md.getLsbD 0 then d f else a f
  job .tzero (fun f x _ => tcW (tcOf x (d f)) ≠ 0) (fun f _ _ _ => .tzero (d f)) (fun f => [d f]) (fun f => [d f]) ∧
  illegal .tzero (fun f x _ => tcW (tcOf x (d f)) ≠ 0) ∧
  job .tmov (fun f x _ => tcW (tcOf x (tile f)) ≠ 0)
    (fun f x st u => if f.md.getLsbD 0 then
        .tmovT (d f) (tcOf x (d f)) (f.aux.toNat % 65536) ((executing f st u).map fun l => (l, rd32 st f.sa.toNat f.kca l))
      else .tmovR (a f) (tcOf x (a f)) (f.aux.toNat % 65536) 
          (if f.dk then .k f.dst.toNat 1 (st.handler.map fun h => h.fid) else .v (curFid st) f.dst.toNat 1) (execMask f st u))
    (fun f => [tile f]) (fun f => if f.md.getLsbD 0 then [tile f] else []) ∧
  illegal .tmov (fun f x _ => tcW (tcOf x (tile f)) ≠ 0) ∧
  job .mma (fun f x _ => fits x f (a f) (b f))
    (fun f x st u => .mma (d f) (a f) (b f) (tcOf x (d f)) (tcOf x (a f)) (tcOf x (b f)) f.md (quarters f st u))
    (fun f => [a f, b f, d f]) (fun f => [d f]) ∧
  illegal .mma (fun f x _ => fits x f (a f) (b f)) ∧
  job .mmas (fun f x st => fits x f (sa f) (sb f) ∧ inFrame x st f)
    (fun f x st u => .mmas (d f) (sa f) (sb f) (tcOf x (d f)) (tcOf x (sa f)) (tcOf x (sb f)) f.md (quarters f st u)
      (f.aux.toNat / 256 % 4) (f.aux.toNat / 1024 % 4) (regs st f.sa.toNat (scales x f)) (regs st f.sb.toNat (scales x f)))
    (fun f => [sa f, sb f, d f]) (fun f => [d f]) ∧
  StrandRule .mmas (fun f _ x st _ => inFrame x st f ∧ ¬ fits x f (sa f) (sb f)) (fun f s _ st u =>
    raiseFaults (withStrand s u (skipped f st u)) u.core u.slot (failing f st u .illegal 0) u.w0 u.ilen) ∧
  (∀ f s x st u, IssuesFree (.mmas f) f s x st u → tcW (tcOf x (sa f)) ≠ 0 → ¬ inFrame x st f → exec (.mmas f) s = .next (raiseFaults s u.core u.slot
    (((List.range 32).filter fun l => inMask u.mask l).map fun l => { lane := l, cause := .illegal, addr := 0, detail := 0 }) u.w0 u.ilen)) ∧
  job .mtrn (fun f x _ => MatrixShapes x (d f) (a f) (b f) 32 2 8)
    (fun f x st u => .mtrn (d f) (a f) (b f) (tcOf x (d f)) (tcOf x (a f)) (tcOf x (b f)) f.md (quarters f st u))
    (fun f => [a f, b f, d f]) (fun f => [d f]) ∧
  illegal .mtrn (fun f x _ => MatrixShapes x (d f) (a f) (b f) 32 2 8)

/-- R223, R344: an element of MTRN takes for each group of 16 of K, in order, the sum of the products of ternary weights and
bytes. Without saturation it is the old element plus all of them modulo 2^32; with it each step is clamped to s32, and ISAT is
set when one was. A weight of code 2 is 0 and sets TCODE. The element is poisoned when a word of them is. -/
def Obligations.TernaryProducts : Prop :=
  ∀ (m : SMap RVal) (d a b : Nat) (md : BitVec 11) (k c i j : Nat),
    let old : Nat × Bool := tileElem m d 32 (i * c + j)
    let w (n : Nat) : Nat × Bool := tileElem m a 2 (i * k + n)
    let v (n : Nat) : Nat × Bool := tileElem m b 8 (n * c + j)
    let sign (n : Nat) : Int := match (w n).1 with | 1 => 1 | 3 => -1 | _ => 0
    let byte (n : Nat) : Int := if md.getLsbD 0 ∨ (v n).1 < 128 then ((v n).1 : Int) else ((v n).1 : Int) - 256
    let group (g : Nat) : Int := (((List.range k).filter fun n => decide (n / 16 = g)).map fun n => sign n * byte n).sum
    let groups : Nat := (k + 15) / 16
    let s32 (n : Nat) : Int := (BitVec.ofNat 32 n).toInt
    let clamp (x : Int) : Int := max (-2 ^ 31) (min (2 ^ 31 - 1) x)
    let acc (g : Nat) : Int := (List.range g).foldl (fun y h => clamp (y + group h)) (s32 old.1)
    let code : BitVec 9 := if (List.range k).any fun n => decide ((w n).1 = 2) then fTCODE else 0
    let r := mtrnElem m d a b md k c i j
    r.1 < 2 ^ 32 ∧ (r.2.1 = true ↔ old.2 = true ∨ ∃ n, n < k ∧ ((w n).2 = true ∨ (v n).2 = true)) ∧
      (md.getLsbD 6 = false → (2 ^ 32 : Int) ∣ (r.1 : Int) - (old.1 + ((List.range k).map fun n => sign n * byte n).sum) ∧ r.2.2 = code) ∧
      (md.getLsbD 6 = true → s32 r.1 = acc groups ∧
        r.2.2 = code ||| (if (List.range groups).any fun g => decide (acc (g + 1) ≠ acc g + group g) then fISAT else 0))

/-- R345 to R352: the engine's instructions with a descriptor that keeps R156 and elements below its COUNT, on pages that
admit the access, issue one operation of class LD (RELABEL: a job of class CP with its ranges); the words are read and
written when it is performed. -/
def Obligations.EngineIssues : Prop :=
  let kf (f : Form) (st : Strand) : List Word := (List.range 4).map fun i => (readK st (f.aux.toNat % 64 + i)).v
  let desc (f : Form) (st : Strand) (log : Bool) : Prop :=
    (∀ i, i < 4 → (readK st (f.aux.toNat % 64 + i)).p = false) ∧ forestBad (kf f st) log = false
  let par (f : Form) (st : Strand) (i : DWord) : DWord := fPtr (kf f st) (fParent (kf f st) + 4 * i.toNat)
  let log (f : Form) (st : Strand) : DWord := fPtr (kf f st) (fLog (kf f st))
  let hid (st : Strand) : Option Nat := st.handler.map fun h => h.fid
  let destV (f : Form) (st : Strand) (n : Nat) : Dest := if f.dk then .k f.dst.toNat n (hid st) else .v (curFid st) f.dst.toNat n
  let dur (f : Form) : Bool := decide (f.scope = 5)
  let first (f : Form) (st : Strand) (u : Cur) : Nat := ((executing f st u).head?).getD 0
  let view (l : OLane) : Nat × DWord × WVal × WVal × Bool := (l.lane, l.ptr, l.b, l.c, l.done)
  let below (f : Form) (st : Strand) (v : WVal) : Prop := v.p = false ∧ v.v.toNat < fCount (kf f st)
  let room (st : Strand) : Prop := outCount st .ld < 63
  (∀ f s x st u (e g : Nat → Pte), Issues (.unite f) f s x st u → execMask f st u ≠ 0 → room st → desc f st false →
    (∀ l, executes f st u l = true → below f st (opA f st l 1) ∧ below f st (opB f st l 1) ∧
      HomeOk s x u (par f st (opA f st l 1).v) 4 true (e l) ∧ HomeOk s x u (par f st (opB f st l 1).v) 4 true (g l)) →
    ∃ t, exec (.unite f) s = .next t ∧ OpIssued f s t x st u .ld (.unite (kf f st)) (.pred (f.dst.toNat % 8) (hid st)) (dur f) view
      ((executing f st u).map fun l => (l, par f st (opA f st l 1).v, opA f st l 1, opB f st l 1, false))) ∧
  (∀ f s x st u (e : Nat → Pte), execMask f st u ≠ 0 → room st → desc f st false →
    (∀ l, executes f st u l = true → below f st (opA f st l 1) ∧ HomeOk s x u (par f st (opA f st l 1).v) 4 (!fLogged (kf f st)) (e l)) →
    let lanes := (executing f st u).map fun l => (l, par f st (opA f st l 1).v, opA f st l 1, opA f st l 1, false)
    (Issues (.find f) f s x st u →
      ∃ t, exec (.find f) s = .next t ∧ OpIssued f s t x st u .ld (.find (kf f st)) (destV f st 1) (dur f) view lanes) ∧
    (Issues (.dsize f) f s x st u →
      ∃ t, exec (.dsize f) s = .next t ∧ OpIssued f s t x st u .ld (.dsize (kf f st)) (destV f st 1) (dur f) view lanes)) ∧
  (∀ f s x st u e, Issues (.dsnap f) f s x st u → execMask f st u ≠ 0 → room st → desc f st true → HomeOk s x u (log f st) 8 false e →
    ∃ t, exec (.dsnap f) s = .next t ∧ OpIssued f s t x st u .ld (.dsnap (kf f st)) (destV f st 2) (dur f) view
      ((executing f st u).map fun l => (l, log f st, wz, wz, false))) ∧
  (∀ f s x st u e, Issues (.dundo f) f s x st u → execMask f st u ≠ 0 → room st → desc f st true →
    (opA f st (first f st u) 2).p = false → HomeOk s x u (log f st) 8 true e →
    ∃ t, exec (.dundo f) s = .next t ∧ OpIssued f s t x st u .ld (.dundo (kf f st)) .none (dur f) (fun l => (l.lane, l.b, l.done))
      [(first f st u, opA f st (first f st u) 2, false)]) ∧
  (∀ f s x st u, Issues (.dinit f) f s x st u → execMask f st u ≠ 0 → room st → desc f st false →
    (opA f st (first f st u) 1).p = false → (opB f st (first f st u) 1).p = false →
    (opA f st (first f st u) 1).v.toNat + (opB f st (first f st u) 1).v.toNat ≤ fCount (kf f st) →
    ∃ t, exec (.dinit f) s = .next t ∧ OpIssued f s t x st u .ld (.dinit (kf f st)) .none (dur f) (fun l => (l.lane, l.b, l.c, l.done))
      [(first f st u, opA f st (first f st u) 1, opB f st (first f st u) 1, false)]) ∧
  (∀ f s x st u (e : Nat → Pte), Issues (.relabel f) f s x st u → execMask f st u ≠ 0 → outCount st .cp < 63 → desc f st false → lockRoom x 3 = true →
    let a := opA f st (first f st u) 2
    let b := opB f st (first f st u) 2
    let c := opC f st (first f st u) 2
    let reads := decide (f.relabelOp.toNat ≠ 3)
    let n := fCount (kf f st)
    (reads = true → a.p = false ∧ ptrForm a.v = true ∧ a.v.toNat % 4 = 0 ∧ (e 0).priv = false ∧
      xlate s u.core (ctxNumOf s x) (ptrVa a.v) = .hit (e 0) ∧ tagFails s x (e 0) a.v (paOf (e 0) (ptrVa a.v)) 4 false true = none) →
    (b.p = false ∧ ptrForm b.v = true ∧ b.v.toNat % 64 = 0 ∧ HomeOk s x u b.v 4 true (e 1)) →
    (f.aux.getLsbD 8 = true → c.p = false ∧ ptrForm c.v = true ∧ c.v.toNat % 4 = 0 ∧ HomeOk s x u c.v 4 true (e 2)) →
    ∃ t, exec (.relabel f) s = .next t ∧
      JobStarted f s t x st u .cp
        (.relabel (kf f st) f.relabelOp.toNat (decide (f.ty = 0)) a.v b.v (if f.aux.getLsbD 8 then some c.v else none) 0 false none) fun l =>
          l.map (fun q => (q.space, q.write, q.base, q.len)) = (if reads then [(2, false, ptrVa a.v, 4 * n)] else []) ++
            [(2, true, ptrVa b.v, 4 * n + 64)] ++ (if f.aux.getLsbD 8 then [(2, true, ptrVa c.v, 4 * n)] else []))

/-- R356 to R358: SIGINS of a set in device memory issues one operation, under .drop its strand waits for the answers; of a set
in scratchpad the lanes insert one after another at issue. SIGCLR of either set clears COUNT, FLAGS and every entry. RNG
draws each executing lane's pair. -/
def Obligations.SetsAndDraws : Prop :=
  let room (st : Strand) : Prop := outCount st .ld < 63
  let k (f : Form) (st : Strand) (i : Nat) : RVal := readK st (f.aux.toNat % 64 + i)
  let dbase (f : Form) (st : Strand) : DWord := (k f st 1).v ++ (k f st 0).v
  let dn (f : Form) (st : Strand) : Nat := (k f st 2).v.toNat
  let lbase (f : Form) (st : Strand) : Nat := (k f st 0).v.toNat % 2 ^ 20
  let ln (f : Form) (st : Strand) : Nat := (k f st 0).v.toNat / 2 ^ 20
  let device (f : Form) (st : Strand) : Prop :=
    f.scope = 3 ∧ (∀ i, i < 3 → (k f st i).p = false) ∧ 6 ≤ dn f st ∧ dn f st ≤ 30 ∧ (dbase f st).toNat % 64 = 0 ∧ ptrForm (dbase f st) = true
  let local_ (f : Form) (s : State) (x : Core) (st : Strand) : Prop :=
    f.scope ≠ 3 ∧ (k f st 0).p = false ∧ 6 ≤ ln f st ∧ ln f st ≤ 16 ∧ lbase f st % 64 = 0 ∧ lbase f st + 64 + 8 * 2 ^ ln f st ≤ scrOf s x
  let dest (f : Form) (st : Strand) : Dest := .pred (f.dst.toNat % 8) (st.handler.map fun h => h.fid)
  (∀ f s x st u (e : Nat → Nat → Pte), Issues (.sigins f) f s x st u → execMask f st u ≠ 0 → room st → device f st →
    (∀ l, executes f st u l = true → (opA f st l 2).p = false ∧ ∀ o ∈ sigOffs (opA f st l 2).v (dn f st),
      HomeOk s x u (ptrAdd (dbase f st) o.1) o.2 true (e l o.1)) →
    ∃ t x' op, exec (.sigins f) s = .next t ∧ getCore t u.core = some x' ∧ x'.ops = x.ops ++ [op] ∧ op.k = .sigins (dbase f st) (dn f st) ∧
      op.dest = dest f st ∧ op.slot = u.slot ∧ op.sid = st.sid ∧
      op.lanes.map (fun l => (l.lane, l.b.v, l.done)) = (executing f st u).map (fun l => (l, (opA f st l 2).v, false)) ∧
      getStrand t u.core u.slot = some { passed f st u with
        out := st.out ++ [{ cls := .ld, id := op.id, done := false }],
        hold := if f.md.getLsbD 0 then some { k := .drop op.id, mask := 0, len := 0 } else st.hold } ∧
      sameMemory s t ∧ sameOthers s t u.core u.slot) ∧
  (∀ f s x st u, Issues (.sigins f) f s x st u → execMask f st u ≠ 0 → room st → local_ f s x st →
    (∀ l, executes f st u l = true → (opA f st l 2).p = false ∧ ∀ o ∈ sigOffs (opA f st l 2).v (ln f st),
      localLock x (lbase f st + o.1) o.2 true = .free) →
    let ins (y : State) (l : Nat) : State × SigAns := sigInsert (sigLocal u.core (lbase f st)) (ln f st) y (opA f st l 2).v
    ∃ (t : State) (y : Nat → State) (x' : Core) (op : Op), exec (.sigins f) s = .next t ∧ y 0 = s ∧
      (∀ i (h : i < (executing f st u).length), y (i + 1) = (ins (y i) ((executing f st u)[i])).1) ∧
      getCore t u.core = some x' ∧ (getCore (y (executing f st u).length) u.core).map (fun z => (z.loc, z.lpois)) = some (x'.loc, x'.lpois) ∧
      x'.ops = x.ops ++ [op] ∧ op.dest = dest f st ∧
      (∀ i (h : i < (executing f st u).length),
        let r := (ins (y i) ((executing f st u)[i])).2
        (op.lanes[i]?).map (fun l => (l.lane, l.vals)) =
          some ((executing f st u)[i], [{ v := if r.new then 1 else 0, p := r.pois }, { v := if r.full then 1 else 0, p := false }])) ∧
      getStrand t u.core u.slot = some { passed f st u with
        out := st.out ++ [{ cls := .ld, id := op.id, done := false }],
        hold := if f.md.getLsbD 0 then some { k := .drop op.id, mask := 0, len := 0 } else st.hold } ∧
      sameMemory s t ∧ sameOthers s t u.core u.slot) ∧
  (∀ f s x st u, Issues (.sigclr f) f s x st u → execMask f st u ≠ 0 → x.wf = true → local_ f s x st →
    localLock x (lbase f st) (64 + 8 * 2 ^ ln f st) true = .free →
    ∃ t x', exec (.sigclr f) s = .next t ∧ getCore t u.core = some x' ∧ getStrand t u.core u.slot = some (passed f st u) ∧
      sameMemory s t ∧ sameOthers s t u.core u.slot ∧
      ∀ b, sget 0 x'.loc b =
        if (lbase f st ≤ b ∧ b < lbase f st + 8) ∨ (lbase f st + 64 ≤ b ∧ b < lbase f st + 64 + 8 * 2 ^ ln f st) then 0 else sget 0 x.loc b) ∧
  (∀ f s x st u (e : Nat → Pte), Issues (.sigclr f) f s x st u → execMask f st u ≠ 0 → s.MemInv → device f st → AllDone x → x.sq = [] → x.held = [] →
    let off (i : Nat) : Nat := if i = 0 then 0 else 64 * i
    let len (i : Nat) : Nat := if i = 0 then 8 else 64
    let pa (i : Nat) : Nat := paOf (e i) (ptrVa (ptrAdd (dbase f st) (off i)))
    (∀ i, i ≤ 2 ^ (dn f st - 3) → HomeOk s x u (ptrAdd (dbase f st) (off i)) (len i) true (e i) ∧ (e i).rem = false ∧ isDev (pa i) = false) →
    ∃ t, exec (.sigclr f) s = .next t ∧ getStrand t u.core u.slot = some (passed f st u) ∧ sameOthers s t u.core u.slot ∧ t.tags = s.tags ∧
      ∀ a, sget 0 t.mem a = if ∃ i, i ≤ 2 ^ (dn f st - 3) ∧ pa i ≤ a ∧ a < pa i + len i then 0 else sget 0 s.mem a) ∧
  (∀ f s x st u, Issues (.rng f) f s x st u → execMask f st u ≠ 0 → room st →
    let key (l : Nat) : WVal := opB f st l 2
    let ctr (l : Nat) : WVal := opA f st l 2
    ∃ t, exec (.rng f) s = .next t ∧ OpIssued f s t x st u .ld .value
      (if f.dk then .k f.dst.toNat 2 (st.handler.map fun h => h.fid) else .v (curFid st) f.dst.toNat 2) false
      (fun l => (l.lane, l.vals, l.done)) ((executing f st u).map fun l =>
        (l, [{ v := rng32 (key l).v (ctr l).v, p := (key l).p || (ctr l).p }, { v := rng32 (key l).v ((ctr l).v + 1), p := (key l).p || (ctr l).p }], true)))

/-- R112, R243, R353 to R355: TRIAL with a descriptor and an example table that keep R353 puts its strand IN_TRIAL: each executing
lane starts at example 0 with the seed as its signature, and the port's code bank is a read range of the range-lock table.
TRET and XLD are ILLEGAL outside a trial. TRIAL_COMPLETE gives each lane its signature pair (a uniform destination the lowest
lane's) and its fuel, restores p0 to p3 and passes the instruction; in the trial, the candidate of XLD and TRET of what it loads ends an example with the word of
the record that its index names, or with outcome 4. -/
def Obligations.Trials : Prop :=
  (∀ f s x st u, Issues (.trial f) f s x st u → execMask f st u ≠ 0 → st.handler = none → 4 ≤ curGran st →
    let k (i : Nat) : RVal := readK st (f.aux.toNat % 64 + i)
    let fuel := (k 0).v.toNat % 2 ^ 16
    let nex := (k 0).v.toNat / 2 ^ 16
    let etab := (k 1).v.toNat % 2 ^ 20
    let words := (k 1).v.toNat / 2 ^ 20 % 64 + 1
    (∀ i, i < 4 → (k i).p = false) → nex ≠ 0 → fuel ≠ 0 → 4 ≤ words → (k 1).v.toNat < 2 ^ 28 → etab % 4 = 0 →
    etab + 4 * words * nex ≤ scrOf s x → localLock x etab (4 * words * nex) false = .free → bankBusy x (u.slot % 4) = false → lockRoom x 1 = true →
    ∃ t x' st' tr j, exec (.trial f) s = .next t ∧ getCore t u.core = some x' ∧ getStrand t u.core u.slot = some st' ∧
      st' = { skipped f st u with st := .inTrial, trial := some tr } ∧ tr.nex = nex ∧ tr.fuel = fuel ∧ tr.etab = etab ∧ tr.words = words ∧
      tr.port = u.slot % 4 ∧ tr.slot = (k 1).v.toNat / 2 ^ 26 % 4 ∧ tr.dst = f.dst.toNat ∧ tr.dk = f.dk ∧
      tr.lanes = (executing f st u).map (fun l => { lane := l, next := 0, sig := (k 3).v ++ (k 2).v, fuel := 0 }) ∧
      x'.jobs = x.jobs ++ [j] ∧ j.ents.map (fun q => (q.space, q.write, q.base, q.len)) = [(0, false, 0xC0000 + 0x8000 * (u.slot % 4), 0x8000)] ∧
      sameMemory s t ∧ sameOthers s t u.core u.slot) ∧
  (∀ mk ∈ [Instr.tret, .xld], ∀ f s x st u, issuer s = some (x, st, u) → (mk f).wf = true →
    exec (mk f) s = .next (raiseFaults s u.core u.slot
      (((List.range 32).filter fun l => inMask u.mask l).map fun l => { lane := l, cause := .illegal, addr := 0, detail := 0 }) u.w0 u.ilen)) ∧
  (∀ s c sl x st tr, s.power = .run → getCore s c = some x → getStrand s c sl = some st → st.wf = true → st.st = .inTrial → st.trial = some tr →
    (∀ l ∈ tr.lanes, l.lane < 32 ∧ l.next = tr.nex) → (tr.lanes.map fun l => l.lane).Nodup → st.handler = none → tr.dst + 2 ≤ 256 →
    ∃ t st', exec (.trialComplete c sl []) s = .next t ∧ getStrand t c sl = some st' ∧ st'.st = .running ∧ st'.trial = none ∧
      st'.bnd = !st.due.isEmpty ∧ sameMemory s t ∧ sameOthers s t c sl ∧
      (tr.dk = true → tr.dst + 2 ≤ 64 → ∀ l, tr.lanes.head? = some l → readK st' tr.dst = { v := l.sig.extractLsb' 0 32, p := false } ∧
        readK st' (tr.dst + 1) = { v := l.sig.extractLsb' 32 32, p := false }) ∧
      ∀ l ∈ tr.lanes, lane st' l.lane = { lane st l.lane with
          fuel := l.fuel, pcv := (lane st l.lane).pcv + 12,
          p := ((lane st l.lane).p &&& 0x70) ||| (((aget tr.p l.lane).getD (0, 0)).1 &&& 0xF),
          pp := ((lane st l.lane).pp &&& 0x70) ||| (((aget tr.p l.lane).getD (0, 0)).2 &&& 0xF) } ∧
        (tr.dk = false → readV st' tr.dst l.lane = { v := l.sig.extractLsb' 0 32, p := false } ∧
          readV st' (tr.dst + 1) l.lane = { v := l.sig.extractLsb' 32 32, p := false })) ∧
  (∀ s c sl x st tr tl d a, s.power = .run → getCore s c = some x → getStrand s c sl = some st → st.wf = true → st.st = .inTrial → st.trial = some tr →
    st.handler = none → tr.bad = [] → tr.dk = false → tr.lanes = [tl] → tl.lane < 32 → tl.next + 1 = tr.nex → 2 ≤ tr.fuel → tr.fuel < 2 ^ 16 → 4 ≤ tr.words → tr.dst + 2 ≤ 256 →
    d < 16 → a < 16 →
    let slot := 0xC0000 + 0x400 * (32 * tr.port + tl.lane) + 0x100 * tr.slot
    let word (i : Nat) : RVal := localWord x (tr.etab + 4 * tr.words * tl.next + 4 * i)
    (∀ i, i < tr.words → (word i).p = false) →
    localWord x slot = { v := BitVec.ofNat 32 (0xE00002F8 + 0x800 * d + 0x20000 * a), p := false } →
    localWord x (slot + 4) = { v := BitVec.ofNat 32 (0xE00001F8 + 0x20000 * d), p := false } →
    let i := if a < 4 then (word a).v.toNat else 0
    let r : DWord × Nat := if i < tr.words then (foldSig tl.sig (word i).v 0, tr.fuel - 2) else (foldSig tl.sig 0 4, tr.fuel - 1)
    ∃ t st', exec (.trialComplete c sl []) s = .next t ∧ getStrand t c sl = some st' ∧ st'.st = .running ∧ sameMemory s t ∧ sameOthers s t c sl ∧
      (lane st' tl.lane).fuel.toNat = r.2 ∧ readV st' tr.dst tl.lane = { v := r.1.extractLsb' 0 32, p := false } ∧
      readV st' (tr.dst + 1) tl.lane = { v := r.1.extractLsb' 32 32, p := false })

/-! ### Happenings -/

/-- R56, R60, R110, R168, R169, R183, R327, R336 to R344: a variable-latency operation whose lanes are performed lands its words
in the frame that held its destination at issue, and retires (a direct load reads as its core sees memory). A tile job
whose turn it is is performed: TZERO, TLD and TST of local rows, MTRN and MMA into a 32-bit tile; what a job writes to a remote
device is acknowledged before it ends. A copy writes its runs and zeros up to 32 bytes, all at its end, or some bytes before it. -/
def Obligations.Landings : Prop :=
  (∀ s c sl x st o r n (val : OLane → List RVal), Runs s c x → aget x.strands sl = some st → st.hold = none →
    x.ops.find? (fun p => decide (p.id = o.id)) = some o → o.slot = sl → o.sid = st.sid → o.wait = none → o.dur = false →
    (∀ p ∈ x.ops, p.id < o.id → ∀ l ∈ p.lanes, l.done = true) → o.dest = .v (curFid st) r n → n ≤ 4 →
    (∀ l ∈ o.lanes, l.lane < 32 ∧ l.landed = 0) → (o.lanes.map fun l => l.lane).Nodup →
    ((o.k = .value ∧ (∀ l ∈ o.lanes, l.done = true ∧ l.vals.length = n) ∧ remoteDue s o.id = false ∧ val = fun l => l.vals) ∨
      ∃ ty, o.k = .load false ty ∧ n = tyWords ty ∧ (∀ l ∈ o.lanes, l.done = false) ∧
        (∀ w ∈ s.remote, ∀ q, w.op = some q → q.1 = o.id → w.ask = true ∧ q.2 ∈ o.lanes.map fun l => l.lane) ∧ val = fun l =>
        loadVals ty (viewRead s x l.e l.pa (tyBytes ty) false).1 (viewRead s x l.e l.pa (tyBytes ty) false).2) →
    ∃ t x' st', exec (.varlatComplete c o.id 0xFFFFFFFF 15 true) s = .next t ∧ getCore t c = some x' ∧ aget x'.strands sl = some st' ∧
      x'.ops = x.ops.filter (fun p => decide (p.id ≠ o.id)) ∧ st'.lanes = st.lanes ∧ st'.k = st.k ∧ sameMemory s t ∧ sameOthers s t c sl ∧
      (∀ e, st.out = [e] → e.id = o.id → st'.out = []) ∧
      ∀ q l, l < 32 → readV st' q l = match o.lanes.find? fun y => decide (y.lane = l) with
        | some y => if r ≤ q ∧ q < r + n then (val y).getD (q - r) RVal.zero else readV st q l
        | none => readV st q l) ∧
  (∀ s c x j, Runs s c x → x.jobs.find? (fun k => decide (k.id = j.id) && isTileJob k.k) = some j → jobPending x j.id = false → j.sent = false →
    ∃ t x', exec (.tileJobDone c j.id []) s = .next t ∧ getCore t c = some x' ∧
      ((∀ n, j.k = .tzero n → sameMemory s t ∧ (remoteDue s j.id = false → x'.jobs = x.jobs.filter fun k => decide (k.id ≠ j.id)) ∧ x'.loc = x.loc ∧
        ∀ k i, i < 4096 → tileWord x'.tiles k i = if k = n then RVal.zero else tileWord x.tiles k i) ∧
      (∀ n tc rows, j.k = .tldL n tc rows → (∀ r ∈ rows, r.2 = tcCols tc * tcW tc / 8) → rows.length * (tcCols tc * tcW tc / 8) ≤ 16384 →
        ∀ i b, (h : i < rows.length) → b < tcCols tc * tcW tc / 8 →
          (tileElem x'.tiles n 8 (i * (tcCols tc * tcW tc / 8) + b)).1 = (sget 0 x.loc (rows[i].1 + b)).toNat) ∧
      (∀ n tc rows, j.k = .tstL n tc rows → (∀ r ∈ rows, r.2 = tcCols tc * tcW tc / 8) →
        rows.Pairwise (fun p q => p.1 + p.2 ≤ q.1 ∨ q.1 + q.2 ≤ p.1) →
        ∀ i b, (h : i < rows.length) → b < tcCols tc * tcW tc / 8 →
          sget 0 x'.loc (rows[i].1 + b) = BitVec.ofNat 8 (tileElem x.tiles n 8 (i * (tcCols tc * tcW tc / 8) + b)).1) ∧
      (∀ d a b td ta tb md (elem : Nat → Nat → Nat × Bool × Flags),
        (j.k = .mtrn d a b td ta tb md [0, 1, 2, 3] ∧ elem = mtrnElem x.tiles d a b md (tcCols ta) (tcCols td)) ∨
          (j.k = .mma d a b td ta tb md [0, 1, 2, 3] ∧ mmaFmtD md = fmtF32 ∧
            elem = mmaElem x.tiles d a b fmtF32 (mmaFmtA md) (mmaFmtB md) (tcCols ta) (tcCols td) (fun _ => none) (fun _ => none)) →
        tcW td = 32 → tcBad td = false → ∀ i n, i < tcRows td → n < tcCols td →
          tileElem x'.tiles d 32 (i * tcCols td + n) = ((elem i n).1, (elem i n).2.1)))) ∧
  (∀ s c x q l m (early : Option (BitVec 32)), Runs s c x → x.cpas.find? (fun p => decide (p.id = q.id)) = some q → q.lanes = [l] → l.done = false → inMask m l.lane = true →
    AllDone x → (l.spans.map fun p => p.n).sum ≤ 32 → (∀ p ∈ l.spans, p.e.rem = false) → l.dst % 4 = 0 →
    let bytes : List Byte := (l.spans.map fun p => (List.range p.n).map fun i => viewByte s x p.e (p.pa + i) true).flatten
    let b := early.getD (BitVec.allOnes 32)
    ∃ t x', (match early with
        | none => exec (.cpaCopyDone c q.id m) s
        | some b => .next (applyInput (.copyBytes c q.id m b) s)) = .next t ∧ getCore t c = some x' ∧
      (l.put ||| b = BitVec.allOnes 32 → x'.cpas = x.cpas.filter (fun p => decide (p.id ≠ q.id))) ∧
      sameMemory s t ∧ ∀ a, sget 0 x'.loc a =
        if l.dst ≤ a ∧ a < l.dst + 32 ∧ (b &&& ~~~l.put).getLsbD (a - l.dst) = true then bytes.getD (a - l.dst) 0 else sget 0 x.loc a)

/-- R147 to R149, R114, R196, R352: an arriving chunk of a fill is written into its window and becomes readable, and the entry is
PRESENT with its last. A copy-out is at its homes when it is acknowledged; an RGNCLR that waits for it then empties the entry.
Requests of LDR and STR are performed at the target that holds the ticket of the gang, and a load sees its core's own STRs that have
not arrived; without the ticket nothing is written. RELABEL ends with its STATUS word and leaves the table. -/
def Obligations.Arrivals : Prop :=
  (∀ s c x rn k r j, Runs s c x → aget x.regions rn = some r → x.jobs.find? (fun j => j.k == .fill rn) = some j → r.st = .filling →
    jobPending x j.id = false → r.order.head? = some k → r.order.Nodup → r.flush = [] → x.ops = [] → x.sq = [] →
    chunkRes s c r k j = .ready → fillFails s c x (chunkGranules r k) = none →
    ∃ t x' r', exec (.chunkArrive c rn k) s = .next t ∧ getCore t c = some x' ∧ aget x'.regions rn = some r' ∧
      r'.bitmap = r.bitmap ||| (1#512 <<< k) ∧ r'.order = r.order.tail ∧ r'.st = (if r.order.tail = [] then .present else .filling) ∧ sameMemory s t ∧
      (∀ a, sget 0 x'.loc a = if r.wbase + 512 * k ≤ a ∧ a < r.wbase + 512 * k + 512 then (fillByte s c x r (a - r.wbase)).1 else sget 0 x.loc a)) ∧
  (∀ s c x rn r j id cx (e : DWord × List Nat → Pte), Runs s c x → aget x.regions rn = some r → ctxOf s x = some cx → s.MemInv →
    x.jobs.find? (fun j => match j.k with | .copyout q _ => decide (q = rn) | _ => false) = some j → j.k = .copyout rn id →
    jobPending x j.id = false → j.wait = none → j.sent = false → j.at_.1 = 0 → remoteDue s j.id = false → r.flush = [] → x.ops = [] → x.sq = [] → x.held = [] →
    let pa (q : DWord × List Nat) : Nat := paOf (e q) (ptrVa q.1)
    (∀ q ∈ copyRuns r, ptrForm q.1 = true ∧ tlbCore s c cx.num (ptrVa q.1) = some (e q) ∧ (e q).priv = false ∧
      (e q).ro = false ∧ (e q).tag = false ∧ (e q).rem = false ∧ InMemory (pa q) q.2.length ∧ ∀ n ∈ q.2, (flushByte x r n).2 = false) →
    (copyRuns r).Pairwise (fun p q => pa p + p.2.length ≤ pa q ∨ pa q + q.2.length ≤ pa p) →
    ∃ t x', exec (.copyoutAck c rn) s = .next t ∧ getCore t c = some x' ∧
      aget x'.regions rn = (if clearWaits x rn then none else some { r with st := .present }) ∧ (∀ k ∈ x'.jobs, k.id ≠ j.id) ∧ ∀ q ∈ copyRuns r, ∀ i (h : i < q.2.length), sget 0 t.mem (pa q + i) = (flushByte x r q.2[i]).1) ∧
  (∀ s c x o y z ty m, Runs s c x → x.ops.find? (fun p => decide (p.id = o.id)) = some o → o.k = .ldr ty → o.lanes = [y] → y.done = false →
    inMask m y.lane = true → y.b.p = false → getCore s (windowCore c y.pa) = some z →
    let whole := decide (y.pa % tyBytes ty = 0)
    let n := if whole then tyBytes ty else 1
    let v := strRead s c x (windowCore c y.pa) z (y.pa % 2 ^ 20 + y.data.length) n o.id
    (whole = true → y.data = []) → localLock z (y.pa % 2 ^ 20 + y.data.length) n false = .free →
    ∃ t x', exec (.ldrArrive c o.id m) s = .next t ∧ getCore t c = some x' ∧ x'.strands = x.strands ∧ sameMemory s t ∧
      x'.ops.find? (fun p => decide (p.id = o.id)) = some { o with lanes :=
        [if y.data.length + n < tyBytes ty then { y with data := y.data ++ v.1, b := { y.b with p := v.2 } }
         else { y with done := true, vals := loadVals ty (y.data ++ v.1) v.2 }] }) ∧
  (∀ s d y msg tk off data pw src op l, Runs s d y → aget s.msgs msg = some (.str d tk off data pw src op l) →
    msgBefore s.msgs msg (fun m => match m with | .str d' _ _ _ _ src' _ _ => decide (d' = d) && decide (src' = src) | _ => false) = false →
    (ticketAt s d tk = true → localLock y off data.length true = .free →
      ∃ t y', exec (.strArrive msg) s = .next t ∧ getCore t d = some y' ∧
        ∀ a, sget 0 y'.loc a = if off ≤ a ∧ a < off + data.length then data.getD (a - off) 0 else sget 0 y.loc a) ∧
    (ticketAt s d tk = false → ∃ t y', exec (.strArrive msg) s = .next t ∧ getCore t d = some y' ∧ y'.loc = y.loc ∧ y'.lpois = y.lpois)) ∧
  (∀ s c x j cx kf op sgn val out cls next pois fault a s1 e pa s2, Runs s c x → x.jobs.find? (fun k => decide (k.id = j.id)) = some j → jobPending x j.id = false →
    j.wait = none → j.sent = false → j.k = .relabel kf op sgn val out cls next pois fault → ctxOf s x = some cx →
    let g : GEnv := { c := c, cx := cx, kf := kf, atomic := false, by_ := jobSender j out }
    relabelAll g op sgn val out cls j.refused (fCount kf - next) next { pois := pois, fault := fault } s = .done a s1 → a.fault = none →
    jobPage g s1 out true = .ok (e, pa) s2 → s2.MemInv → e.rem = false → InMemory pa 4 → remoteDue s2 j.id = false →
    (getCore s2 c).map (fun y => (y.ops, y.sq, y.held)) = some ([], [], []) →
    ∃ t x', exec (.relabelDone c j.id) s = .next t ∧ getCore t c = some x' ∧ (∀ k ∈ x'.jobs, k.id ≠ j.id) ∧
        Wrote s2 t pa (natBytes (1 + (if j.raced then 2 else 0) + (if a.pois then 4 else 0)) 4))

/-- R12, R21, R39, R88, R133, R135, R177, R203, R250, R261, R363: what falls due to a strand. A sleep that has run out ends; an
AGE of 4,096 raises the effective priority; an expired bracket stops the strand for the fault; an abandoned trial starts
again; a waiting trap is entered; a store-fault record is taken at the boundary (which one: log 11); a
word is tested again (log 22). -/
def Obligations.StrandHappenings : Prop :=
  (∀ s c x sl st h, Runs s c x → aget x.strands sl = some st → st.hold = some h → h.k = .sleep 0 →
    exec (.sleepExpire c sl) s = .next (modStrand s c sl fun _ => advLanes { st with hold := none, bnd := !st.due.isEmpty } h.mask h.len)) ∧
  (∀ s c x sl st, Runs s c x → aget x.strands sl = some st → 4096 ≤ st.age → st.eff ≤ 255 →
    exec (.ageExpire c sl) s = .next (modStrand s c sl fun _ => { st with age := 0, eff := min 255 (st.eff + 1) })) ∧
  (∀ s c x sl st g cx, Runs s c x → aget x.strands sl = some st → st.nopre = true → 65536 ≤ st.npc → st.stopped = false → st.hold = none →
    gangOf s x = some g → g.st = .saving → aget s.ctxs g.ctx = some cx → cx.st = .live →
    exec (.nopreExpire c sl) s = .next (modStrand s c sl fun _ => { st with stopped := true, due := st.due ++ [.nopre] })) ∧
  (∀ s c x sl st g tr, Runs s c x → aget x.strands sl = some st → st.st = .inTrial → st.trial = some tr → gangOf s x = some g → g.st = .saving →
    g.since + 65536 ≤ s.clock.toNat →
    exec (.trialAbandon c sl) s = .next (modStrand s c sl fun _ =>
      { st with trial := some { tr with lanes := tr.lanes.map fun l => { l with next := 0, sig := tr.seed, fuel := 0 } } })) ∧
  (∀ s c x sl st g tp, Runs s c x → aget x.strands sl = some st → trapHead x = some sl → st.trapPend = some tp → Live s x g → 0 < hFree x →
    ∃ t st' h, exec (.trapEntry c sl) s = .next t ∧ sameMemory s t ∧ sameOthers s t c sl ∧ getStrand t c sl = some st' ∧
      st'.st = .inHandler ∧ st'.eff = 255 ∧ st'.handler = some h ∧ h.emask = tp.mask ∧ h.eword = tp.word ∧
      h.ecause = BitVec.ofNat 32 (tp.cause.code + 256 * tp.ilen + (if tp.impr then 2048 else 0)) ∧ (∀ r l, rget h.regs r l = RVal.zero) ∧
      (∀ n, sget RVal.zero h.k n = RVal.zero) ∧ h.idx < 4 ∧ h.idx ∉ usedHandlers x ∧ st'.frames = st.frames ∧ st'.k = st.k ∧
      ∀ l, l < 32 → lane st' l =
        let la := lane st l
        if la.st = .exited then la
        else { la with
          epc := la.pcv, eaddr := if inMask tp.mask l then (aget tp.addrs l).getD 0 else 0, epred := la.p, epoison := la.pp,
          sst := if la.st = .yielded then .ready else la.st, p := 0, pp := 0, st := .ready, pcv := x.trapvec }) ∧
  (∀ s c x sl st g k pc w0 fl seq rest, Runs s c x → aget x.strands sl = some st → Live s x g → st.st = .running → st.hold = none →
    st.trapPend = none → st.block = none → st.handler = none → st.due = .store k pc w0 fl seq :: rest → st.bnd = true → actionOf x k = .kill →
    (∀ f ∈ fl, f.lane < 32 ∧ (lane st f.lane).st ≠ .exited) → (∃ l, l < 32 ∧ (lane st l).st = .ready ∧ ∀ f ∈ fl, f.lane ≠ l) →
    ∃ t st', exec (.storeFaultDeliver c sl) s = .next t ∧ sameOthers s t c sl ∧ getStrand t c sl = some st' ∧ st'.due = rest ∧ st'.bnd = false ∧
      st'.frames = st.frames ∧ ∀ l, l < 32 → lane st' l =
        if ∃ f ∈ fl, f.lane = l then { lane st l with st := .exited, sst := .exited } else lane st l) ∧
  (∀ s c x sl st g l p v ty cond w0 e, Runs s c x → aget x.strands sl = some st → Live s x g → st.handler = none → l < 32 →
    (lane st l).st = .parked (.waitw p v ty cond w0) → x.ops = [] → (∀ u : Cur, u.core = c → LoadOk s x u p (waitBytes ty) false e) →
    lateRead s e = false → (viewRead s x e (paOf e (ptrVa p)) (waitBytes ty) false).2 = false →
    let w : DWord := BitVec.ofNat 64 (bytesNat (viewRead s x e (paOf e (ptrVa p)) (waitBytes ty) false).1)
    exec (.waitwRetest c sl l) s = .next (if waitHolds cond ty w v then
      modStrand s c sl fun _ => modLane st l fun la => { la with st := .ready, pcv := la.pcv + 12 } else s))

/-- R12, R27, R83 to R87, R100, R173, R174, R184, R228, R243, R266: what befalls a core. Sparge spills a frame of a stalled strand
after 64 quiet cycles, of a running one for a head that has starved: its record is written (R87), and the head is reloaded from its
own (the model's choices: a head has starved by the time of its request alone, its time in SAVED counted, log 26; a record on a remote
page is the model's own copy, log 7); the head of the store queue
leaves it for the held lines; gang-barrier arrivals count; publication ends a phase; phase messages reach LEADV. Words that
are no instruction, and fetches that fail, fault or park the lanes at them. -/
def Obligations.CoreHappenings : Prop :=
  (∀ s c x g cx a b sa sb top ra tb fb rb (starve : Bool), Runs s c x → Live s x g → ctxOf s x = some cx → (x.strands = [(a, sa), (b, sb)] ∨ x.strands = [(b, sb), (a, sa)]) →
    s.gpois = [] → s.walks = [] → x.ops = [] → x.jobs = [] → sa.st = .blocked → sa.handler = none → sa.frames = top :: ra → (∀ f ∈ sa.frames, f.res = false) →
    (∃ since, sa.block = some { demand := top.gran, since := since, call := none } ∧ (starve = true → since + 65536 ≤ s.clock.toNat)) →
    (if starve then sb.st = .running ∧ sb.trapPend = none ∧ sb.hold = none ∧ readyMask sb ≠ 0 else sb.st = .atPhase ∧ 64 ≤ x.quiet) →
    sb.block = none → sb.frames = tb :: fb :: rb → tb.res = true → fb.res = true → (∀ f ∈ rb, f.res = false) → fb.phys.length = fb.gran →
    freeG x < top.gran → top.gran ≤ freeG x + fb.gran → (usedGran x).length + x.resv ≤ 496 →
    privMissing s (dieOf c) cx [(recordVa cx sb 1, frameBytes fb)] = [] →
    ∃ t sa' top', exec (if starve then .spargeStarvation c else .spargeQuiescence c) s = .next t ∧ t.tags = s.tags ∧ t.gpois = s.gpois ∧
      t.mem = (privWrite s (dieOf c) cx (recordVa cx sb 1) (frameBytes fb) (frameRecord cx.num b (sb.frames.length - 1) fb)).mem ∧
      getStrand t c b = some { sb with frames := tb :: { fb with res := false, phys := [] } :: rb } ∧ getStrand t c a = some sa' ∧
      sa' = { sa with st := .running, block := none, frames := top' :: ra } ∧ top'.regs = storedRegs t (dieOf c) cx (recordVa cx sa 0) top.gran top.regs ∧
      top' = { top with res := true, phys := top'.phys, regs := top'.regs }) ∧
  (∀ s c x sl st q l, Runs s c x → aget x.strands sl = some st → st.hold = none → x.ops = [] → x.sq = [q] → q.slot = sl → q.sid = st.sid → q.str = false →
    q.dir = false → q.lanes = [l] → l.e.cache ≠ 2 → storeLaneCheck s x l = none → l.pa % 64 + l.data.length ≤ 64 →
    (lineOf x (lineKey l.e l.pa)).dirty = [] →
    ∃ t x' st', exec (.storeCheck c) s = .next t ∧ getCore t c = some x' ∧ aget x'.strands sl = some st' ∧ x'.sq = [] ∧ sameMemory s t ∧
      st'.lanes = st.lanes ∧ (∀ o, st.out = [o] → o.id = q.id → st'.out = []) ∧
      ∀ i, (h : i < l.data.length) → viewByte t x' l.e (l.pa + i) true = l.data[i]) ∧
  (∀ s d y gg msg tk g wg, Runs s d y → Live s y gg → aget s.msgs msg = some (.gbar d tk g wg) → gg.ticket = tk →
    msgBefore s.msgs msg (fun m => match m with | .gbar d' _ g' wg' => decide (d' = d) && decide (g' = g) && decide (wg' = wg) | _ => false) = false →
    wg ∉ (barOf y.gbars g).who →
    let r := barOf y.gbars g
    let out := gg.ended.filter fun w => !(r.who ++ [wg]).contains w && !gbarComing (dropMsg s msg) d g w
    ∃ t y', exec (.gbarArrival msg) s = .next t ∧ getCore t d = some y' ∧ (∀ m ∈ t.msgs, m.1 ≠ msg) ∧ sameMemory s t ∧
      if r.arr + 1 < gg.cores.length - out.length then
        barOf y'.gbars g = { r with arr := r.arr + 1, who := r.who ++ [wg] } ∧ y'.strands = y.strands
      else
        barOf y'.gbars g = { r with arr := 0, gen := r.gen + 1, who := [] } ∧
        ∀ sl st, aget y.strands sl = some st → st.handler = none → ∃ st', aget y'.strands sl = some st' ∧ ∀ l, l < 32 →
          lane st' l = if (lane st l).st = .parked (.gbar g) then { lane st l with st := .ready, pcv := (lane st l).pcv + 4 } else lane st l) ∧
  (∀ s c x g final dur (dirty : Option (Nat × Dirty)), Runs s c x → Live s x g → s.MemInv → x.pst = .publishing final dur → x.sq = [] → x.ops = [] →
    s.remote = [] → dirtyList x = dirty.toList → (∀ d, dirty = some d → d.1 < 2 ^ 44 ∧ InMemory (64 * d.1) 64) →
    ∃ t x', exec (.phasePublish c 1) s = .next t ∧ getCore t c = some x' ∧ x'.phase = x.phase + 1 ∧ x'.pst = (if final then .ended else .running) ∧
      x'.durPhase = (if dur then some (x.phase + 1) else x.durPhase) ∧ (∀ p ∈ x'.held, p.2.read = none ∧ p.2.dirty = []) ∧ t.tags = s.tags ∧
      (∀ a, sget 0 t.mem a = match dirty with
        | some d => if a / 64 = d.1 ∧ d.2.mask.getLsbD (a % 64) then d.2.data.getD (a % 64) 0 else sget 0 s.mem a
        | none => sget 0 s.mem a) ∧
      ∀ sl st, aget x.strands sl = some st → st.st = .atPhase → aget x'.strands sl = some { advLanes st st.phMask st.phLen with
        st := .running, phMask := 0, phLen := 0, dur := false, bnd := !st.due.isEmpty }) ∧
  (∀ s c x g msg gid wg fg fw v, Runs s c x → Live s x g → aget s.gangs gid = some g → x.gid = gid → x.wg = wg → g.cores[wg]? = some c →
    aget s.msgs msg = some (.phase gid wg fg fw v) →
    msgBefore s.msgs msg (fun m => match m with
      | .phase gid' wg' fg' fw' _ => decide (gid' = gid) && decide (wg' = wg) && decide (fg' = fg) && decide (fw' = fw) | _ => false) = false →
    let x1 := { x with leadv := (x.leadv.filter fun e => !(decide (e.gang = fg) && decide (e.wg = fw))) ++ [{ gang := fg, wg := fw, val := v }] }
    ∃ t x', exec (.phaseMessage msg) s = .next t ∧ getCore t c = some x' ∧ x'.leadv = x1.leadv ∧ x'.phase = x.phase ∧ x'.strands = x.strands ∧
      sameMemory s t ∧ x'.pst = match x.pst with
        | .leadWait final dur _ => if leadOk s x1 then .publishing final dur else .leadWait final dur true
        | p => p) ∧
  (∀ s u w0, s.cur = some u → exec (.nonInstruction w0) s =
    .next (raiseFaults s u.core u.slot (((List.range 32).filter (inMask u.mask)).map fun l => ⟨l, .illegal, 0, 0⟩) w0 u.ilen)) ∧
  (∀ s u addr, s.cur = some u → (∀ p ∈ [(2#8, Cause.priv), (6#8, .xnFetch), (15#8, .poisonUse)], exec (.fetchFault p.1 addr) s =
    .next (raiseFaults s u.core u.slot (((List.range 32).filter (inMask u.mask)).map fun l => ⟨l, p.2, addr, 0⟩) u.w0 u.ilen)) ∧
    ∀ st w, getStrand s u.core u.slot = some st → walkOf s (dieOf u.core) (ctxNum s u.core) (ptrVa addr / 65536) = some w →
      exec (.fetchFault 5 addr) s = .next (withStrand s u (modLanes st u.mask fun la => { la with st := .faultParked w.id addr u.w0 }))) ∧
  (∀ s u st, s.cur = some u → getStrand s u.core u.slot = some st → st.lanes.length = 32 → st.hold = none → exec .emptyRound s = .next s ∧
    ∃ st', getStrand (issueEnd s s) u.core u.slot = some st' ∧ ∀ l, l < 32 →
      lane st' l = if (lane st l).st = .yielded then { lane st l with st := .ready } else lane st l)

/-- R9, R34, R36, R406, R407: a request that asks for a context gets one under the lowest free number (the model's choice, log 34), LIVE, with its record
queued, or its refusal; a request to destroy one first stops it, then, with nothing of it under way, removes what is left of
it. A scheduler places the next gang of the head record on the first cores of its die (log 33). -/
def Obligations.Management : Prop :=
  let served (s : State) (a : Nat) : Prop :=
    s.power = .run ∧ s.ctl.ready = true ∧ s.ctl.stopped = false ∧ s.mreqs.head? = some a ∧ s.MemInv ∧ a % 64 = 0 ∧ a + 128 ≤ dramTop ∧
      physPois s a 128 = false
  let answer (s t : State) (a result ctx : Nat) : Prop :=
    t.mreqs = s.mreqs.tail ∧ readBytes t.mem (a + 112) 4 = natBytes result 4 ∧ readBytes t.mem (a + 116) 2 = natBytes ctx 2 ∧
      (∀ b, b < a ∨ a + 128 ≤ b → sget 0 t.mem b = sget 0 s.mem b) ∧ RaisedMsix s t 3
  let block (s : State) (a : Nat) : List Byte := readBytes s.mem a 128
  (∀ s a c raw, served s a → recField (block s a) 58 1 = 0 → createVerdict s (block s a) = .ok (c, raw) →
    let q := recField (block s a) 27 1
    ((aget s.queues q).getD []).length < 256 →
    ∃ t r, exec (.mreqCreate a) s = .next t ∧ answer s t a 1 c.num ∧ aget t.ctxs c.num = some c ∧ c.st = .live ∧ c.seq = 0 ∧ c.num < 256 ∧
      aget s.ctxs c.num = none ∧ (∀ n, n < c.num → (aget s.ctxs n).isSome = true) ∧ c.ptroot = recField (block s a) 0 8 ∧
      (∀ n, n ≠ c.num → aget t.ctxs n = aget s.ctxs n) ∧ aget t.queues q = some ((aget s.queues q).getD [] ++ [r]) ∧ r.raw = raw ∧ r.ctx = c.num ∧
      r.next = 0 ∧ r.checked = false ∧ r.prio = min (recPrio raw) c.priocap) ∧
  (∀ s a k, served s a → recField (block s a) 58 1 ≠ 1 → createVerdict s (block s a) = .error k →
    ∃ t, exec (.mreqCreate a) s = .next t ∧ answer s t a k 0 ∧ t.ctxs = s.ctxs ∧ t.queues = s.queues) ∧
  (∀ s a, served s a → recField (block s a) 58 1 = 1 → destroyBad (block s a) = false →
    let n := recField (block s a) 60 2
    (aget s.ctxs n = none → ∃ t, exec (.mreqDestroy a) s = .next t ∧ answer s t a 5 0 ∧ t.ctxs = s.ctxs) ∧
    (∀ c, aget s.ctxs n = some c → c.st = .live →
      ∃ t, exec (.mreqDestroy a) s = .next t ∧ aget t.ctxs n = some { c with st := .ending false } ∧ t.mreqs = s.mreqs ∧ sameMemory s t ∧
        ∀ q ∈ t.queues, ∀ r ∈ q.2, r.ctx ≠ n) ∧
    (∀ c h, aget s.ctxs n = some c → c.st = .ending h → ctxStill s n = true → (∀ g ∈ s.gangs, g.2.gid = g.1) →
      ∃ t, exec (.mreqDestroy a) s = .next t ∧ answer s t a 1 0 ∧ (∀ p ∈ t.ctxs, p.1 ≠ n) ∧ (∀ g ∈ t.gangs, g.2.ctx ≠ n) ∧
        (∀ w ∈ t.walks, w.ctx ≠ n) ∧ (∀ e ∈ t.tlbs, e.ctx ≠ n) ∧ (∀ d, ∀ e ∈ l1Of t d, e.ctx ≠ n) ∧ ∀ p ∈ t.cores, ∀ g, gangOf s p.2 = some g → g.ctx ≠ n)) ∧
  (∀ s die q r cx, s.power = .run → s.ctl.ready = true → s.ctl.stopped = false → die < 2 → s.queues = [(q, [r])] → q / 64 = die → r.checked = true →
    recWkind r.raw = 0 → aget s.ctxs r.ctx = some cx → cx.st = .live → s.gangs = [] → s.cores = [] → s.want = [] → s.ftest = [] → s.withdrawn = [] →
    recWpg r.raw ≤ 4 → 0 < recWpg r.raw → recSpw r.raw ≤ 64 →
    ∃ t gid g, exec (.schedStep die) s = .next t ∧ aget t.gangs gid = some g ∧ g.st = .placed ∧ g.ctx = r.ctx ∧ g.index = r.next ∧ g.die = die ∧
      g.cores = (List.range (recWpg r.raw)).map (128 * die + ·) ∧ sameMemory s t ∧
      aget t.queues q = some (if r.next + 1 = recGangs r.raw then [] else [{ r with next := r.next + 1 }]) ∧
      ∀ w, w < recWpg r.raw → ∃ x, getCore t (128 * die + w) = some x ∧ x.gid = gid ∧ x.wg = w ∧ x.phase = 0 ∧ x.loc = [] ∧ x.trapctl = cx.trapctl ∧
        x.tc = r.tc ∧ x.regions = r.regions ∧ x.strands.length = recSpw r.raw ∧ ∀ sl, sl < recSpw r.raw → ∃ st fr, aget x.strands sl = some st ∧
          st.st = .running ∧ st.frames = [fr] ∧ fr.gran = recBase r.raw ∧ fr.regs = [] ∧ st.prio = r.prio ∧ st.handler = none ∧
          (readK st 0).v = (recArg r.raw).extractLsb' 0 32 ∧ (readK st 1).v = (recArg r.raw).extractLsb' 32 32 ∧
          ∀ l, l < 32 → (lane st l).st = .ready ∧ (lane st l).pcv = recEntry r.raw)

/-- R32, R34, R35, R39, R40, R90, R91, R102, R117, R141: a gang whose strands have stopped and whose private region has its pages is
saved, its bytes written to the save area and the records, and frees its cores; a SAVED gang that has been given cores is restored
with what its save area and records hold (no error having struck them). Where in the strand record and the control block its bytes
stand, what becomes of the rest of these, which bytes a restore takes from them and which from the model's own data, and areas on
remote pages are the model's choices (log 7); a DRAINING gang whose
acknowledgements have arrived adds one to its completion counter and is gone. A device's report about a launch replaces its
last one. A walk that finds its page, on its own or at the host's replay, fills the TLB and its parked lanes are READY; a
refused one EXITs them. -/
def Obligations.GangsAndWalks : Prop :=
  (∀ s gid k g cx c x, s.power = .run → aget s.gangs gid = some g → g.gid = gid → g.st = .saving → aget s.ctxs g.ctx = some cx → cx.st = .live →
    g.cores = [c] → getCore s c = some x → x.gid = gid → coreStopped s c x true = true → (saveUsed s g.ctx).length < 32768 →
    privMissing s (dieOf c) cx (coreRanges cx (recScr g.raw) ((saveFree s g.ctx 1).getD 0 0) x) = [] →
    ∃ t g' x', exec (.preemptSave gid k) s = .next t ∧ aget t.gangs gid = some g' ∧ g'.st = .saved ∧ g'.cores = [] ∧ g'.saved = [x'] ∧
      (∀ p ∈ t.cores, p.2.gid ≠ gid) ∧
      x'.saveIdx = (saveFree s g.ctx 1).getD 0 0 ∧ t.mem = (writeCore s (dieOf c) cx (recScr g.raw) x'.saveIdx x').mem ∧ t.tags = s.tags ∧ x'.phase = x.phase ∧ x'.loc = x.loc ∧ x'.tiles = x.tiles ∧
      x'.held = x.held ∧ x'.tc = x.tc ∧ x'.regions = x.regions ∧
      ∀ sl st, aget x.strands sl = some st → st.trial = none → (∀ h n, st.hold = some h → h.k ≠ .sleep n) → ∃ st', aget x'.strands sl = some st' ∧
        st'.lanes = st.lanes ∧ st'.k = st.k ∧ st'.handler = st.handler ∧ st'.frames.map (fun f => (f.gran, f.res, f.regs)) =
          st.frames.map (fun f => (f.gran, f.res, f.regs)) ∧ st'.due = st.due) ∧
  (∀ s gid g cx c y, s.power = .run → aget s.gangs gid = some g → g.gid = gid → g.st = .saved → aget s.ctxs g.ctx = some cx → cx.st = .live →
    g.cores = [c] → g.saved = [y] → y.gid = gid → y.wf = true → s.gpois = [] →
    privMissing s (dieOf c) cx (coreRanges cx (recScr g.raw) y.saveIdx y) = [] → y.pst = .running → y.regions = [] → y.strands ≠ [] →
    (∀ p ∈ y.strands, p.2.st = .running ∧ p.2.trial = none ∧ p.2.handler = none ∧ ∃ l, l < 32 ∧ (lane p.2 l).st = .ready) →
    let z := readArea s (dieOf c) cx (recScr g.raw) y
    ∃ t g' x, exec (.resumeRestore gid) s = .next t ∧ aget t.gangs gid = some g' ∧ g'.st = .placed ∧ g'.saved = [] ∧ getCore t c = some x ∧
      sameMemory s t ∧ x.phase = y.phase ∧ x.loc = z.loc ∧ x.lpois = z.lpois ∧ x.tiles = z.tiles ∧ x.tc = y.tc ∧
      ∀ sl st, aget y.strands sl = some st → ∃ st', aget x.strands sl = some st' ∧ st'.lanes = st.lanes ∧ st'.k = st.k ∧
        st'.frames.map (fun f => (f.gran, f.res, f.regs)) = st.frames.zipIdx.map (fun p => (p.1.gran, p.1.res,
          if p.1.res then storedRegs s (dieOf c) cx (recordVa cx st p.2) p.1.gran p.1.regs else p.1.regs)) ∧
        ∀ f ∈ st'.frames, f.res = true → f.phys.length = f.gran) ∧
  (∀ s gid g cx e, s.power = .run → s.MemInv → aget s.gangs gid = some g → g.st = .draining → aget s.ctxs g.ctx = some cx → cx.st = .live →
    (∀ c ∈ g.cores, ∃ x, getCore s c = some x ∧ coreDrained s c x = true) →
    tlbFind s g.die cx.num (ptrVa (recCompl g.raw)) = some e → e.priv = false → e.ro = false → e.tag = false → e.rem = false →
    let pa := paOf e (ptrVa (recCompl g.raw))
    pa % 8 = 0 → InMemory pa 8 →
    ∃ t, exec (.drainDone gid) s = .next t ∧ (∀ p ∈ t.gangs, p.1 ≠ gid) ∧ (∀ p ∈ t.cores, p.2.gid ≠ gid) ∧ t.tags = s.tags ∧
      Wrote s t pa (natBytes (bytesNat (readBytes s.mem pa 8) + 1) 8)) ∧
  (∀ s dev compl dgroup queued floor, s.power = .run → ∃ t, exec (.domainFloorMessage dev compl dgroup queued floor) s = .next t ∧ sameMemory s t ∧
    t.cores = s.cores ∧ t.queues = s.queues ∧ (∀ f, f.dev ≠ dev ∨ f.compl ≠ compl ∨ f.dgroup ≠ dgroup → (f ∈ t.floors ↔ f ∈ s.floors)) ∧
    ∀ f, f.dev = dev → f.compl = compl → f.dgroup = dgroup → (f ∈ t.floors ↔
      f = { dev := dev, compl := compl, dgroup := dgroup, queued := queued, floor := floor } ∧ (queued = true ∨ floor.isSome = true))) ∧
  (∀ s w cx e base i, s.power = .run → s.ctl.stopped = false → s.walks.find? (fun v => decide (v.id = w.id)) = some w → aget s.ctxs w.ctx = some cx →
    walkTables s cx.ptroot (w.page * 65536) = .present e base → base ≤ w.page * 65536 → w.page * 65536 < base + pageBytes e.size →
    ((i = .pageWalkDone w.id ∧ w.st = .walking ∧ hasWalker s w = true) ∨
      (i = .ansReplay w.die w.entry ∧ pendingWalk s w.die w.entry = some w)) →
    ∃ t, exec i s = .next t ∧ tlbFind t w.die w.ctx (w.page * 65536) = some e ∧
      (∀ c x, rising s.cores = true → getCore s c = some x → dieOf c = w.die → awaits w.id x = true → tlbCore t c w.ctx (w.page * 65536) = some e) ∧ (∀ v ∈ t.walks, v.id ≠ w.id) ∧ sameMemory s t ∧
      ∀ c sl st l p w0, getStrand s c sl = some st → (lane st l).st = .faultParked w.id p w0 →
        ∃ st', getStrand t c sl = some st' ∧ (lane st' l).st = .ready ∧ (lane st' l).pcv = (lane st l).pcv) ∧
  (∀ s w, s.power = .run → s.ctl.stopped = false → s.walks.find? (fun v => decide (v.id = w.id)) = some w →
    pendingWalk s w.die w.entry = some w → ∃ t, exec (.ansRefuse w.die w.entry) s = .next t ∧ (∀ v ∈ t.walks, v.id ≠ w.id) ∧
      ∀ c sl st l p w0, rising s.cores = true → (∀ x, getCore s c = some x → x.wf = true) → getStrand s c sl = some st → l < 32 →
        (lane st l).st = .faultParked w.id p w0 → ∀ st', getStrand t c sl = some st' → (lane st' l).st = .exited)

/-- R103, R139 to R141, R203, R400 to R404, R408, R409, R411: what the host and other devices do. Invalidation drops the TLB entries
it names; fields of the control page take what is written; STATUS clears APERR when read; BAR2 reads and writes bytes, or
tags, at the aperture, a poisoned granule reading as ones; an unmasked vector that is pending is sent; accesses of other
devices reach their homes; an unanswered request poisons its destination; SPDM requests get their answers (their payloads: log 40, the model's choice). The fields of the control page take every value,
bits that R403 has as zero among them, and INV_CTL takes its other fields while GO is 1: the model's reading (log 38). -/
def Obligations.HostHappenings : Prop :=
  let on (s : State) : Prop := s.power ≠ .flushed
  let pa (s : State) (off : Nat) : Nat := (s.ctl.apbase + off) % physTop
  (∀ s ctl, on s →
    let f := { s.ctl with invCtx := ctl.extractLsb' 0 16, invAll := ctl.getLsbD 16 }
    exec (.invRequest ctl) s = .next { s with ctl := if s.ctl.invGo || !ctl.getLsbD 31 then f
      else { f with invGo := true, reqVa := f.invVa, reqCtx := f.invCtx, reqAll := f.invAll } }) ∧
  (∀ s, on s → s.ctl.invGo = true → ∃ t, exec .invDone s = .next t ∧ t.ctl.invGo = false ∧ RaisedMsix s t 2 ∧ sameMemory s t ∧ t.cores = s.cores ∧
    let hit (e : TlbE) : Prop := e.ctx = s.ctl.reqCtx.toNat ∧
      (s.ctl.reqAll = true ∨ (e.base ≤ ptrVa s.ctl.reqVa ∧ ptrVa s.ctl.reqVa < e.base + pageBytes e.e.size))
    (∀ e, e ∈ t.tlbs ↔ e ∈ s.tlbs ∧ ¬ hit e) ∧ ∀ c e, e ∈ l1Of t c ↔ e ∈ l1Of s c ∧ ¬ hit e) ∧
  (∀ s die v, on s → die < 2 → (∀ w ∈ s.walks, w.st ≠ .owed) →
    exec (.hfqBaseWrite die v) s = .next { s with ctl := { s.ctl with hfqBase := s.ctl.hfqBase.set die v.toNat } }) ∧
  (∀ s die v, on s → die < 2 → (∀ w ∈ s.walks, w.st ≠ .owed) → s.TabInv →
    ∃ t, exec (.hfqConsWrite die v) s = .next t ∧ hfqCons t die = v ∧ hfqCons t (1 - die) = hfqCons s (1 - die) ∧
      (∀ d, d < 2 → hfqProd t d = hfqProd s d) ∧ { t with cont := s.cont } = s) ∧
  (∀ s w b, s.power = .run → s.MemInv → s.TabInv → w.die < 2 → s.walks = [w] → w.st = .owed → s.ctl.hfqBase.length = 2 →
    let slot := (hfqProd s w.die).toNat % 4096
    b ≠ 0 → b % 64 = 0 → InMemory b 131072 → (hfqProd s w.die - hfqCons s w.die).toNat < 4096 →
    ∃ t, exec (.hfqBaseWrite w.die (BitVec.ofNat 64 b)) s = .next t ∧ t.walks = [{ w with st := .posted }] ∧ hfqProd t w.die = hfqProd s w.die + 1 ∧
      RaisedMsix s t w.die ∧ Wrote s t (b + 32 * slot) (natBytes (w.page * 65536) 8 ++ natBytes w.ctx 2 ++
        natBytes ((if w.wr then 1 else 0) + (if w.fetch then 2 else 0) + (if w.malformed then 4 else 0) + (if w.atomic then 8 else 0) +
          (if w.privr then 16 else 0) + (if w.sched then 32 else 0)) 1 ++ natBytes w.level 1 ++ natBytes w.entry 4 ++
        natBytes (min (parkedOn s w.id) 0xFFFFFFFF) 4 ++ natBytes 0 4 ++ natBytes s.clock.toNat 8)) ∧
  (∀ s, on s → exec .statusRead s = .next { s with
    hostOut := s.hostOut ++ [.word (BitVec.ofNat 64 ((if s.ctl.ready then 1 else 0) + (if s.ctl.aperr then 2 else 0) + (if s.ctl.stopped then 4 else 0)))],
    ctl := { s.ctl with aperr := false } }) ∧
  (∀ s v, on s → exec (.ctrlPageWrite 0x8 v) s = .next { s with ctl := { s.ctl with apbase := v.toNat } } ∧
    exec (.ctrlPageWrite 0x20 v) s = .next { s with ctl := { s.ctl with ansKind := s.ctl.ansKind.set 0 (v.getLsbD 31) } } ∧
    exec (.ctrlPageWrite 0x80 v) s = .next { s with ctl := { s.ctl with invVa := v } } ∧
    exec (.ctrlPageWrite 0x200 v) s = .next { s with ctl := { s.ctl with plimit := v.toNat % 65536 } } ∧
    exec (.ctrlPageWrite 0x100 v) s = .next (if s.ctl.ready ∧ s.ctl.stopped = false ∧ s.power = .run then { s with mreqs := s.mreqs ++ [v.toNat] } else s) ∧
    ∀ off ∈ [0x0, 0x10, 0x30, 0x204, 0x208, 0x300], exec (.ctrlPageWrite off v) s = .next s) ∧
  (∀ s off n, on s → s.ctl.tagv = false → off + n ≤ 2 ^ 36 → (∀ i, i < n → InMemory (pa s (off + i)) 1) →
    ∃ t bytes, exec (.bar2Read off n) s = .next t ∧ HostAns.bytes bytes ∈ t.hostOut ∧ bytes.length = n ∧ sameMemory s t ∧
      (∀ i, i < n → bytes[i]? = some (if sget false s.gpois (pa s (off + i) / 32) then 0xFF else sget 0 s.mem (pa s (off + i)))) ∧
      (t.ctl.aperr = true ↔ s.ctl.aperr = true ∨ ∃ i, i < n ∧ sget false s.gpois (pa s (off + i) / 32) = true)) ∧
  (∀ s off bytes, on s → s.MemInv → s.ctl.tagv = false → off + bytes.length ≤ 2 ^ 36 → InMemory (pa s off) bytes.length →
    ∃ t, exec (.bar2Write off bytes) s = .next t ∧ Wrote s t (pa s off) bytes ∧ t.tags = s.tags ∧ t.cores = s.cores) ∧
  (∀ s off, on s → s.ctl.tagv = true → off < 2 ^ 30 → s.ctl.apbase % 64 = 0 → InMemory (pa s (64 * off)) 64 →
    let g := pa s (64 * off) / 32
    exec (.tagViewRead off) s = .next { s with hostOut := s.hostOut ++ [.bytes [sget 0 s.tags (g + 1) ++ sget 0 s.tags g]] } ∧
    (s.MemInv → (∀ p ∈ s.cores, p.2.ops = []) → ∀ v : Byte, ∃ t, exec (.tagViewWrite off v) s = .next t ∧ t.mem = s.mem ∧ t.gpois = s.gpois ∧ t.cores = s.cores ∧
      ∀ k, sget 0 t.tags k = if k = g then v.extractLsb' 0 4 else if k = g + 1 then v.extractLsb' 4 4 else sget 0 s.tags k)) ∧
  (∀ s v, on s → ∃ t, exec (.msixUnmask v) s = .next t ∧ v ∉ t.masked ∧ v ∉ t.pendMsix ∧ sameMemory s t ∧ t.cores = s.cores ∧
    t.hostOut = s.hostOut ++ (if v ∈ s.pendMsix then [.msix v] else [])) ∧
  (∀ s, exec .linkRetraining s = .next s) ∧
  (∀ s port, on s → exec (.fabricPortLoss port) s = .next { s with ports := s.ports.filter fun p => decide (p ≠ port) }) ∧
  (∀ s a n atom, on s → s.MemInv → InMemory a n →
    (∀ data, data.length = n → ∃ t, exec (.remoteAccessArrive a (some data) n atom) s = .next t ∧ Wrote s t a data ∧ t.cores = s.cores) ∧
    (∀ op ty b c, (n = 4 ∨ n = 8) → a % n = 0 → ∃ t, exec (.remoteAccessArrive a none n (some (op, ty, b, c))) s = .next t ∧
      Wrote s t a (natBytes (remoteOp op ty b c (BitVec.ofNat 64 (bytesNat (readBytes s.mem a n)))).toNat n) ∧ t.cores = s.cores) ∧
    exec (.remoteAccessArrive a none n none) s = .next s) ∧
  (∀ s c x o y r l, Runs s c x → s.remote.find? (fun q => decide (q.id = r.id)) = some r → r.op = some (o.id, l) → r.core = c → r.ask = true → r.data = [] →
    x.ops.find? (fun p => decide (p.id = o.id)) = some o → o.lanes = [y] → y.lane = l → y.done = false → y.landed = 0 → o.dest ≠ .none →
    0 < opWords o → ∃ t x' o' y', exec (.remoteTimeout r.id) s = .next t ∧ (∀ q ∈ t.remote, q.id ≠ r.id) ∧ getCore t c = some x' ∧ sameMemory s t ∧
      x'.ops.find? (fun p => decide (p.id = o.id)) = some o' ∧ o'.lanes = [y'] ∧ y'.lane = l ∧ y'.done = true ∧ y'.vals.length = opWords o ∧
      ∀ v ∈ y'.vals, v.p = true) ∧
  (∀ s, on s → exec .getVersion s = .next { s with hostOut := s.hostOut ++ [.spdm 0 [0x12, 0x13]] } ∧
    ∀ nonce, ∀ p ∈ [(Instr.getCapabilities, 1), (.negotiateAlgorithms, 2), (.getDigests, 3), (.getCertificate, 4), (.challenge nonce, 5),
        (.getMeasurements nonce, 6)],
      ∃ payload, exec p.1 s = .next { s with hostOut := s.hostOut ++ [.spdm p.2 payload] } ∧ payload ≠ [])

/-- R121 to R126, R161, R162, R180, R371 to R374, R410, R412: the health of the device. Kiln's passes and the errors it meets; buckets
drain and close; a REMAP takes a spare; a copy of a containment table that disagrees is rewritten, and with no two agreeing
the device stops; field tests; a loss of power leaves only BOOT; heat and power move the clock; BOOT zeroes all but Cask and
what the part keeps (log 43), and makes the device ready. The model's choices: a pass that its deadline overtakes ends with its event
(log 41); at 120 degrees the flush stands at the head of the agenda (log 44), and after it nothing but BOOT goes on (log 46); what an
error that Kiln meets does to a granule whose line the L2 holds (log 57). -/
def Obligations.Health : Prop :=
  (∀ s cls unit, s.power = .run → kilnUnit cls unit = true → passOver s cls unit = true →
    ∃ t, exec (.scrubPassStart cls unit) s = .next t ∧
      kilnOf t cls unit = { cls := cls, unit := unit, start := s.clock, corr := 0, unc := 0, seen := [], ended := false } ∧
      sameMemory s t ∧ t.cores = s.cores ∧ ((kilnOf s cls unit).ended = false → s.mgmt.length < 1024 → ∃ m ∈ t.mgmt, m.code = 4 ∧ m.cls = cls ∧ m.unit = unit)) ∧
  (∀ s cls unit a err, s.power = .run → passReads s cls unit a = false → exec (.kilnScrubRead cls unit a err) s = .next s) ∧
  (∀ s cls unit a err, s.power = .run → (cls = 4 ∨ cls = 5) → passReads s cls unit a = true →
    ∃ t, exec (.kilnScrubRead cls unit a err) s = .next t ∧ t.mem = s.mem ∧ t.cores = s.cores ∧ a / 32 ∈ (kilnOf t cls unit).seen ∧
      (err = 0 → t.gpois = s.gpois ∧ t.tags = s.tags ∧ (kilnOf t cls unit).corr = (kilnOf s cls unit).corr ∧
        (kilnOf t cls unit).unc = (kilnOf s cls unit).unc) ∧
      (err = 1 → t.gpois = s.gpois ∧ t.tags = s.tags ∧ (kilnOf t cls unit).corr = (kilnOf s cls unit).corr + 1) ∧
      (2 ≤ err.toNat → (kilnOf t cls unit).unc = (kilnOf s cls unit).unc + 1 ∧
        (l2Has s (a / 32 / 2) = true → t.gpois = s.gpois ∧ t.tags = s.tags ∧ a / 32 ∈ t.behind) ∧ (s.MemInv → l2Has s (a / 32 / 2) = false → ∀ g, sget false t.gpois g = (decide (g = a / 32) || sget false s.gpois g) ∧ sget 0 t.tags g = if g = a / 32 then 0 else sget 0 s.tags g))) ∧
  (∀ s cls unit, s.power = .run → drainDue s (bucketOf s cls unit) = true →
    ∃ t, exec (.bucketDrainTick cls unit) s = .next t ∧ (bucketOf t cls unit).level = (bucketOf s cls unit).level - 1 ∧ sameMemory s t ∧ t.cores = s.cores) ∧
  (∀ s cls unit, s.power = .run → windowDue s (bucketOf s cls unit) = true →
    ∃ t, exec (.bucketWindowClose cls unit) s = .next t ∧ (bucketOf t cls unit).win = none ∧
      (bucketOf t cls unit).level = (bucketOf s cls unit).level ∧ sameMemory s t ∧ t.cores = s.cores) ∧
  (∀ s cls unit row, s.power = .run → (bucketOf s cls unit).due = some row →
    spareLeft s cls unit row = true → remapReady s cls unit row = true →
    ∃ t, exec (.remap cls unit row) s = .next t ∧ sget 0 t.spares (spareKey cls unit row) = sget 0 s.spares (spareKey cls unit row) + 1 ∧
      (bucketOf t cls unit).due = none ∧ sameMemory s t ∧ t.cores = s.cores ∧ ({ name := .remap, a := cls, b := unit } : Ev) ∈ t.log) ∧
  (∀ s n k v, s.power = .run → s.TabInv → n < 6 → (∀ m, m < 6 → m ≠ n → contTab s m = CTab.empty) →
    contTab s n = { c0 := sset 0 [] k v, c1 := sset 0 [] k v, c2 := sset 0 [] k v } →
    exec (.containmentScan []) s = .next s ∧
    (∀ w, ∃ t, exec (.containmentScan [(n, 2, k, w)]) s = .next t ∧ t.power = .run ∧ contGet t n k = v ∧ sget 0 (contTab t n).c2 k = v ∧
      sameMemory s t ∧ t.cores = s.cores) ∧
    (∀ w z, w < 2 ^ 64 → z < 2 ^ 64 → w ≠ v.toNat → z ≠ v.toNat → w ≠ z →
      ∃ t, exec (.containmentScan [(n, 1, k, w), (n, 2, k, z)]) s = .next t ∧ t.power = .stopped ∧ t.ctl.stopped = true ∧
        (∀ p ∈ t.ctxs, p.2.st = .stopped) ∧ RaisedMsix s t 5)) ∧
  (∀ s die cl, s.power = .run → die < 2 → cl < 32 → testOf s (32 * die + cl) = none → testDue s (32 * die + cl) = true →
    gangsOn s (clusterCores (32 * die + cl)) = [] →
    ∃ t, exec (.fieldTestDue die cl) s = .next t ∧ sameMemory s t ∧ t.cores = s.cores ∧
      testOf t (32 * die + cl) = some { cluster := 32 * die + cl, running := false, start := s.clock }) ∧
  (∀ s die cl q, s.power = .run → testOf s (32 * die + cl) = some q → q.running = false → clusterEmpty s (32 * die + cl) = true →
    ∃ t, exec (.fieldTest die cl) s = .next t ∧ testOf t (32 * die + cl) = some { q with running := true, start := s.clock } ∧
      sameMemory s t ∧ t.cores = s.cores) ∧
  (∀ s die cl q, s.power = .run → swf 0 s.tested = true → testOf s (32 * die + cl) = some q → q.running = true →
    ∃ t, exec (.fieldTestEnd die cl []) s = .next t ∧ testOf t (32 * die + cl) = none ∧ sget 0 t.tested (32 * die + cl) = s.clock ∧
      sameMemory s t ∧ t.cores = s.cores) ∧
  (∀ s keep, s.nvLog = [] → ∃ t, exec (.powerLossFlush keep) s = .next t ∧ t.power = .flushed ∧ (s.power = .flushed → t = s) ∧
    (s.power = .run → s.MemInv → readBytes t.mem caskBase 8 = natBytes 0x52535452 4 ++ natBytes 1 4 ∧ readBytes t.mem (caskBase + 16) 4 = natBytes 1 4 ∧
      (∀ a, a < caskBase → sget 0 t.mem a = sget 0 s.mem a) ∧ t.nvLog = [])) ∧
  (∀ s pnow tj, s.power = .run → pnow < 65536 → tj < 120 →
    let f := if s.ctl.plimit < pnow ∨ 105 ≤ tj then max 800 (s.mhz - 100)
      else if 100 * pnow < 95 * s.ctl.plimit then min 1700 (s.mhz + 100) else s.mhz
    ∃ t, exec (.clockAdjust pnow tj) s = .next t ∧ t.mhz = f ∧ t.ctl.pnow = pnow ∧ t.ctl.tjmax = tj ∧ sameMemory s t ∧ t.agenda = s.agenda ∧
      (f ≠ s.mhz → RaisedMsix s t 7)) ∧
  (∀ s pnow tj, s.power = .run → 120 ≤ tj → tj < 256 →
    ∃ t k, exec (.clockAdjust pnow tj) s = .next t ∧ t.agenda = .event (.powerLossFlush k) :: s.agenda) ∧
  (∀ s dev, ∃ t, exec (.boot dev) s = .next t ∧ t.ctl.ready = true ∧ t.power = .run ∧ t.dev = dev ∧ t.ctxs = [] ∧ t.cores = [] ∧ t.gangs = [] ∧
    t.queues = [] ∧ t.ctl.stopped = false ∧ t.withdrawn = s.withdrawn ∧ t.spares = s.spares ∧
    (s.cont.length = 6 → t.cont.take 3 = s.cont.take 3) ∧
    (s.MemInv → ∀ a, sget 0 t.mem a = if caskBase ≤ a then sget 0 s.mem a else 0)) ∧
  (∀ s core, s.power = .run → core < 256 → getCore s core = none → exec (.wakeZero core) s = .next (fire s .wakeZero core 0)) ∧
  (∀ s i, s.power = .flushed → isHappening i = true → (∀ d, i ≠ .boot d) → exec i s = .next s)

/-! ### The machine as a whole -/

/-- R94, R119, R128, R139, R162, R174, R403, R410 and the tables of state: what the device holds at power-on (LPDDR 6 zero, tags 0,
poison clear, as the spec says; Cask zero too, which the spec leaves to the last power-down: the model's choice, log 5; no context, no gang, nothing queued; STATUS 0, the producers and consumers of the fault queues 0, PLIMIT 1,500;
the clock 0), in canonical form. -/
def Obligations.ResetState : Prop :=
  let r := State.reset
  (∀ a, homeByte r a = if a = dramTop + 0x200 then 0xDC else if a = dramTop + 0x201 then 5 else 0) ∧
    (∀ g, sget 0 r.tags g = 0 ∧ sget false r.gpois g = false) ∧ r.ctxs = [] ∧ r.queues = [] ∧ r.gangs = [] ∧ r.cores = [] ∧ r.tlbs = [] ∧ r.l1 = [] ∧
    r.walks = [] ∧ r.mgmt = [] ∧ r.lost = 0 ∧ r.clock = 0 ∧ statusWord r = 0 ∧ r.ctl.plimit = 1500 ∧
    (∀ d, d < 2 → hfqProd r d = 0 ∧ hfqCons r d = 0) ∧ (∀ n k, n < 6 → contGet r n k = 0) ∧ r.MemInv ∧ r.CoreInv

/-- R14, R41, R228, R242: when the round of a strand comes and the words at its least READY address decode to a well-formed
instruction, the step is that instruction executed for the READY lanes at that address, and the end of its round; all that the
fetch changes is the core's instruction cache (and, where a full one loses a line, which is a free choice, the index of free values). A happening that heads the agenda is executed in the same way, for no strand. The
order in which rounds and happenings come is the model's (log 1). -/
def Obligations.StepRunsDecoded : Prop :=
  (∀ s c sl m1 m2 s0 x st pc ws i, NextRound s c sl m1 m2 s0 → getCore s0 c = some x → aget x.strands sl = some st →
    (st.due = [] ∨ st.bnd = false ∨ st.st ≠ .running) → minPc st = some pc →
    ws.length = wordsOfLen (lenOf (ws.headD 0)) → WordsAt s0 c pc.toNat ws → FetchSure s0 c x pc.toNat ws.length → decode (Words.ofList ws) = .ok i →
    ∃ s1, (s1 = s0 ∨ ∃ ic n, s1 = modCore { s0 with freeCnt := n } c fun y => { y with ic := ic }) ∧
      step s = afterExec i { s1 with cur := some { core := c, slot := sl, pc := pc, mask := atPc st pc, w0 := ws.headD 0, ilen := ws.length,
                                                   mm1 := m1 &&& atPc st pc, mm2 := m2 &&& atPc st pc } }) ∧
  (∀ s i t, s.agenda = .event i :: t → isHappening i = true → step s = afterExec i { stepStart s with agenda := t, cur := none })

/-- R229 to R241: words written out from the encoding tables decode to the instructions they stand for. -/
def Obligations.DecodeWords : Prop :=
  decode { w0 := 0xE0000000, w1 := 0x0, w2 := 0x0, l0 := 0x0, l1 := 0x0 } = .ok (.nop
    { len := 0, gp := 7, gn := false, dst := 0, sa := 0, sb := 0, sc := 0, kca := false, kcb := false, kcc := false, dk := false,
      hold := 0, md := 0, aux := 0x0, lit := 0x0 }) ∧
  decode { w0 := 0xE2886360, w1 := 0x0, w2 := 0x0, l0 := 0x0, l1 := 0x0 } = .ok (.ffma
    { len := 0, gp := 7, gn := false, dst := 12, sa := 4, sb := 5, sc := 0, kca := false, kcb := false, kcc := false, dk := false,
      hold := 0, md := 4, aux := 0x0, lit := 0x0 }) ∧
  decode { w0 := 0x600E3137, w1 := 0x404009, w2 := 0x0, l0 := 0x76543210, l1 := 0xFEDCBA98 } = .ok (.isel
    { len := 3, gp := 3, gn := true, dst := 70, sa := 135, sb := 0, sc := 0, kca := false, kcb := false, kcc := false, dk := false,
      hold := 0, md := 2, aux := 0x0, lit := 0xFEDCBA9876543210 }) ∧
  decode { w0 := 0x20000005, w1 := 0x0, w2 := 0xFFFFFFF0, l0 := 0x0, l1 := 0x0 } = .ok (.bra
    { len := 1, gp := 1, gn := false, dst := 0, sa := 0, sb := 0, sc := 0, kca := false, kcb := false, kcc := false, dk := false,
      hold := 0, md := 0, aux := 0xFFFFFFF0, lit := 0x0 }) ∧
  decode { w0 := 0xE00430C1, w1 := 0xC08001, w2 := 0x40, l0 := 0x0, l1 := 0x0 } = .ok (.ld
    { len := 1, gp := 7, gn := false, dst := 70, sa := 2, sb := 0, sc := 0, kca := true, kcb := false, kcc := false, dk := false,
      hold := 0, md := 6, aux := 0x40, lit := 0x0 }) ∧
  decode { w0 := 0xE61441C9, w1 := 0x10603200, w2 := 0x8, l0 := 0x0, l1 := 0x0 } = .ok (.acas
    { len := 1, gp := 7, gn := false, dst := 8, sa := 10, sb := 12, sc := 200, kca := false, kcb := false, kcc := false, dk := false,
      hold := 0, md := 131, aux := 0x8, lit := 0x0 }) ∧
  decode { w0 := 0xE0002A3A, w1 := 0x0, w2 := 0x0, l0 := 0x12345678, l1 := 0x0 } = .ok (.movk
    { len := 2, gp := 7, gn := false, dst := 5, sa := 0, sb := 0, sc := 0, kca := false, kcb := false, kcc := false, dk := false,
      hold := 0, md := 0, aux := 0x0, lit := 0x12345678 }) ∧
  decode { w0 := 0xE50E34F1, w1 := 0x1200000, w2 := 0x0, l0 := 0x0, l1 := 0x0 } = .ok (.mma
    { len := 1, gp := 7, gn := false, dst := 6, sa := 7, sb := 10, sc := 0, kca := false, kcb := false, kcc := false, dk := false,
      hold := 0, md := 9, aux := 0x0, lit := 0x0 })

/-- R229 to R242: the words of every well-formed instruction decode to it, with every operand at every value that its
encoding admits; and the order in which its words stand in memory loses none of them. -/
def Obligations.DecodeEncode : Prop :=
  ∀ i w, i.wf = true → encode i = some w → decode w = .ok i ∧ Words.ofList w.toList = w ∧ w.toList.length = wordsOfLen (lenOf w.w0)

/-- R94, R104, R107: every step keeps memory, its tags and its poison in canonical form. -/
def Obligations.StepKeepsMemInv : Prop := ∀ s t, s.MemInv → step s = .next t → t.MemInv

/-- R12, R45, R73, R162: every step keeps the cores, gangs, queues and containment tables in canonical form: strands of 32
lanes and a base frame, the registers and local arrays of equal contents equal data, three copies of six tables. -/
def Obligations.StepKeepsCoreInv : Prop := ∀ s t, s.CoreInv → step s = .next t → t.CoreInv

end
end

