-- ==== Sys2Proof/Laws/Exec.lean ====
section
/-! SUPPORT. What `exec` answers for each constructor: the call of its meaning. -/

namespace Sys2Proof.Machine

theorem exec_nop (f : Form) (s : State) : exec (.nop f) s = execNop f s := rfl
theorem exec_exit (f : Form) (s : State) : exec (.exit f) s = execExit f s := rfl
theorem exec_yield (f : Form) (s : State) : exec (.yield f) s = execYield f s := rfl
theorem exec_sleep (f : Form) (s : State) : exec (.sleep f) s = execSleep f s := rfl
theorem exec_nopre (f : Form) (s : State) : exec (.nopre f) s = execNopre f s := rfl
theorem exec_preok (f : Form) (s : State) : exec (.preok f) s = execPreok f s := rfl
theorem exec_bra (f : Form) (s : State) : exec (.bra f) s = execBra f s := rfl
theorem exec_bri (f : Form) (s : State) : exec (.bri f) s = execBri f s := rfl
theorem exec_call (f : Form) (s : State) : exec (.call f) s = execCall f s := rfl
theorem exec_calli (f : Form) (s : State) : exec (.calli f) s = execCalli f s := rfl
theorem exec_ret (f : Form) (s : State) : exec (.ret f) s = execRet f s := rfl
theorem exec_unwind (f : Form) (s : State) : exec (.unwind f) s = execUnwind f s := rfl
theorem exec_trap (f : Form) (s : State) : exec (.trap f) s = execTrap f s := rfl
theorem exec_eret (f : Form) (s : State) : exec (.eret f) s = execEret f s := rfl
theorem exec_mfs (f : Form) (s : State) : exec (.mfs f) s = execMfs f s := rfl
theorem exec_mts (f : Form) (s : State) : exec (.mts f) s = execMts f s := rfl
theorem exec_launch (f : Form) (s : State) : exec (.launch f) s = execLaunch f s := rfl
theorem exec_waitw (f : Form) (s : State) : exec (.waitw f) s = execWaitw f s := rfl
theorem exec_ipf (f : Form) (s : State) : exec (.ipf f) s = execIpf f s := rfl
theorem exec_ipin (f : Form) (s : State) : exec (.ipin f) s = execIpin f s := rfl
theorem exec_iunpin (f : Form) (s : State) : exec (.iunpin f) s = execIunpin f s := rfl
theorem exec_fencei (f : Form) (s : State) : exec (.fencei f) s = execFencei f s := rfl
theorem exec_bar (f : Form) (s : State) : exec (.bar f) s = execBar f s := rfl
theorem exec_gbar (f : Form) (s : State) : exec (.gbar f) s = execGbar f s := rfl
theorem exec_btest (f : Form) (s : State) : exec (.btest f) s = execBtest f s := rfl
theorem exec_phase (f : Form) (s : State) : exec (.phase f) s = execPhase f s := rfl
theorem exec_wait (f : Form) (s : State) : exec (.wait f) s = execWait f s := rfl
theorem exec_waitt (f : Form) (s : State) : exec (.waitt f) s = execWaitt f s := rfl
theorem exec_sdrain (f : Form) (s : State) : exec (.sdrain f) s = execSdrain f s := rfl
theorem exec_frd (f : Form) (s : State) : exec (.frd f) s = execFrd f s := rfl
theorem exec_fwr (f : Form) (s : State) : exec (.fwr f) s = execFwr f s := rfl
theorem exec_finfo (f : Form) (s : State) : exec (.finfo f) s = execFinfo f s := rfl
theorem exec_iadd (f : Form) (s : State) : exec (.iadd f) s = execIadd f s := rfl
theorem exec_isub (f : Form) (s : State) : exec (.isub f) s = execIsub f s := rfl
theorem exec_imin (f : Form) (s : State) : exec (.imin f) s = execImin f s := rfl
theorem exec_imax (f : Form) (s : State) : exec (.imax f) s = execImax f s := rfl
theorem exec_iabs (f : Form) (s : State) : exec (.iabs f) s = execIabs f s := rfl
theorem exec_ineg (f : Form) (s : State) : exec (.ineg f) s = execIneg f s := rfl
theorem exec_isad (f : Form) (s : State) : exec (.isad f) s = execIsad f s := rfl
theorem exec_imul (f : Form) (s : State) : exec (.imul f) s = execImul f s := rfl
theorem exec_imulh (f : Form) (s : State) : exec (.imulh f) s = execImulh f s := rfl
theorem exec_imad (f : Form) (s : State) : exec (.imad f) s = execImad f s := rfl
theorem exec_idiv (f : Form) (s : State) : exec (.idiv f) s = execIdiv f s := rfl
theorem exec_irem (f : Form) (s : State) : exec (.irem f) s = execIrem f s := rfl
theorem exec_imulw (f : Form) (s : State) : exec (.imulw f) s = execImulw f s := rfl
theorem exec_and (f : Form) (s : State) : exec (.and f) s = execAnd f s := rfl
theorem exec_or (f : Form) (s : State) : exec (.or f) s = execOr f s := rfl
theorem exec_xor (f : Form) (s : State) : exec (.xor f) s = execXor f s := rfl
theorem exec_andn (f : Form) (s : State) : exec (.andn f) s = execAndn f s := rfl
theorem exec_not (f : Form) (s : State) : exec (.not f) s = execNot f s := rfl
theorem exec_blut (f : Form) (s : State) : exec (.blut f) s = execBlut f s := rfl
theorem exec_shl (f : Form) (s : State) : exec (.shl f) s = execShl f s := rfl
theorem exec_shr (f : Form) (s : State) : exec (.shr f) s = execShr f s := rfl
theorem exec_sar (f : Form) (s : State) : exec (.sar f) s = execSar f s := rfl
theorem exec_rotl (f : Form) (s : State) : exec (.rotl f) s = execRotl f s := rfl
theorem exec_rotr (f : Form) (s : State) : exec (.rotr f) s = execRotr f s := rfl
theorem exec_fshl (f : Form) (s : State) : exec (.fshl f) s = execFshl f s := rfl
theorem exec_fshr (f : Form) (s : State) : exec (.fshr f) s = execFshr f s := rfl
theorem exec_clz (f : Form) (s : State) : exec (.clz f) s = execClz f s := rfl
theorem exec_ctz (f : Form) (s : State) : exec (.ctz f) s = execCtz f s := rfl
theorem exec_popc (f : Form) (s : State) : exec (.popc f) s = execPopc f s := rfl
theorem exec_brev (f : Form) (s : State) : exec (.brev f) s = execBrev f s := rfl
theorem exec_bfe (f : Form) (s : State) : exec (.bfe f) s = execBfe f s := rfl
theorem exec_bfi (f : Form) (s : State) : exec (.bfi f) s = execBfi f s := rfl
theorem exec_bswz (f : Form) (s : State) : exec (.bswz f) s = execBswz f s := rfl
theorem exec_icmp (f : Form) (s : State) : exec (.icmp f) s = execIcmp f s := rfl
theorem exec_isel (f : Form) (s : State) : exec (.isel f) s = execIsel f s := rfl
theorem exec_pand (f : Form) (s : State) : exec (.pand f) s = execPand f s := rfl
theorem exec_por (f : Form) (s : State) : exec (.por f) s = execPor f s := rfl
theorem exec_pxor (f : Form) (s : State) : exec (.pxor f) s = execPxor f s := rfl
theorem exec_pnot (f : Form) (s : State) : exec (.pnot f) s = execPnot f s := rfl
theorem exec_pmov (f : Form) (s : State) : exec (.pmov f) s = execPmov f s := rfl
theorem exec_pchk (f : Form) (s : State) : exec (.pchk f) s = execPchk f s := rfl
theorem exec_mov (f : Form) (s : State) : exec (.mov f) s = execMov f s := rfl
theorem exec_movi (f : Form) (s : State) : exec (.movi f) s = execMovi f s := rfl
theorem exec_movk (f : Form) (s : State) : exec (.movk f) s = execMovk f s := rfl
theorem exec_lea (f : Form) (s : State) : exec (.lea f) s = execLea f s := rfl
theorem exec_cvti (f : Form) (s : State) : exec (.cvti f) s = execCvti f s := rfl
theorem exec_gpc (f : Form) (s : State) : exec (.gpc f) s = execGpc f s := rfl
theorem exec_fadd (f : Form) (s : State) : exec (.fadd f) s = execFadd f s := rfl
theorem exec_fsub (f : Form) (s : State) : exec (.fsub f) s = execFsub f s := rfl
theorem exec_fmul (f : Form) (s : State) : exec (.fmul f) s = execFmul f s := rfl
theorem exec_ffma (f : Form) (s : State) : exec (.ffma f) s = execFfma f s := rfl
theorem exec_fmin (f : Form) (s : State) : exec (.fmin f) s = execFmin f s := rfl
theorem exec_fmax (f : Form) (s : State) : exec (.fmax f) s = execFmax f s := rfl
theorem exec_fcmp (f : Form) (s : State) : exec (.fcmp f) s = execFcmp f s := rfl
theorem exec_fsel (f : Form) (s : State) : exec (.fsel f) s = execFsel f s := rfl
theorem exec_frcp (f : Form) (s : State) : exec (.frcp f) s = execFrcp f s := rfl
theorem exec_frsq (f : Form) (s : State) : exec (.frsq f) s = execFrsq f s := rfl
theorem exec_fsqrt (f : Form) (s : State) : exec (.fsqrt f) s = execFsqrt f s := rfl
theorem exec_fexp2 (f : Form) (s : State) : exec (.fexp2 f) s = execFexp2 f s := rfl
theorem exec_flog2 (f : Form) (s : State) : exec (.flog2 f) s = execFlog2 f s := rfl
theorem exec_fsin (f : Form) (s : State) : exec (.fsin f) s = execFsin f s := rfl
theorem exec_fcos (f : Form) (s : State) : exec (.fcos f) s = execFcos f s := rfl
theorem exec_ftanh (f : Form) (s : State) : exec (.ftanh f) s = execFtanh f s := rfl
theorem exec_cvtf (f : Form) (s : State) : exec (.cvtf f) s = execCvtf f s := rfl
theorem exec_cvtfi (f : Form) (s : State) : exec (.cvtfi f) s = execCvtfi f s := rfl
theorem exec_cvtif (f : Form) (s : State) : exec (.cvtif f) s = execCvtif f s := rfl
theorem exec_frnd (f : Form) (s : State) : exec (.frnd f) s = execFrnd f s := rfl
theorem exec_fclass (f : Form) (s : State) : exec (.fclass f) s = execFclass f s := rfl
theorem exec_fdiv (f : Form) (s : State) : exec (.fdiv f) s = execFdiv f s := rfl
theorem exec_hpadd (f : Form) (s : State) : exec (.hpadd f) s = execHpadd f s := rfl
theorem exec_hpmul (f : Form) (s : State) : exec (.hpmul f) s = execHpmul f s := rfl
theorem exec_hpfma (f : Form) (s : State) : exec (.hpfma f) s = execHpfma f s := rfl
theorem exec_bpadd (f : Form) (s : State) : exec (.bpadd f) s = execBpadd f s := rfl
theorem exec_bpmul (f : Form) (s : State) : exec (.bpmul f) s = execBpmul f s := rfl
theorem exec_bpfma (f : Form) (s : State) : exec (.bpfma f) s = execBpfma f s := rfl
theorem exec_hpmin (f : Form) (s : State) : exec (.hpmin f) s = execHpmin f s := rfl
theorem exec_hpmax (f : Form) (s : State) : exec (.hpmax f) s = execHpmax f s := rfl
theorem exec_qadd4 (f : Form) (s : State) : exec (.qadd4 f) s = execQadd4 f s := rfl
theorem exec_qmul4 (f : Form) (s : State) : exec (.qmul4 f) s = execQmul4 f s := rfl
theorem exec_qcvt (f : Form) (s : State) : exec (.qcvt f) s = execQcvt f s := rfl
theorem exec_dot4 (f : Form) (s : State) : exec (.dot4 f) s = execDot4 f s := rfl
theorem exec_dot8 (f : Form) (s : State) : exec (.dot8 f) s = execDot8 f s := rfl
theorem exec_pack (f : Form) (s : State) : exec (.pack f) s = execPack f s := rfl
theorem exec_unpack (f : Form) (s : State) : exec (.unpack f) s = execUnpack f s := rfl
theorem exec_lget (f : Form) (s : State) : exec (.lget f) s = execLget f s := rfl
theorem exec_lrot (f : Form) (s : State) : exec (.lrot f) s = execLrot f s := rfl
theorem exec_lslide (f : Form) (s : State) : exec (.lslide f) s = execLslide f s := rfl
theorem exec_lswap (f : Form) (s : State) : exec (.lswap f) s = execLswap f s := rfl
theorem exec_lmask (f : Form) (s : State) : exec (.lmask f) s = execLmask f s := rfl
theorem exec_quorum (f : Form) (s : State) : exec (.quorum f) s = execQuorum f s := rfl
theorem exec_lcomb (f : Form) (s : State) : exec (.lcomb f) s = execLcomb f s := rfl
theorem exec_ldup (f : Form) (s : State) : exec (.ldup f) s = execLdup f s := rfl
theorem exec_ld (f : Form) (s : State) : exec (.ld f) s = execLd f s := rfl
theorem exec_ldb (f : Form) (s : State) : exec (.ldb f) s = execLdb f s := rfl
theorem exec_lds (f : Form) (s : State) : exec (.lds f) s = execLds f s := rfl
theorem exec_ldr (f : Form) (s : State) : exec (.ldr f) s = execLdr f s := rfl
theorem exec_ldk (f : Form) (s : State) : exec (.ldk f) s = execLdk f s := rfl
theorem exec_st (f : Form) (s : State) : exec (.st f) s = execSt f s := rfl
theorem exec_stb (f : Form) (s : State) : exec (.stb f) s = execStb f s := rfl
theorem exec_sts (f : Form) (s : State) : exec (.sts f) s = execSts f s := rfl
theorem exec_str (f : Form) (s : State) : exec (.str f) s = execStr f s := rfl
theorem exec_atom (f : Form) (s : State) : exec (.atom f) s = execAtom f s := rfl
theorem exec_acas (f : Form) (s : State) : exec (.acas f) s = execAcas f s := rfl
theorem exec_afadd (f : Form) (s : State) : exec (.afadd f) s = execAfadd f s := rfl
theorem exec_atoms (f : Form) (s : State) : exec (.atoms f) s = execAtoms f s := rfl
theorem exec_acass (f : Form) (s : State) : exec (.acass f) s = execAcass f s := rfl
theorem exec_red (f : Form) (s : State) : exec (.red f) s = execRed f s := rfl
theorem exec_cpa (f : Form) (s : State) : exec (.cpa f) s = execCpa f s := rfl
theorem exec_rgnset (f : Form) (s : State) : exec (.rgnset f) s = execRgnset f s := rfl
theorem exec_rgnclr (f : Form) (s : State) : exec (.rgnclr f) s = execRgnclr f s := rfl
theorem exec_rgnfl (f : Form) (s : State) : exec (.rgnfl f) s = execRgnfl f s := rfl
theorem exec_chkw (f : Form) (s : State) : exec (.chkw f) s = execChkw f s := rfl
theorem exec_chkt (f : Form) (s : State) : exec (.chkt f) s = execChkt f s := rfl
theorem exec_tset (f : Form) (s : State) : exec (.tset f) s = execTset f s := rfl
theorem exec_tget (f : Form) (s : State) : exec (.tget f) s = execTget f s := rfl
theorem exec_pbar (f : Form) (s : State) : exec (.pbar f) s = execPbar f s := rfl
theorem exec_tcfg (f : Form) (s : State) : exec (.tcfg f) s = execTcfg f s := rfl
theorem exec_tld (f : Form) (s : State) : exec (.tld f) s = execTld f s := rfl
theorem exec_tst (f : Form) (s : State) : exec (.tst f) s = execTst f s := rfl
theorem exec_tzero (f : Form) (s : State) : exec (.tzero f) s = execTzero f s := rfl
theorem exec_mma (f : Form) (s : State) : exec (.mma f) s = execMma f s := rfl
theorem exec_mmas (f : Form) (s : State) : exec (.mmas f) s = execMmas f s := rfl
theorem exec_mtrn (f : Form) (s : State) : exec (.mtrn f) s = execMtrn f s := rfl
theorem exec_tmov (f : Form) (s : State) : exec (.tmov f) s = execTmov f s := rfl
theorem exec_unite (f : Form) (s : State) : exec (.unite f) s = execUnite f s := rfl
theorem exec_find (f : Form) (s : State) : exec (.find f) s = execFind f s := rfl
theorem exec_dsize (f : Form) (s : State) : exec (.dsize f) s = execDsize f s := rfl
theorem exec_relabel (f : Form) (s : State) : exec (.relabel f) s = execRelabel f s := rfl
theorem exec_dsnap (f : Form) (s : State) : exec (.dsnap f) s = execDsnap f s := rfl
theorem exec_dundo (f : Form) (s : State) : exec (.dundo f) s = execDundo f s := rfl
theorem exec_dinit (f : Form) (s : State) : exec (.dinit f) s = execDinit f s := rfl
theorem exec_trial (f : Form) (s : State) : exec (.trial f) s = execTrial f s := rfl
theorem exec_tret (f : Form) (s : State) : exec (.tret f) s = execTret f s := rfl
theorem exec_xld (f : Form) (s : State) : exec (.xld f) s = execXld f s := rfl
theorem exec_sigins (f : Form) (s : State) : exec (.sigins f) s = execSigins f s := rfl
theorem exec_sigclr (f : Form) (s : State) : exec (.sigclr f) s = execSigclr f s := rfl
theorem exec_rng (f : Form) (s : State) : exec (.rng f) s = execRng f s := rfl
theorem exec_fold (f : Form) (s : State) : exec (.fold f) s = execFold f s := rfl
theorem exec_mreqCreate (addr : Nat) (s : State) : exec (.mreqCreate addr) s = execMreqCreate addr s := rfl
theorem exec_mreqDestroy (addr : Nat) (s : State) : exec (.mreqDestroy addr) s = execMreqDestroy addr s := rfl
theorem exec_schedStep (die : Nat) (s : State) : exec (.schedStep die) s = execSchedStep die s := rfl
theorem exec_preemptSave (gang examples : Nat) (s : State) : exec (.preemptSave gang examples) s = execPreemptSave gang examples s := rfl
theorem exec_resumeRestore (gang : Nat) (s : State) : exec (.resumeRestore gang) s = execResumeRestore gang s := rfl
theorem exec_drainDone (gang : Nat) (s : State) : exec (.drainDone gang) s = execDrainDone gang s := rfl
theorem exec_phasePublish (core lines : Nat) (s : State) : exec (.phasePublish core lines) s = execPhasePublish core lines s := rfl
theorem exec_phaseMessage (msg : Nat) (s : State) : exec (.phaseMessage msg) s = execPhaseMessage msg s := rfl
theorem exec_domainFloorMessage (dev compl dgroup : Nat) (queued : Bool) (floor : Option (BitVec 32)) (s : State) : exec (.domainFloorMessage dev compl dgroup queued floor) s = execDomainFloorMessage dev compl dgroup queued floor s := rfl
theorem exec_spargeQuiescence (core : Nat) (s : State) : exec (.spargeQuiescence core) s = execSpargeQuiescence core s := rfl
theorem exec_spargeStarvation (core : Nat) (s : State) : exec (.spargeStarvation core) s = execSpargeStarvation core s := rfl
theorem exec_trapEntry (core slot : Nat) (s : State) : exec (.trapEntry core slot) s = execTrapEntry core slot s := rfl
theorem exec_gbarArrival (msg : Nat) (s : State) : exec (.gbarArrival msg) s = execGbarArrival msg s := rfl
theorem exec_storeCheck (core : Nat) (s : State) : exec (.storeCheck core) s = execStoreCheck core s := rfl
theorem exec_storeFaultDeliver (core slot : Nat) (s : State) : exec (.storeFaultDeliver core slot) s = execStoreFaultDeliver core slot s := rfl
theorem exec_varlatComplete (core op : Nat) (lanes : BitVec 32) (regs : BitVec 4) (land : Bool) (s : State) : exec (.varlatComplete core op lanes regs land) s = execVarlatComplete core op lanes regs land s := rfl
theorem exec_pageWalkDone (walk : Nat) (s : State) : exec (.pageWalkDone walk) s = execPageWalkDone walk s := rfl
theorem exec_ansReplay (die walk : Nat) (s : State) : exec (.ansReplay die walk) s = execAnsReplay die walk s := rfl
theorem exec_ansRefuse (die walk : Nat) (s : State) : exec (.ansRefuse die walk) s = execAnsRefuse die walk s := rfl
theorem exec_tileJobDone (core job : Nat) (bad : List Nat) (s : State) : exec (.tileJobDone core job bad) s = execTileJobDone core job bad s := rfl
theorem exec_cpaCopyDone (core op : Nat) (lanes : BitVec 32) (s : State) : exec (.cpaCopyDone core op lanes) s = execCpaCopyDone core op lanes s := rfl
theorem exec_chunkArrive (core region chunk : Nat) (s : State) : exec (.chunkArrive core region chunk) s = execChunkArrive core region chunk s := rfl
theorem exec_copyoutAck (core region : Nat) (s : State) : exec (.copyoutAck core region) s = execCopyoutAck core region s := rfl
theorem exec_relabelDone (core job : Nat) (s : State) : exec (.relabelDone core job) s = execRelabelDone core job s := rfl
theorem exec_strArrive (msg : Nat) (s : State) : exec (.strArrive msg) s = execStrArrive msg s := rfl
theorem exec_ldrArrive (core op : Nat) (lanes : BitVec 32) (s : State) : exec (.ldrArrive core op lanes) s = execLdrArrive core op lanes s := rfl
theorem exec_waitwRetest (core slot lane : Nat) (s : State) : exec (.waitwRetest core slot lane) s = execWaitwRetest core slot lane s := rfl
theorem exec_sleepExpire (core slot : Nat) (s : State) : exec (.sleepExpire core slot) s = execSleepExpire core slot s := rfl
theorem exec_ageExpire (core slot : Nat) (s : State) : exec (.ageExpire core slot) s = execAgeExpire core slot s := rfl
theorem exec_nopreExpire (core slot : Nat) (s : State) : exec (.nopreExpire core slot) s = execNopreExpire core slot s := rfl
theorem exec_trialComplete (core slot : Nat) (bad : List (Nat × Nat × Nat)) (s : State) : exec (.trialComplete core slot bad) s = execTrialComplete core slot bad s := rfl
theorem exec_trialAbandon (core slot : Nat) (s : State) : exec (.trialAbandon core slot) s = execTrialAbandon core slot s := rfl
theorem exec_scrubPassStart (cls unit : Nat) (s : State) : exec (.scrubPassStart cls unit) s = execScrubPassStart cls unit s := rfl
theorem exec_kilnScrubRead (cls unit addr : Nat) (err : BitVec 2) (s : State) : exec (.kilnScrubRead cls unit addr err) s = execKilnScrubRead cls unit addr err s := rfl
theorem exec_bucketDrainTick (cls unit : Nat) (s : State) : exec (.bucketDrainTick cls unit) s = execBucketDrainTick cls unit s := rfl
theorem exec_bucketWindowClose (cls unit : Nat) (s : State) : exec (.bucketWindowClose cls unit) s = execBucketWindowClose cls unit s := rfl
theorem exec_remap (cls unit row : Nat) (s : State) : exec (.remap cls unit row) s = execRemap cls unit row s := rfl
theorem exec_containmentScan (upsets : List (Nat × Nat × Nat × Nat)) (s : State) : exec (.containmentScan upsets) s = execContainmentScan upsets s := rfl
theorem exec_fieldTestDue (die cluster : Nat) (s : State) : exec (.fieldTestDue die cluster) s = execFieldTestDue die cluster s := rfl
theorem exec_fieldTest (die cluster : Nat) (s : State) : exec (.fieldTest die cluster) s = execFieldTest die cluster s := rfl
theorem exec_fieldTestEnd (die cluster : Nat) (failing : List (Nat × Nat × Nat)) (s : State) : exec (.fieldTestEnd die cluster failing) s = execFieldTestEnd die cluster failing s := rfl
theorem exec_powerLossFlush (keep : Nat) (s : State) : exec (.powerLossFlush keep) s = execPowerLossFlush keep s := rfl
theorem exec_clockAdjust (pnow tj : Nat) (s : State) : exec (.clockAdjust pnow tj) s = execClockAdjust pnow tj s := rfl
theorem exec_remoteTimeout (req : Nat) (s : State) : exec (.remoteTimeout req) s = execRemoteTimeout req s := rfl
theorem exec_boot (dev : BitVec 20) (s : State) : exec (.boot dev) s = execBoot dev s := rfl
theorem exec_wakeZero (core : Nat) (s : State) : exec (.wakeZero core) s = execWakeZero core s := rfl
theorem exec_invRequest (ctl : BitVec 32) (s : State) : exec (.invRequest ctl) s = execInvRequest ctl s := rfl
theorem exec_invDone (s : State) : exec (.invDone) s = execInvDone s := rfl
theorem exec_hfqBaseWrite (die : Nat) (val : BitVec 64) (s : State) : exec (.hfqBaseWrite die val) s = execHfqBaseWrite die val s := rfl
theorem exec_statusRead (s : State) : exec (.statusRead) s = execStatusRead s := rfl
theorem exec_ctrlPageWrite (off : Nat) (val : BitVec 64) (s : State) : exec (.ctrlPageWrite off val) s = execCtrlPageWrite off val s := rfl
theorem exec_bar2Read (off n : Nat) (s : State) : exec (.bar2Read off n) s = execBar2Read off n s := rfl
theorem exec_bar2Write (off : Nat) (bytes : List Byte) (s : State) : exec (.bar2Write off bytes) s = execBar2Write off bytes s := rfl
theorem exec_tagViewRead (off : Nat) (s : State) : exec (.tagViewRead off) s = execTagViewRead off s := rfl
theorem exec_tagViewWrite (off : Nat) (val : Byte) (s : State) : exec (.tagViewWrite off val) s = execTagViewWrite off val s := rfl
theorem exec_getVersion (s : State) : exec (.getVersion) s = execGetVersion s := rfl
theorem exec_getCapabilities (s : State) : exec (.getCapabilities) s = execGetCapabilities s := rfl
theorem exec_negotiateAlgorithms (s : State) : exec (.negotiateAlgorithms) s = execNegotiateAlgorithms s := rfl
theorem exec_getDigests (s : State) : exec (.getDigests) s = execGetDigests s := rfl
theorem exec_getCertificate (s : State) : exec (.getCertificate) s = execGetCertificate s := rfl
theorem exec_challenge (nonce : Nat) (s : State) : exec (.challenge nonce) s = execChallenge nonce s := rfl
theorem exec_getMeasurements (nonce : Nat) (s : State) : exec (.getMeasurements nonce) s = execGetMeasurements nonce s := rfl
theorem exec_nonInstruction (w0 : BitVec 32) (s : State) : exec (.nonInstruction w0) s = execNonInstruction w0 s := rfl
theorem exec_fetchFault (cause : BitVec 8) (addr : BitVec 64) (s : State) : exec (.fetchFault cause addr) s = execFetchFault cause addr s := rfl
theorem exec_emptyRound (s : State) : exec (.emptyRound) s = execEmptyRound s := rfl
theorem exec_hfqConsWrite (die : Nat) (val : BitVec 32) (s : State) : exec (.hfqConsWrite die val) s = execHfqConsWrite die val s := rfl
theorem exec_msixUnmask (vector : Nat) (s : State) : exec (.msixUnmask vector) s = execMsixUnmask vector s := rfl
theorem exec_linkRetraining (s : State) : exec (.linkRetraining) s = execLinkRetraining s := rfl
theorem exec_fabricPortLoss (port : Nat) (s : State) : exec (.fabricPortLoss port) s = execFabricPortLoss port s := rfl
theorem exec_remoteAccessArrive (pa : Nat) (write : Option (List Byte)) (n : Nat) (atom : Option (Nat × BitVec 4 × BitVec 64 × BitVec 64)) (s : State) : exec (.remoteAccessArrive pa write n atom) s = execRemoteAccessArrive pa write n atom s := rfl

end Sys2Proof.Machine
end

