-- ==== Sys2Proof/Laws/Map.lean ====
section
/-! SUPPORT. The laws of the two map forms: a read after a write, and that a write keeps the canonical form. -/

namespace Sys2Proof.Machine

variable {α : Type}

/-! ### Sparse maps -/

@[simp] theorem sget_nil (d : α) (k : Nat) : sget d [] k = d := rfl

theorem sget_sput_same (d : α) (m : SMap α) (k : Nat) (x : α) : sget d (sput m k x) k = x := by
  induction m with
  | nil => simp [sput, sget]
  | cons p t ih =>
    obtain ⟨a, v⟩ := p
    unfold sput
    split_ifs with h1 h2
    · simp [sget]
    · simp [sget]
    · simp [sget, h1, h2, ih]

theorem sget_sput_ne (d : α) (m : SMap α) (k j : Nat) (x : α) (h : j ≠ k) : sget d (sput m k x) j = sget d m j := by
  induction m with
  | nil => simp [sput, sget]; omega
  | cons p t ih =>
    obtain ⟨a, v⟩ := p
    unfold sput
    split_ifs with h1 h2
    · subst h1; simp only [sget, if_neg (Ne.symm h)]
    · simp only [sget, if_neg (Ne.symm h)]
      by_cases hj : j < k
      · rw [if_pos hj, if_neg (by omega), if_pos (by omega)]
      · rw [if_neg hj]
    · simp only [sget, ih]

variable [DecidableEq α]

theorem swfFrom_cons (d : α) (lo a : Nat) (v : α) (t : SMap α) :
    swfFrom d lo ((a, v) :: t) = true ↔ lo ≤ a ∧ v ≠ d ∧ swfFrom d (a + 1) t = true := by
  simp [swfFrom, and_assoc]

theorem swfFrom_mono {d : α} {lo hi : Nat} {m : SMap α} (h : lo ≤ hi) (w : swfFrom d hi m = true) : swfFrom d lo m = true := by
  cases m with
  | nil => rfl
  | cons p t =>
    obtain ⟨a, v⟩ := p
    rw [swfFrom_cons] at *
    exact ⟨by omega, w.2⟩

/-- A key below every listed one reads the default. -/
theorem sget_below {d : α} {lo k : Nat} {m : SMap α} (w : swfFrom d lo m = true) (h : k < lo) : sget d m k = d := by
  cases m with
  | nil => rfl
  | cons p t =>
    obtain ⟨a, v⟩ := p
    rw [swfFrom_cons] at w
    have h1 : ¬a = k := by omega
    have h2 : k < a := by omega
    simp [sget, h1, h2]

theorem swfFrom_sput {d : α} {lo k : Nat} {m : SMap α} {x : α} (w : swfFrom d lo m = true) (h : lo ≤ k) (hx : x ≠ d) :
    swfFrom d lo (sput m k x) = true := by
  induction m generalizing lo with
  | nil => simp [sput, swfFrom, h, hx]
  | cons p t ih =>
    obtain ⟨a, v⟩ := p
    rw [swfFrom_cons] at w
    unfold sput
    split_ifs with h1 h2
    · subst h1; rw [swfFrom_cons]; exact ⟨h, hx, w.2.2⟩
    · rw [swfFrom_cons, swfFrom_cons]; exact ⟨h, hx, by omega, w.2.1, w.2.2⟩
    · rw [swfFrom_cons]; exact ⟨w.1, w.2.1, ih w.2.2 (by omega)⟩

theorem swfFrom_serase {d : α} {lo k : Nat} {m : SMap α} (w : swfFrom d lo m = true) : swfFrom d lo (serase m k) = true := by
  induction m generalizing lo with
  | nil => rfl
  | cons p t ih =>
    obtain ⟨a, v⟩ := p
    have w' := w
    rw [swfFrom_cons] at w
    unfold serase
    split_ifs with h1 h2
    · exact swfFrom_mono (by omega) w.2.2
    · exact w'
    · rw [swfFrom_cons]; exact ⟨w.1, w.2.1, ih w.2.2⟩

theorem sget_serase_same {d : α} {lo k : Nat} {m : SMap α} (w : swfFrom d lo m = true) : sget d (serase m k) k = d := by
  induction m generalizing lo with
  | nil => rfl
  | cons p t ih =>
    obtain ⟨a, v⟩ := p
    rw [swfFrom_cons] at w
    unfold serase
    split_ifs with h1 h2
    · exact sget_below w.2.2 (by omega)
    · simp [sget, h1, h2]
    · simp [sget, h1, h2, ih w.2.2]

theorem sget_serase_ne {d : α} {lo k j : Nat} {m : SMap α} (w : swfFrom d lo m = true) (h : j ≠ k) :
    sget d (serase m k) j = sget d m j := by
  induction m generalizing lo with
  | nil => rfl
  | cons p t ih =>
    obtain ⟨a, v⟩ := p
    rw [swfFrom_cons] at w
    unfold serase
    split_ifs with h1 h2
    · subst h1
      simp only [sget, if_neg (Ne.symm h)]
      split_ifs with hj
      · exact sget_below w.2.2 (by omega)
      · rfl
    · rfl
    · simp only [sget, ih w.2.2]

/-- A key reads what was written there. -/
theorem sget_sset_same {d : α} {m : SMap α} (w : swf d m = true) (k : Nat) (x : α) : sget d (sset d m k x) k = x := by
  unfold sset
  split_ifs with h
  · subst h; exact sget_serase_same w
  · exact sget_sput_same d m k x

/-- A write leaves every other key alone. -/
theorem sget_sset_ne {d : α} {m : SMap α} (w : swf d m = true) {k j : Nat} (h : j ≠ k) (x : α) :
    sget d (sset d m k x) j = sget d m j := by
  unfold sset
  split_ifs
  · exact sget_serase_ne w h
  · exact sget_sput_ne d m k j x h

theorem sget_sset {d : α} {m : SMap α} (w : swf d m = true) (k j : Nat) (x : α) :
    sget d (sset d m k x) j = if j = k then x else sget d m j := by
  split_ifs with h
  · subst h; exact sget_sset_same w j x
  · exact sget_sset_ne w h x

/-- A write keeps the canonical form. -/
theorem swf_sset {d : α} {m : SMap α} (w : swf d m = true) (k : Nat) (x : α) : swf d (sset d m k x) = true := by
  unfold sset
  split_ifs with h
  · exact swfFrom_serase w
  · exact swfFrom_sput w (Nat.zero_le _) h

@[simp] theorem swf_nil (d : α) : swf d ([] : SMap α) = true := rfl

/-- Any number of writes keep the canonical form. -/
theorem swf_foldl {β : Type} {d : α} (f : SMap α → β → SMap α) (hf : ∀ m b, swf d m = true → swf d (f m b) = true) (l : List β)
    {m : SMap α} (w : swf d m = true) : swf d (l.foldl f m) = true := by
  induction l generalizing m with
  | nil => exact w
  | cons b t ih => exact ih (hf m b w)

theorem swfFrom_filter {d : α} {lo : Nat} {m : SMap α} (p : Nat × α → Bool) (w : swfFrom d lo m = true) :
    swfFrom d lo (m.filter p) = true := by
  induction m generalizing lo with
  | nil => rfl
  | cons q t ih =>
    obtain ⟨a, v⟩ := q
    rw [swfFrom_cons] at w
    rw [List.filter_cons]
    split_ifs
    · rw [swfFrom_cons]; exact ⟨w.1, w.2.1, ih w.2.2⟩
    · exact swfFrom_mono (by omega) (ih w.2.2)

omit [DecidableEq α]

/-! ### Lists by key -/

theorem aget_aput_same (l : List (Nat × α)) (k : Nat) (x : α) : aget (aput l k x) k = some x := by
  induction l with
  | nil => simp [aput, aget]
  | cons p t ih =>
    obtain ⟨a, v⟩ := p
    unfold aput
    split_ifs with h1 h2
    · simp [aget]
    · simp [aget]
    · simp [aget, h1, ih]

theorem aget_aput_ne (l : List (Nat × α)) {k j : Nat} (h : j ≠ k) (x : α) : aget (aput l k x) j = aget l j := by
  induction l with
  | nil => simp [aput, aget]; omega
  | cons p t ih =>
    obtain ⟨a, v⟩ := p
    unfold aput
    split_ifs with h1 h2
    · subst h1; simp [aget, Ne.symm h]
    · simp [aget, Ne.symm h]
    · simp [aget, ih]

theorem aget_amod_same {l : List (Nat × α)} {k : Nat} {v : α} (h : aget l k = some v) (f : α → α) :
    aget (amod l k f) k = some (f v) := by
  simp [amod, h, aget_aput_same]

theorem aget_amod_ne (l : List (Nat × α)) {k j : Nat} (h : j ≠ k) (f : α → α) : aget (amod l k f) j = aget l j := by
  unfold amod
  split
  · exact aget_aput_ne l h _
  · rfl

theorem amod_none {l : List (Nat × α)} {k : Nat} (h : aget l k = none) (f : α → α) : amod l k f = l := by
  simp [amod, h]

theorem aput_aput_same (l : List (Nat × α)) (k : Nat) (x y : α) : aput (aput l k x) k y = aput l k y := by
  induction l with
  | nil => simp [aput]
  | cons p t ih =>
    obtain ⟨a, v⟩ := p
    by_cases h1 : a = k
    · simp [aput, h1]
    · by_cases h2 : k < a
      · simp [aput, h1, h2]
      · simp [aput, h1, h2, ih]

theorem amod_aput_same (l : List (Nat × α)) (k : Nat) (x : α) (f : α → α) : amod (aput l k x) k f = aput l k (f x) := by
  simp [amod, aget_aput_same, aput_aput_same]

theorem amod_eq_aput {l : List (Nat × α)} {k : Nat} {v : α} (h : aget l k = some v) (f : α → α) : amod l k f = aput l k (f v) := by
  simp [amod, h]

theorem amod_amod_same (l : List (Nat × α)) (k : Nat) (f g : α → α) : amod (amod l k f) k g = amod l k (g ∘ f) := by
  cases h : aget l k with
  | none => simp [amod_none h]
  | some v => rw [amod_eq_aput h, amod_aput_same, amod_eq_aput h]; rfl

/-! ### Bytes -/

/-- Bytes written keep memory canonical. -/
theorem wf_writeBytes {m : SMap Byte} (w : Memory.wf m = true) (a : Nat) (l : List Byte) : Memory.wf (writeBytes m a l) = true := by
  induction l generalizing m a with
  | nil => exact w
  | cons b t ih => exact ih (swf_sset w a b) (a + 1)

/-- A byte read after bytes are written: one of them, or what stood there. -/
theorem sget_writeBytes {m : SMap Byte} (w : Memory.wf m = true) (a : Nat) (l : List Byte) (j : Nat) :
    sget 0 (writeBytes m a l) j = if a ≤ j ∧ j < a + l.length then l.getD (j - a) 0 else sget 0 m j := by
  induction l generalizing m a with
  | nil => simp only [writeBytes, List.length_nil]; rw [if_neg (by omega)]
  | cons b t ih =>
    simp only [writeBytes, List.length_cons]
    rw [ih (swf_sset w a b) (a + 1), sget_sset w]
    by_cases h : j = a
    · subst h; rw [if_neg (by omega), if_pos rfl, if_pos (by omega)]; simp
    · by_cases h2 : a + 1 ≤ j ∧ j < a + 1 + t.length
      · rw [if_pos h2, if_pos (by omega)]
        have : j - a = (j - (a + 1)) + 1 := by omega
        rw [this]; simp
      · rw [if_neg h2, if_neg h, if_neg (by omega)]

@[simp] theorem length_readBytes (m : SMap Byte) (a n : Nat) : (readBytes m a n).length = n := by
  induction n generalizing a with
  | zero => rfl
  | succ n ih => simp [readBytes, ih]

theorem getD_readBytes (m : SMap Byte) (a n i : Nat) (h : i < n) : (readBytes m a n).getD i 0 = sget 0 m (a + i) := by
  induction n generalizing a i with
  | zero => omega
  | succ n ih =>
    cases i with
    | zero => simp [readBytes]
    | succ i => simp only [readBytes, List.getD_cons_succ]; rw [ih (a + 1) i (by omega)]; congr 1; omega

end Sys2Proof.Machine
end

