-- ==== Sys2Proof/Laws/State.lean ====
section
/-! SUPPORT. What the named updates of a state, a strand and a lane leave of every field: no later proof unfolds an update. -/

namespace Sys2Proof.Machine

/-! ### `setCore` -/

@[simp] theorem setCore_mem (s : State) (c : Nat) (x : Core) : (setCore s c x).mem = s.mem := rfl
@[simp] theorem setCore_tags (s : State) (c : Nat) (x : Core) : (setCore s c x).tags = s.tags := rfl
@[simp] theorem setCore_gpois (s : State) (c : Nat) (x : Core) : (setCore s c x).gpois = s.gpois := rfl
@[simp] theorem setCore_nvLog (s : State) (c : Nat) (x : Core) : (setCore s c x).nvLog = s.nvLog := rfl
@[simp] theorem setCore_l2 (s : State) (c : Nat) (x : Core) : (setCore s c x).l2 = s.l2 := rfl
@[simp] theorem setCore_behind (s : State) (c : Nat) (x : Core) : (setCore s c x).behind = s.behind := rfl
@[simp] theorem setCore_tlbs (s : State) (c : Nat) (x : Core) : (setCore s c x).tlbs = s.tlbs := rfl
@[simp] theorem setCore_l1 (s : State) (c : Nat) (x : Core) : (setCore s c x).l1 = s.l1 := rfl
@[simp] theorem setCore_walks (s : State) (c : Nat) (x : Core) : (setCore s c x).walks = s.walks := rfl
@[simp] theorem setCore_ctxs (s : State) (c : Nat) (x : Core) : (setCore s c x).ctxs = s.ctxs := rfl
@[simp] theorem setCore_queues (s : State) (c : Nat) (x : Core) : (setCore s c x).queues = s.queues := rfl
@[simp] theorem setCore_gangs (s : State) (c : Nat) (x : Core) : (setCore s c x).gangs = s.gangs := rfl
@[simp] theorem setCore_segs (s : State) (c : Nat) (x : Core) : (setCore s c x).segs = s.segs := rfl
@[simp] theorem setCore_ctl (s : State) (c : Nat) (x : Core) : (setCore s c x).ctl = s.ctl := rfl
@[simp] theorem setCore_cont (s : State) (c : Nat) (x : Core) : (setCore s c x).cont = s.cont := rfl
@[simp] theorem setCore_mreqs (s : State) (c : Nat) (x : Core) : (setCore s c x).mreqs = s.mreqs := rfl
@[simp] theorem setCore_masked (s : State) (c : Nat) (x : Core) : (setCore s c x).masked = s.masked := rfl
@[simp] theorem setCore_pendMsix (s : State) (c : Nat) (x : Core) : (setCore s c x).pendMsix = s.pendMsix := rfl
@[simp] theorem setCore_mgmt (s : State) (c : Nat) (x : Core) : (setCore s c x).mgmt = s.mgmt := rfl
@[simp] theorem setCore_lost (s : State) (c : Nat) (x : Core) : (setCore s c x).lost = s.lost := rfl
@[simp] theorem setCore_buckets (s : State) (c : Nat) (x : Core) : (setCore s c x).buckets = s.buckets := rfl
@[simp] theorem setCore_bcfg (s : State) (c : Nat) (x : Core) : (setCore s c x).bcfg = s.bcfg := rfl
@[simp] theorem setCore_withdrawn (s : State) (c : Nat) (x : Core) : (setCore s c x).withdrawn = s.withdrawn := rfl
@[simp] theorem setCore_spares (s : State) (c : Nat) (x : Core) : (setCore s c x).spares = s.spares := rfl
@[simp] theorem setCore_kiln (s : State) (c : Nat) (x : Core) : (setCore s c x).kiln = s.kiln := rfl
@[simp] theorem setCore_scrubHours (s : State) (c : Nat) (x : Core) : (setCore s c x).scrubHours = s.scrubHours := rfl
@[simp] theorem setCore_ftest (s : State) (c : Nat) (x : Core) : (setCore s c x).ftest = s.ftest := rfl
@[simp] theorem setCore_testHours (s : State) (c : Nat) (x : Core) : (setCore s c x).testHours = s.testHours := rfl
@[simp] theorem setCore_tested (s : State) (c : Nat) (x : Core) : (setCore s c x).tested = s.tested := rfl
@[simp] theorem setCore_testSoon (s : State) (c : Nat) (x : Core) : (setCore s c x).testSoon = s.testSoon := rfl
@[simp] theorem setCore_clock (s : State) (c : Nat) (x : Core) : (setCore s c x).clock = s.clock := rfl
@[simp] theorem setCore_dev (s : State) (c : Nat) (x : Core) : (setCore s c x).dev = s.dev := rfl
@[simp] theorem setCore_cap0 (s : State) (c : Nat) (x : Core) : (setCore s c x).cap0 = s.cap0 := rfl
@[simp] theorem setCore_cap1 (s : State) (c : Nat) (x : Core) : (setCore s c x).cap1 = s.cap1 := rfl
@[simp] theorem setCore_mhz (s : State) (c : Nat) (x : Core) : (setCore s c x).mhz = s.mhz := rfl
@[simp] theorem setCore_ports (s : State) (c : Nat) (x : Core) : (setCore s c x).ports = s.ports := rfl
@[simp] theorem setCore_dbg (s : State) (c : Nat) (x : Core) : (setCore s c x).dbg = s.dbg := rfl
@[simp] theorem setCore_power (s : State) (c : Nat) (x : Core) : (setCore s c x).power = s.power := rfl
@[simp] theorem setCore_msgs (s : State) (c : Nat) (x : Core) : (setCore s c x).msgs = s.msgs := rfl
@[simp] theorem setCore_floors (s : State) (c : Nat) (x : Core) : (setCore s c x).floors = s.floors := rfl
@[simp] theorem setCore_remote (s : State) (c : Nat) (x : Core) : (setCore s c x).remote = s.remote := rfl
@[simp] theorem setCore_rr (s : State) (c : Nat) (x : Core) : (setCore s c x).rr = s.rr := rfl
@[simp] theorem setCore_want (s : State) (c : Nat) (x : Core) : (setCore s c x).want = s.want := rfl
@[simp] theorem setCore_agenda (s : State) (c : Nat) (x : Core) : (setCore s c x).agenda = s.agenda := rfl
@[simp] theorem setCore_cur (s : State) (c : Nat) (x : Core) : (setCore s c x).cur = s.cur := rfl
@[simp] theorem setCore_turn (s : State) (c : Nat) (x : Core) : (setCore s c x).turn = s.turn := rfl
@[simp] theorem setCore_nextId (s : State) (c : Nat) (x : Core) : (setCore s c x).nextId = s.nextId := rfl
@[simp] theorem setCore_freeCnt (s : State) (c : Nat) (x : Core) : (setCore s c x).freeCnt = s.freeCnt := rfl
@[simp] theorem setCore_hostOut (s : State) (c : Nat) (x : Core) : (setCore s c x).hostOut = s.hostOut := rfl
@[simp] theorem setCore_log (s : State) (c : Nat) (x : Core) : (setCore s c x).log = s.log := rfl

/-! ### `modCore` -/

@[simp] theorem modCore_mem (s : State) (c : Nat) (f : Core → Core) : (modCore s c f).mem = s.mem := rfl
@[simp] theorem modCore_tags (s : State) (c : Nat) (f : Core → Core) : (modCore s c f).tags = s.tags := rfl
@[simp] theorem modCore_gpois (s : State) (c : Nat) (f : Core → Core) : (modCore s c f).gpois = s.gpois := rfl
@[simp] theorem modCore_nvLog (s : State) (c : Nat) (f : Core → Core) : (modCore s c f).nvLog = s.nvLog := rfl
@[simp] theorem modCore_l2 (s : State) (c : Nat) (f : Core → Core) : (modCore s c f).l2 = s.l2 := rfl
@[simp] theorem modCore_behind (s : State) (c : Nat) (f : Core → Core) : (modCore s c f).behind = s.behind := rfl
@[simp] theorem modCore_tlbs (s : State) (c : Nat) (f : Core → Core) : (modCore s c f).tlbs = s.tlbs := rfl
@[simp] theorem modCore_l1 (s : State) (c : Nat) (f : Core → Core) : (modCore s c f).l1 = s.l1 := rfl
@[simp] theorem modCore_walks (s : State) (c : Nat) (f : Core → Core) : (modCore s c f).walks = s.walks := rfl
@[simp] theorem modCore_ctxs (s : State) (c : Nat) (f : Core → Core) : (modCore s c f).ctxs = s.ctxs := rfl
@[simp] theorem modCore_queues (s : State) (c : Nat) (f : Core → Core) : (modCore s c f).queues = s.queues := rfl
@[simp] theorem modCore_gangs (s : State) (c : Nat) (f : Core → Core) : (modCore s c f).gangs = s.gangs := rfl
@[simp] theorem modCore_segs (s : State) (c : Nat) (f : Core → Core) : (modCore s c f).segs = s.segs := rfl
@[simp] theorem modCore_ctl (s : State) (c : Nat) (f : Core → Core) : (modCore s c f).ctl = s.ctl := rfl
@[simp] theorem modCore_cont (s : State) (c : Nat) (f : Core → Core) : (modCore s c f).cont = s.cont := rfl
@[simp] theorem modCore_mreqs (s : State) (c : Nat) (f : Core → Core) : (modCore s c f).mreqs = s.mreqs := rfl
@[simp] theorem modCore_masked (s : State) (c : Nat) (f : Core → Core) : (modCore s c f).masked = s.masked := rfl
@[simp] theorem modCore_pendMsix (s : State) (c : Nat) (f : Core → Core) : (modCore s c f).pendMsix = s.pendMsix := rfl
@[simp] theorem modCore_mgmt (s : State) (c : Nat) (f : Core → Core) : (modCore s c f).mgmt = s.mgmt := rfl
@[simp] theorem modCore_lost (s : State) (c : Nat) (f : Core → Core) : (modCore s c f).lost = s.lost := rfl
@[simp] theorem modCore_buckets (s : State) (c : Nat) (f : Core → Core) : (modCore s c f).buckets = s.buckets := rfl
@[simp] theorem modCore_bcfg (s : State) (c : Nat) (f : Core → Core) : (modCore s c f).bcfg = s.bcfg := rfl
@[simp] theorem modCore_withdrawn (s : State) (c : Nat) (f : Core → Core) : (modCore s c f).withdrawn = s.withdrawn := rfl
@[simp] theorem modCore_spares (s : State) (c : Nat) (f : Core → Core) : (modCore s c f).spares = s.spares := rfl
@[simp] theorem modCore_kiln (s : State) (c : Nat) (f : Core → Core) : (modCore s c f).kiln = s.kiln := rfl
@[simp] theorem modCore_scrubHours (s : State) (c : Nat) (f : Core → Core) : (modCore s c f).scrubHours = s.scrubHours := rfl
@[simp] theorem modCore_ftest (s : State) (c : Nat) (f : Core → Core) : (modCore s c f).ftest = s.ftest := rfl
@[simp] theorem modCore_testHours (s : State) (c : Nat) (f : Core → Core) : (modCore s c f).testHours = s.testHours := rfl
@[simp] theorem modCore_tested (s : State) (c : Nat) (f : Core → Core) : (modCore s c f).tested = s.tested := rfl
@[simp] theorem modCore_testSoon (s : State) (c : Nat) (f : Core → Core) : (modCore s c f).testSoon = s.testSoon := rfl
@[simp] theorem modCore_clock (s : State) (c : Nat) (f : Core → Core) : (modCore s c f).clock = s.clock := rfl
@[simp] theorem modCore_dev (s : State) (c : Nat) (f : Core → Core) : (modCore s c f).dev = s.dev := rfl
@[simp] theorem modCore_cap0 (s : State) (c : Nat) (f : Core → Core) : (modCore s c f).cap0 = s.cap0 := rfl
@[simp] theorem modCore_cap1 (s : State) (c : Nat) (f : Core → Core) : (modCore s c f).cap1 = s.cap1 := rfl
@[simp] theorem modCore_mhz (s : State) (c : Nat) (f : Core → Core) : (modCore s c f).mhz = s.mhz := rfl
@[simp] theorem modCore_ports (s : State) (c : Nat) (f : Core → Core) : (modCore s c f).ports = s.ports := rfl
@[simp] theorem modCore_dbg (s : State) (c : Nat) (f : Core → Core) : (modCore s c f).dbg = s.dbg := rfl
@[simp] theorem modCore_power (s : State) (c : Nat) (f : Core → Core) : (modCore s c f).power = s.power := rfl
@[simp] theorem modCore_msgs (s : State) (c : Nat) (f : Core → Core) : (modCore s c f).msgs = s.msgs := rfl
@[simp] theorem modCore_floors (s : State) (c : Nat) (f : Core → Core) : (modCore s c f).floors = s.floors := rfl
@[simp] theorem modCore_remote (s : State) (c : Nat) (f : Core → Core) : (modCore s c f).remote = s.remote := rfl
@[simp] theorem modCore_rr (s : State) (c : Nat) (f : Core → Core) : (modCore s c f).rr = s.rr := rfl
@[simp] theorem modCore_want (s : State) (c : Nat) (f : Core → Core) : (modCore s c f).want = s.want := rfl
@[simp] theorem modCore_agenda (s : State) (c : Nat) (f : Core → Core) : (modCore s c f).agenda = s.agenda := rfl
@[simp] theorem modCore_cur (s : State) (c : Nat) (f : Core → Core) : (modCore s c f).cur = s.cur := rfl
@[simp] theorem modCore_turn (s : State) (c : Nat) (f : Core → Core) : (modCore s c f).turn = s.turn := rfl
@[simp] theorem modCore_nextId (s : State) (c : Nat) (f : Core → Core) : (modCore s c f).nextId = s.nextId := rfl
@[simp] theorem modCore_freeCnt (s : State) (c : Nat) (f : Core → Core) : (modCore s c f).freeCnt = s.freeCnt := rfl
@[simp] theorem modCore_hostOut (s : State) (c : Nat) (f : Core → Core) : (modCore s c f).hostOut = s.hostOut := rfl
@[simp] theorem modCore_log (s : State) (c : Nat) (f : Core → Core) : (modCore s c f).log = s.log := rfl

/-! ### `modStrand` -/

@[simp] theorem modStrand_mem (s : State) (c sl : Nat) (f : Strand → Strand) : (modStrand s c sl f).mem = s.mem := rfl
@[simp] theorem modStrand_tags (s : State) (c sl : Nat) (f : Strand → Strand) : (modStrand s c sl f).tags = s.tags := rfl
@[simp] theorem modStrand_gpois (s : State) (c sl : Nat) (f : Strand → Strand) : (modStrand s c sl f).gpois = s.gpois := rfl
@[simp] theorem modStrand_nvLog (s : State) (c sl : Nat) (f : Strand → Strand) : (modStrand s c sl f).nvLog = s.nvLog := rfl
@[simp] theorem modStrand_l2 (s : State) (c sl : Nat) (f : Strand → Strand) : (modStrand s c sl f).l2 = s.l2 := rfl
@[simp] theorem modStrand_behind (s : State) (c sl : Nat) (f : Strand → Strand) : (modStrand s c sl f).behind = s.behind := rfl
@[simp] theorem modStrand_tlbs (s : State) (c sl : Nat) (f : Strand → Strand) : (modStrand s c sl f).tlbs = s.tlbs := rfl
@[simp] theorem modStrand_l1 (s : State) (c sl : Nat) (f : Strand → Strand) : (modStrand s c sl f).l1 = s.l1 := rfl
@[simp] theorem modStrand_walks (s : State) (c sl : Nat) (f : Strand → Strand) : (modStrand s c sl f).walks = s.walks := rfl
@[simp] theorem modStrand_ctxs (s : State) (c sl : Nat) (f : Strand → Strand) : (modStrand s c sl f).ctxs = s.ctxs := rfl
@[simp] theorem modStrand_queues (s : State) (c sl : Nat) (f : Strand → Strand) : (modStrand s c sl f).queues = s.queues := rfl
@[simp] theorem modStrand_gangs (s : State) (c sl : Nat) (f : Strand → Strand) : (modStrand s c sl f).gangs = s.gangs := rfl
@[simp] theorem modStrand_segs (s : State) (c sl : Nat) (f : Strand → Strand) : (modStrand s c sl f).segs = s.segs := rfl
@[simp] theorem modStrand_ctl (s : State) (c sl : Nat) (f : Strand → Strand) : (modStrand s c sl f).ctl = s.ctl := rfl
@[simp] theorem modStrand_cont (s : State) (c sl : Nat) (f : Strand → Strand) : (modStrand s c sl f).cont = s.cont := rfl
@[simp] theorem modStrand_mreqs (s : State) (c sl : Nat) (f : Strand → Strand) : (modStrand s c sl f).mreqs = s.mreqs := rfl
@[simp] theorem modStrand_masked (s : State) (c sl : Nat) (f : Strand → Strand) : (modStrand s c sl f).masked = s.masked := rfl
@[simp] theorem modStrand_pendMsix (s : State) (c sl : Nat) (f : Strand → Strand) : (modStrand s c sl f).pendMsix = s.pendMsix := rfl
@[simp] theorem modStrand_mgmt (s : State) (c sl : Nat) (f : Strand → Strand) : (modStrand s c sl f).mgmt = s.mgmt := rfl
@[simp] theorem modStrand_lost (s : State) (c sl : Nat) (f : Strand → Strand) : (modStrand s c sl f).lost = s.lost := rfl
@[simp] theorem modStrand_buckets (s : State) (c sl : Nat) (f : Strand → Strand) : (modStrand s c sl f).buckets = s.buckets := rfl
@[simp] theorem modStrand_bcfg (s : State) (c sl : Nat) (f : Strand → Strand) : (modStrand s c sl f).bcfg = s.bcfg := rfl
@[simp] theorem modStrand_withdrawn (s : State) (c sl : Nat) (f : Strand → Strand) : (modStrand s c sl f).withdrawn = s.withdrawn := rfl
@[simp] theorem modStrand_spares (s : State) (c sl : Nat) (f : Strand → Strand) : (modStrand s c sl f).spares = s.spares := rfl
@[simp] theorem modStrand_kiln (s : State) (c sl : Nat) (f : Strand → Strand) : (modStrand s c sl f).kiln = s.kiln := rfl
@[simp] theorem modStrand_scrubHours (s : State) (c sl : Nat) (f : Strand → Strand) : (modStrand s c sl f).scrubHours = s.scrubHours := rfl
@[simp] theorem modStrand_ftest (s : State) (c sl : Nat) (f : Strand → Strand) : (modStrand s c sl f).ftest = s.ftest := rfl
@[simp] theorem modStrand_testHours (s : State) (c sl : Nat) (f : Strand → Strand) : (modStrand s c sl f).testHours = s.testHours := rfl
@[simp] theorem modStrand_tested (s : State) (c sl : Nat) (f : Strand → Strand) : (modStrand s c sl f).tested = s.tested := rfl
@[simp] theorem modStrand_testSoon (s : State) (c sl : Nat) (f : Strand → Strand) : (modStrand s c sl f).testSoon = s.testSoon := rfl
@[simp] theorem modStrand_clock (s : State) (c sl : Nat) (f : Strand → Strand) : (modStrand s c sl f).clock = s.clock := rfl
@[simp] theorem modStrand_dev (s : State) (c sl : Nat) (f : Strand → Strand) : (modStrand s c sl f).dev = s.dev := rfl
@[simp] theorem modStrand_cap0 (s : State) (c sl : Nat) (f : Strand → Strand) : (modStrand s c sl f).cap0 = s.cap0 := rfl
@[simp] theorem modStrand_cap1 (s : State) (c sl : Nat) (f : Strand → Strand) : (modStrand s c sl f).cap1 = s.cap1 := rfl
@[simp] theorem modStrand_mhz (s : State) (c sl : Nat) (f : Strand → Strand) : (modStrand s c sl f).mhz = s.mhz := rfl
@[simp] theorem modStrand_ports (s : State) (c sl : Nat) (f : Strand → Strand) : (modStrand s c sl f).ports = s.ports := rfl
@[simp] theorem modStrand_dbg (s : State) (c sl : Nat) (f : Strand → Strand) : (modStrand s c sl f).dbg = s.dbg := rfl
@[simp] theorem modStrand_power (s : State) (c sl : Nat) (f : Strand → Strand) : (modStrand s c sl f).power = s.power := rfl
@[simp] theorem modStrand_msgs (s : State) (c sl : Nat) (f : Strand → Strand) : (modStrand s c sl f).msgs = s.msgs := rfl
@[simp] theorem modStrand_floors (s : State) (c sl : Nat) (f : Strand → Strand) : (modStrand s c sl f).floors = s.floors := rfl
@[simp] theorem modStrand_remote (s : State) (c sl : Nat) (f : Strand → Strand) : (modStrand s c sl f).remote = s.remote := rfl
@[simp] theorem modStrand_rr (s : State) (c sl : Nat) (f : Strand → Strand) : (modStrand s c sl f).rr = s.rr := rfl
@[simp] theorem modStrand_want (s : State) (c sl : Nat) (f : Strand → Strand) : (modStrand s c sl f).want = s.want := rfl
@[simp] theorem modStrand_agenda (s : State) (c sl : Nat) (f : Strand → Strand) : (modStrand s c sl f).agenda = s.agenda := rfl
@[simp] theorem modStrand_cur (s : State) (c sl : Nat) (f : Strand → Strand) : (modStrand s c sl f).cur = s.cur := rfl
@[simp] theorem modStrand_turn (s : State) (c sl : Nat) (f : Strand → Strand) : (modStrand s c sl f).turn = s.turn := rfl
@[simp] theorem modStrand_nextId (s : State) (c sl : Nat) (f : Strand → Strand) : (modStrand s c sl f).nextId = s.nextId := rfl
@[simp] theorem modStrand_freeCnt (s : State) (c sl : Nat) (f : Strand → Strand) : (modStrand s c sl f).freeCnt = s.freeCnt := rfl
@[simp] theorem modStrand_hostOut (s : State) (c sl : Nat) (f : Strand → Strand) : (modStrand s c sl f).hostOut = s.hostOut := rfl
@[simp] theorem modStrand_log (s : State) (c sl : Nat) (f : Strand → Strand) : (modStrand s c sl f).log = s.log := rfl

/-! ### `modCtx` -/

@[simp] theorem modCtx_mem (s : State) (n : Nat) (f : Ctx → Ctx) : (modCtx s n f).mem = s.mem := rfl
@[simp] theorem modCtx_tags (s : State) (n : Nat) (f : Ctx → Ctx) : (modCtx s n f).tags = s.tags := rfl
@[simp] theorem modCtx_gpois (s : State) (n : Nat) (f : Ctx → Ctx) : (modCtx s n f).gpois = s.gpois := rfl
@[simp] theorem modCtx_nvLog (s : State) (n : Nat) (f : Ctx → Ctx) : (modCtx s n f).nvLog = s.nvLog := rfl
@[simp] theorem modCtx_l2 (s : State) (n : Nat) (f : Ctx → Ctx) : (modCtx s n f).l2 = s.l2 := rfl
@[simp] theorem modCtx_behind (s : State) (n : Nat) (f : Ctx → Ctx) : (modCtx s n f).behind = s.behind := rfl
@[simp] theorem modCtx_tlbs (s : State) (n : Nat) (f : Ctx → Ctx) : (modCtx s n f).tlbs = s.tlbs := rfl
@[simp] theorem modCtx_l1 (s : State) (n : Nat) (f : Ctx → Ctx) : (modCtx s n f).l1 = s.l1 := rfl
@[simp] theorem modCtx_walks (s : State) (n : Nat) (f : Ctx → Ctx) : (modCtx s n f).walks = s.walks := rfl
@[simp] theorem modCtx_queues (s : State) (n : Nat) (f : Ctx → Ctx) : (modCtx s n f).queues = s.queues := rfl
@[simp] theorem modCtx_gangs (s : State) (n : Nat) (f : Ctx → Ctx) : (modCtx s n f).gangs = s.gangs := rfl
@[simp] theorem modCtx_cores (s : State) (n : Nat) (f : Ctx → Ctx) : (modCtx s n f).cores = s.cores := rfl
@[simp] theorem modCtx_segs (s : State) (n : Nat) (f : Ctx → Ctx) : (modCtx s n f).segs = s.segs := rfl
@[simp] theorem modCtx_ctl (s : State) (n : Nat) (f : Ctx → Ctx) : (modCtx s n f).ctl = s.ctl := rfl
@[simp] theorem modCtx_cont (s : State) (n : Nat) (f : Ctx → Ctx) : (modCtx s n f).cont = s.cont := rfl
@[simp] theorem modCtx_mreqs (s : State) (n : Nat) (f : Ctx → Ctx) : (modCtx s n f).mreqs = s.mreqs := rfl
@[simp] theorem modCtx_masked (s : State) (n : Nat) (f : Ctx → Ctx) : (modCtx s n f).masked = s.masked := rfl
@[simp] theorem modCtx_pendMsix (s : State) (n : Nat) (f : Ctx → Ctx) : (modCtx s n f).pendMsix = s.pendMsix := rfl
@[simp] theorem modCtx_mgmt (s : State) (n : Nat) (f : Ctx → Ctx) : (modCtx s n f).mgmt = s.mgmt := rfl
@[simp] theorem modCtx_lost (s : State) (n : Nat) (f : Ctx → Ctx) : (modCtx s n f).lost = s.lost := rfl
@[simp] theorem modCtx_buckets (s : State) (n : Nat) (f : Ctx → Ctx) : (modCtx s n f).buckets = s.buckets := rfl
@[simp] theorem modCtx_bcfg (s : State) (n : Nat) (f : Ctx → Ctx) : (modCtx s n f).bcfg = s.bcfg := rfl
@[simp] theorem modCtx_withdrawn (s : State) (n : Nat) (f : Ctx → Ctx) : (modCtx s n f).withdrawn = s.withdrawn := rfl
@[simp] theorem modCtx_spares (s : State) (n : Nat) (f : Ctx → Ctx) : (modCtx s n f).spares = s.spares := rfl
@[simp] theorem modCtx_kiln (s : State) (n : Nat) (f : Ctx → Ctx) : (modCtx s n f).kiln = s.kiln := rfl
@[simp] theorem modCtx_scrubHours (s : State) (n : Nat) (f : Ctx → Ctx) : (modCtx s n f).scrubHours = s.scrubHours := rfl
@[simp] theorem modCtx_ftest (s : State) (n : Nat) (f : Ctx → Ctx) : (modCtx s n f).ftest = s.ftest := rfl
@[simp] theorem modCtx_testHours (s : State) (n : Nat) (f : Ctx → Ctx) : (modCtx s n f).testHours = s.testHours := rfl
@[simp] theorem modCtx_tested (s : State) (n : Nat) (f : Ctx → Ctx) : (modCtx s n f).tested = s.tested := rfl
@[simp] theorem modCtx_testSoon (s : State) (n : Nat) (f : Ctx → Ctx) : (modCtx s n f).testSoon = s.testSoon := rfl
@[simp] theorem modCtx_clock (s : State) (n : Nat) (f : Ctx → Ctx) : (modCtx s n f).clock = s.clock := rfl
@[simp] theorem modCtx_dev (s : State) (n : Nat) (f : Ctx → Ctx) : (modCtx s n f).dev = s.dev := rfl
@[simp] theorem modCtx_cap0 (s : State) (n : Nat) (f : Ctx → Ctx) : (modCtx s n f).cap0 = s.cap0 := rfl
@[simp] theorem modCtx_cap1 (s : State) (n : Nat) (f : Ctx → Ctx) : (modCtx s n f).cap1 = s.cap1 := rfl
@[simp] theorem modCtx_mhz (s : State) (n : Nat) (f : Ctx → Ctx) : (modCtx s n f).mhz = s.mhz := rfl
@[simp] theorem modCtx_ports (s : State) (n : Nat) (f : Ctx → Ctx) : (modCtx s n f).ports = s.ports := rfl
@[simp] theorem modCtx_dbg (s : State) (n : Nat) (f : Ctx → Ctx) : (modCtx s n f).dbg = s.dbg := rfl
@[simp] theorem modCtx_power (s : State) (n : Nat) (f : Ctx → Ctx) : (modCtx s n f).power = s.power := rfl
@[simp] theorem modCtx_msgs (s : State) (n : Nat) (f : Ctx → Ctx) : (modCtx s n f).msgs = s.msgs := rfl
@[simp] theorem modCtx_floors (s : State) (n : Nat) (f : Ctx → Ctx) : (modCtx s n f).floors = s.floors := rfl
@[simp] theorem modCtx_remote (s : State) (n : Nat) (f : Ctx → Ctx) : (modCtx s n f).remote = s.remote := rfl
@[simp] theorem modCtx_rr (s : State) (n : Nat) (f : Ctx → Ctx) : (modCtx s n f).rr = s.rr := rfl
@[simp] theorem modCtx_want (s : State) (n : Nat) (f : Ctx → Ctx) : (modCtx s n f).want = s.want := rfl
@[simp] theorem modCtx_agenda (s : State) (n : Nat) (f : Ctx → Ctx) : (modCtx s n f).agenda = s.agenda := rfl
@[simp] theorem modCtx_cur (s : State) (n : Nat) (f : Ctx → Ctx) : (modCtx s n f).cur = s.cur := rfl
@[simp] theorem modCtx_turn (s : State) (n : Nat) (f : Ctx → Ctx) : (modCtx s n f).turn = s.turn := rfl
@[simp] theorem modCtx_nextId (s : State) (n : Nat) (f : Ctx → Ctx) : (modCtx s n f).nextId = s.nextId := rfl
@[simp] theorem modCtx_freeCnt (s : State) (n : Nat) (f : Ctx → Ctx) : (modCtx s n f).freeCnt = s.freeCnt := rfl
@[simp] theorem modCtx_hostOut (s : State) (n : Nat) (f : Ctx → Ctx) : (modCtx s n f).hostOut = s.hostOut := rfl
@[simp] theorem modCtx_log (s : State) (n : Nat) (f : Ctx → Ctx) : (modCtx s n f).log = s.log := rfl

/-! ### `modGang` -/

@[simp] theorem modGang_mem (s : State) (g : Nat) (f : Gang → Gang) : (modGang s g f).mem = s.mem := rfl
@[simp] theorem modGang_tags (s : State) (g : Nat) (f : Gang → Gang) : (modGang s g f).tags = s.tags := rfl
@[simp] theorem modGang_gpois (s : State) (g : Nat) (f : Gang → Gang) : (modGang s g f).gpois = s.gpois := rfl
@[simp] theorem modGang_nvLog (s : State) (g : Nat) (f : Gang → Gang) : (modGang s g f).nvLog = s.nvLog := rfl
@[simp] theorem modGang_l2 (s : State) (g : Nat) (f : Gang → Gang) : (modGang s g f).l2 = s.l2 := rfl
@[simp] theorem modGang_behind (s : State) (g : Nat) (f : Gang → Gang) : (modGang s g f).behind = s.behind := rfl
@[simp] theorem modGang_tlbs (s : State) (g : Nat) (f : Gang → Gang) : (modGang s g f).tlbs = s.tlbs := rfl
@[simp] theorem modGang_l1 (s : State) (g : Nat) (f : Gang → Gang) : (modGang s g f).l1 = s.l1 := rfl
@[simp] theorem modGang_walks (s : State) (g : Nat) (f : Gang → Gang) : (modGang s g f).walks = s.walks := rfl
@[simp] theorem modGang_ctxs (s : State) (g : Nat) (f : Gang → Gang) : (modGang s g f).ctxs = s.ctxs := rfl
@[simp] theorem modGang_queues (s : State) (g : Nat) (f : Gang → Gang) : (modGang s g f).queues = s.queues := rfl
@[simp] theorem modGang_cores (s : State) (g : Nat) (f : Gang → Gang) : (modGang s g f).cores = s.cores := rfl
@[simp] theorem modGang_segs (s : State) (g : Nat) (f : Gang → Gang) : (modGang s g f).segs = s.segs := rfl
@[simp] theorem modGang_ctl (s : State) (g : Nat) (f : Gang → Gang) : (modGang s g f).ctl = s.ctl := rfl
@[simp] theorem modGang_cont (s : State) (g : Nat) (f : Gang → Gang) : (modGang s g f).cont = s.cont := rfl
@[simp] theorem modGang_mreqs (s : State) (g : Nat) (f : Gang → Gang) : (modGang s g f).mreqs = s.mreqs := rfl
@[simp] theorem modGang_masked (s : State) (g : Nat) (f : Gang → Gang) : (modGang s g f).masked = s.masked := rfl
@[simp] theorem modGang_pendMsix (s : State) (g : Nat) (f : Gang → Gang) : (modGang s g f).pendMsix = s.pendMsix := rfl
@[simp] theorem modGang_mgmt (s : State) (g : Nat) (f : Gang → Gang) : (modGang s g f).mgmt = s.mgmt := rfl
@[simp] theorem modGang_lost (s : State) (g : Nat) (f : Gang → Gang) : (modGang s g f).lost = s.lost := rfl
@[simp] theorem modGang_buckets (s : State) (g : Nat) (f : Gang → Gang) : (modGang s g f).buckets = s.buckets := rfl
@[simp] theorem modGang_bcfg (s : State) (g : Nat) (f : Gang → Gang) : (modGang s g f).bcfg = s.bcfg := rfl
@[simp] theorem modGang_withdrawn (s : State) (g : Nat) (f : Gang → Gang) : (modGang s g f).withdrawn = s.withdrawn := rfl
@[simp] theorem modGang_spares (s : State) (g : Nat) (f : Gang → Gang) : (modGang s g f).spares = s.spares := rfl
@[simp] theorem modGang_kiln (s : State) (g : Nat) (f : Gang → Gang) : (modGang s g f).kiln = s.kiln := rfl
@[simp] theorem modGang_scrubHours (s : State) (g : Nat) (f : Gang → Gang) : (modGang s g f).scrubHours = s.scrubHours := rfl
@[simp] theorem modGang_ftest (s : State) (g : Nat) (f : Gang → Gang) : (modGang s g f).ftest = s.ftest := rfl
@[simp] theorem modGang_testHours (s : State) (g : Nat) (f : Gang → Gang) : (modGang s g f).testHours = s.testHours := rfl
@[simp] theorem modGang_tested (s : State) (g : Nat) (f : Gang → Gang) : (modGang s g f).tested = s.tested := rfl
@[simp] theorem modGang_testSoon (s : State) (g : Nat) (f : Gang → Gang) : (modGang s g f).testSoon = s.testSoon := rfl
@[simp] theorem modGang_clock (s : State) (g : Nat) (f : Gang → Gang) : (modGang s g f).clock = s.clock := rfl
@[simp] theorem modGang_dev (s : State) (g : Nat) (f : Gang → Gang) : (modGang s g f).dev = s.dev := rfl
@[simp] theorem modGang_cap0 (s : State) (g : Nat) (f : Gang → Gang) : (modGang s g f).cap0 = s.cap0 := rfl
@[simp] theorem modGang_cap1 (s : State) (g : Nat) (f : Gang → Gang) : (modGang s g f).cap1 = s.cap1 := rfl
@[simp] theorem modGang_mhz (s : State) (g : Nat) (f : Gang → Gang) : (modGang s g f).mhz = s.mhz := rfl
@[simp] theorem modGang_ports (s : State) (g : Nat) (f : Gang → Gang) : (modGang s g f).ports = s.ports := rfl
@[simp] theorem modGang_dbg (s : State) (g : Nat) (f : Gang → Gang) : (modGang s g f).dbg = s.dbg := rfl
@[simp] theorem modGang_power (s : State) (g : Nat) (f : Gang → Gang) : (modGang s g f).power = s.power := rfl
@[simp] theorem modGang_msgs (s : State) (g : Nat) (f : Gang → Gang) : (modGang s g f).msgs = s.msgs := rfl
@[simp] theorem modGang_floors (s : State) (g : Nat) (f : Gang → Gang) : (modGang s g f).floors = s.floors := rfl
@[simp] theorem modGang_remote (s : State) (g : Nat) (f : Gang → Gang) : (modGang s g f).remote = s.remote := rfl
@[simp] theorem modGang_rr (s : State) (g : Nat) (f : Gang → Gang) : (modGang s g f).rr = s.rr := rfl
@[simp] theorem modGang_want (s : State) (g : Nat) (f : Gang → Gang) : (modGang s g f).want = s.want := rfl
@[simp] theorem modGang_agenda (s : State) (g : Nat) (f : Gang → Gang) : (modGang s g f).agenda = s.agenda := rfl
@[simp] theorem modGang_cur (s : State) (g : Nat) (f : Gang → Gang) : (modGang s g f).cur = s.cur := rfl
@[simp] theorem modGang_turn (s : State) (g : Nat) (f : Gang → Gang) : (modGang s g f).turn = s.turn := rfl
@[simp] theorem modGang_nextId (s : State) (g : Nat) (f : Gang → Gang) : (modGang s g f).nextId = s.nextId := rfl
@[simp] theorem modGang_freeCnt (s : State) (g : Nat) (f : Gang → Gang) : (modGang s g f).freeCnt = s.freeCnt := rfl
@[simp] theorem modGang_hostOut (s : State) (g : Nat) (f : Gang → Gang) : (modGang s g f).hostOut = s.hostOut := rfl
@[simp] theorem modGang_log (s : State) (g : Nat) (f : Gang → Gang) : (modGang s g f).log = s.log := rfl

/-! ### `fire` -/

@[simp] theorem fire_mem (s : State) (n : EvName) (a b : Nat) : (fire s n a b).mem = s.mem := rfl
@[simp] theorem fire_tags (s : State) (n : EvName) (a b : Nat) : (fire s n a b).tags = s.tags := rfl
@[simp] theorem fire_gpois (s : State) (n : EvName) (a b : Nat) : (fire s n a b).gpois = s.gpois := rfl
@[simp] theorem fire_nvLog (s : State) (n : EvName) (a b : Nat) : (fire s n a b).nvLog = s.nvLog := rfl
@[simp] theorem fire_l2 (s : State) (n : EvName) (a b : Nat) : (fire s n a b).l2 = s.l2 := rfl
@[simp] theorem fire_behind (s : State) (n : EvName) (a b : Nat) : (fire s n a b).behind = s.behind := rfl
@[simp] theorem fire_tlbs (s : State) (n : EvName) (a b : Nat) : (fire s n a b).tlbs = s.tlbs := rfl
@[simp] theorem fire_l1 (s : State) (n : EvName) (a b : Nat) : (fire s n a b).l1 = s.l1 := rfl
@[simp] theorem fire_walks (s : State) (n : EvName) (a b : Nat) : (fire s n a b).walks = s.walks := rfl
@[simp] theorem fire_ctxs (s : State) (n : EvName) (a b : Nat) : (fire s n a b).ctxs = s.ctxs := rfl
@[simp] theorem fire_queues (s : State) (n : EvName) (a b : Nat) : (fire s n a b).queues = s.queues := rfl
@[simp] theorem fire_gangs (s : State) (n : EvName) (a b : Nat) : (fire s n a b).gangs = s.gangs := rfl
@[simp] theorem fire_cores (s : State) (n : EvName) (a b : Nat) : (fire s n a b).cores = s.cores := rfl
@[simp] theorem fire_segs (s : State) (n : EvName) (a b : Nat) : (fire s n a b).segs = s.segs := rfl
@[simp] theorem fire_ctl (s : State) (n : EvName) (a b : Nat) : (fire s n a b).ctl = s.ctl := rfl
@[simp] theorem fire_cont (s : State) (n : EvName) (a b : Nat) : (fire s n a b).cont = s.cont := rfl
@[simp] theorem fire_mreqs (s : State) (n : EvName) (a b : Nat) : (fire s n a b).mreqs = s.mreqs := rfl
@[simp] theorem fire_masked (s : State) (n : EvName) (a b : Nat) : (fire s n a b).masked = s.masked := rfl
@[simp] theorem fire_pendMsix (s : State) (n : EvName) (a b : Nat) : (fire s n a b).pendMsix = s.pendMsix := rfl
@[simp] theorem fire_mgmt (s : State) (n : EvName) (a b : Nat) : (fire s n a b).mgmt = s.mgmt := rfl
@[simp] theorem fire_lost (s : State) (n : EvName) (a b : Nat) : (fire s n a b).lost = s.lost := rfl
@[simp] theorem fire_buckets (s : State) (n : EvName) (a b : Nat) : (fire s n a b).buckets = s.buckets := rfl
@[simp] theorem fire_bcfg (s : State) (n : EvName) (a b : Nat) : (fire s n a b).bcfg = s.bcfg := rfl
@[simp] theorem fire_withdrawn (s : State) (n : EvName) (a b : Nat) : (fire s n a b).withdrawn = s.withdrawn := rfl
@[simp] theorem fire_spares (s : State) (n : EvName) (a b : Nat) : (fire s n a b).spares = s.spares := rfl
@[simp] theorem fire_kiln (s : State) (n : EvName) (a b : Nat) : (fire s n a b).kiln = s.kiln := rfl
@[simp] theorem fire_scrubHours (s : State) (n : EvName) (a b : Nat) : (fire s n a b).scrubHours = s.scrubHours := rfl
@[simp] theorem fire_ftest (s : State) (n : EvName) (a b : Nat) : (fire s n a b).ftest = s.ftest := rfl
@[simp] theorem fire_testHours (s : State) (n : EvName) (a b : Nat) : (fire s n a b).testHours = s.testHours := rfl
@[simp] theorem fire_tested (s : State) (n : EvName) (a b : Nat) : (fire s n a b).tested = s.tested := rfl
@[simp] theorem fire_testSoon (s : State) (n : EvName) (a b : Nat) : (fire s n a b).testSoon = s.testSoon := rfl
@[simp] theorem fire_clock (s : State) (n : EvName) (a b : Nat) : (fire s n a b).clock = s.clock := rfl
@[simp] theorem fire_dev (s : State) (n : EvName) (a b : Nat) : (fire s n a b).dev = s.dev := rfl
@[simp] theorem fire_cap0 (s : State) (n : EvName) (a b : Nat) : (fire s n a b).cap0 = s.cap0 := rfl
@[simp] theorem fire_cap1 (s : State) (n : EvName) (a b : Nat) : (fire s n a b).cap1 = s.cap1 := rfl
@[simp] theorem fire_mhz (s : State) (n : EvName) (a b : Nat) : (fire s n a b).mhz = s.mhz := rfl
@[simp] theorem fire_ports (s : State) (n : EvName) (a b : Nat) : (fire s n a b).ports = s.ports := rfl
@[simp] theorem fire_dbg (s : State) (n : EvName) (a b : Nat) : (fire s n a b).dbg = s.dbg := rfl
@[simp] theorem fire_power (s : State) (n : EvName) (a b : Nat) : (fire s n a b).power = s.power := rfl
@[simp] theorem fire_msgs (s : State) (n : EvName) (a b : Nat) : (fire s n a b).msgs = s.msgs := rfl
@[simp] theorem fire_floors (s : State) (n : EvName) (a b : Nat) : (fire s n a b).floors = s.floors := rfl
@[simp] theorem fire_remote (s : State) (n : EvName) (a b : Nat) : (fire s n a b).remote = s.remote := rfl
@[simp] theorem fire_rr (s : State) (n : EvName) (a b : Nat) : (fire s n a b).rr = s.rr := rfl
@[simp] theorem fire_want (s : State) (n : EvName) (a b : Nat) : (fire s n a b).want = s.want := rfl
@[simp] theorem fire_agenda (s : State) (n : EvName) (a b : Nat) : (fire s n a b).agenda = s.agenda := rfl
@[simp] theorem fire_cur (s : State) (n : EvName) (a b : Nat) : (fire s n a b).cur = s.cur := rfl
@[simp] theorem fire_turn (s : State) (n : EvName) (a b : Nat) : (fire s n a b).turn = s.turn := rfl
@[simp] theorem fire_nextId (s : State) (n : EvName) (a b : Nat) : (fire s n a b).nextId = s.nextId := rfl
@[simp] theorem fire_freeCnt (s : State) (n : EvName) (a b : Nat) : (fire s n a b).freeCnt = s.freeCnt := rfl
@[simp] theorem fire_hostOut (s : State) (n : EvName) (a b : Nat) : (fire s n a b).hostOut = s.hostOut := rfl

/-! ### `contSet` -/

@[simp] theorem contSet_mem (s : State) (n k : Nat) (v : DWord) : (contSet s n k v).mem = s.mem := rfl
@[simp] theorem contSet_tags (s : State) (n k : Nat) (v : DWord) : (contSet s n k v).tags = s.tags := rfl
@[simp] theorem contSet_gpois (s : State) (n k : Nat) (v : DWord) : (contSet s n k v).gpois = s.gpois := rfl
@[simp] theorem contSet_nvLog (s : State) (n k : Nat) (v : DWord) : (contSet s n k v).nvLog = s.nvLog := rfl
@[simp] theorem contSet_l2 (s : State) (n k : Nat) (v : DWord) : (contSet s n k v).l2 = s.l2 := rfl
@[simp] theorem contSet_behind (s : State) (n k : Nat) (v : DWord) : (contSet s n k v).behind = s.behind := rfl
@[simp] theorem contSet_tlbs (s : State) (n k : Nat) (v : DWord) : (contSet s n k v).tlbs = s.tlbs := rfl
@[simp] theorem contSet_l1 (s : State) (n k : Nat) (v : DWord) : (contSet s n k v).l1 = s.l1 := rfl
@[simp] theorem contSet_walks (s : State) (n k : Nat) (v : DWord) : (contSet s n k v).walks = s.walks := rfl
@[simp] theorem contSet_ctxs (s : State) (n k : Nat) (v : DWord) : (contSet s n k v).ctxs = s.ctxs := rfl
@[simp] theorem contSet_queues (s : State) (n k : Nat) (v : DWord) : (contSet s n k v).queues = s.queues := rfl
@[simp] theorem contSet_gangs (s : State) (n k : Nat) (v : DWord) : (contSet s n k v).gangs = s.gangs := rfl
@[simp] theorem contSet_cores (s : State) (n k : Nat) (v : DWord) : (contSet s n k v).cores = s.cores := rfl
@[simp] theorem contSet_segs (s : State) (n k : Nat) (v : DWord) : (contSet s n k v).segs = s.segs := rfl
@[simp] theorem contSet_ctl (s : State) (n k : Nat) (v : DWord) : (contSet s n k v).ctl = s.ctl := rfl
@[simp] theorem contSet_mreqs (s : State) (n k : Nat) (v : DWord) : (contSet s n k v).mreqs = s.mreqs := rfl
@[simp] theorem contSet_masked (s : State) (n k : Nat) (v : DWord) : (contSet s n k v).masked = s.masked := rfl
@[simp] theorem contSet_pendMsix (s : State) (n k : Nat) (v : DWord) : (contSet s n k v).pendMsix = s.pendMsix := rfl
@[simp] theorem contSet_mgmt (s : State) (n k : Nat) (v : DWord) : (contSet s n k v).mgmt = s.mgmt := rfl
@[simp] theorem contSet_lost (s : State) (n k : Nat) (v : DWord) : (contSet s n k v).lost = s.lost := rfl
@[simp] theorem contSet_buckets (s : State) (n k : Nat) (v : DWord) : (contSet s n k v).buckets = s.buckets := rfl
@[simp] theorem contSet_bcfg (s : State) (n k : Nat) (v : DWord) : (contSet s n k v).bcfg = s.bcfg := rfl
@[simp] theorem contSet_withdrawn (s : State) (n k : Nat) (v : DWord) : (contSet s n k v).withdrawn = s.withdrawn := rfl
@[simp] theorem contSet_spares (s : State) (n k : Nat) (v : DWord) : (contSet s n k v).spares = s.spares := rfl
@[simp] theorem contSet_kiln (s : State) (n k : Nat) (v : DWord) : (contSet s n k v).kiln = s.kiln := rfl
@[simp] theorem contSet_scrubHours (s : State) (n k : Nat) (v : DWord) : (contSet s n k v).scrubHours = s.scrubHours := rfl
@[simp] theorem contSet_ftest (s : State) (n k : Nat) (v : DWord) : (contSet s n k v).ftest = s.ftest := rfl
@[simp] theorem contSet_testHours (s : State) (n k : Nat) (v : DWord) : (contSet s n k v).testHours = s.testHours := rfl
@[simp] theorem contSet_tested (s : State) (n k : Nat) (v : DWord) : (contSet s n k v).tested = s.tested := rfl
@[simp] theorem contSet_testSoon (s : State) (n k : Nat) (v : DWord) : (contSet s n k v).testSoon = s.testSoon := rfl
@[simp] theorem contSet_clock (s : State) (n k : Nat) (v : DWord) : (contSet s n k v).clock = s.clock := rfl
@[simp] theorem contSet_dev (s : State) (n k : Nat) (v : DWord) : (contSet s n k v).dev = s.dev := rfl
@[simp] theorem contSet_cap0 (s : State) (n k : Nat) (v : DWord) : (contSet s n k v).cap0 = s.cap0 := rfl
@[simp] theorem contSet_cap1 (s : State) (n k : Nat) (v : DWord) : (contSet s n k v).cap1 = s.cap1 := rfl
@[simp] theorem contSet_mhz (s : State) (n k : Nat) (v : DWord) : (contSet s n k v).mhz = s.mhz := rfl
@[simp] theorem contSet_ports (s : State) (n k : Nat) (v : DWord) : (contSet s n k v).ports = s.ports := rfl
@[simp] theorem contSet_dbg (s : State) (n k : Nat) (v : DWord) : (contSet s n k v).dbg = s.dbg := rfl
@[simp] theorem contSet_power (s : State) (n k : Nat) (v : DWord) : (contSet s n k v).power = s.power := rfl
@[simp] theorem contSet_msgs (s : State) (n k : Nat) (v : DWord) : (contSet s n k v).msgs = s.msgs := rfl
@[simp] theorem contSet_floors (s : State) (n k : Nat) (v : DWord) : (contSet s n k v).floors = s.floors := rfl
@[simp] theorem contSet_remote (s : State) (n k : Nat) (v : DWord) : (contSet s n k v).remote = s.remote := rfl
@[simp] theorem contSet_rr (s : State) (n k : Nat) (v : DWord) : (contSet s n k v).rr = s.rr := rfl
@[simp] theorem contSet_want (s : State) (n k : Nat) (v : DWord) : (contSet s n k v).want = s.want := rfl
@[simp] theorem contSet_agenda (s : State) (n k : Nat) (v : DWord) : (contSet s n k v).agenda = s.agenda := rfl
@[simp] theorem contSet_cur (s : State) (n k : Nat) (v : DWord) : (contSet s n k v).cur = s.cur := rfl
@[simp] theorem contSet_turn (s : State) (n k : Nat) (v : DWord) : (contSet s n k v).turn = s.turn := rfl
@[simp] theorem contSet_nextId (s : State) (n k : Nat) (v : DWord) : (contSet s n k v).nextId = s.nextId := rfl
@[simp] theorem contSet_freeCnt (s : State) (n k : Nat) (v : DWord) : (contSet s n k v).freeCnt = s.freeCnt := rfl
@[simp] theorem contSet_hostOut (s : State) (n k : Nat) (v : DWord) : (contSet s n k v).hostOut = s.hostOut := rfl
@[simp] theorem contSet_log (s : State) (n k : Nat) (v : DWord) : (contSet s n k v).log = s.log := rfl

@[simp] theorem setCore_cores (s : State) (c : Nat) (x : Core) : (setCore s c x).cores = aput s.cores c x := rfl
@[simp] theorem modCore_cores (s : State) (c : Nat) (f : Core → Core) : (modCore s c f).cores = amod s.cores c f := rfl
@[simp] theorem fire_log (s : State) (n : EvName) (a b : Nat) : (fire s n a b).log = { name := n, a := a, b := b } :: s.log := rfl

/-! ### `modLane` -/

@[simp] theorem modLane_sid (st : Strand) (l : Nat) (f : Lane → Lane) : (modLane st l f).sid = st.sid := rfl
@[simp] theorem modLane_st (st : Strand) (l : Nat) (f : Lane → Lane) : (modLane st l f).st = st.st := rfl
@[simp] theorem modLane_k (st : Strand) (l : Nat) (f : Lane → Lane) : (modLane st l f).k = st.k := rfl
@[simp] theorem modLane_frames (st : Strand) (l : Nat) (f : Lane → Lane) : (modLane st l f).frames = st.frames := rfl
@[simp] theorem modLane_handler (st : Strand) (l : Nat) (f : Lane → Lane) : (modLane st l f).handler = st.handler := rfl
@[simp] theorem modLane_prio (st : Strand) (l : Nat) (f : Lane → Lane) : (modLane st l f).prio = st.prio := rfl
@[simp] theorem modLane_eff (st : Strand) (l : Nat) (f : Lane → Lane) : (modLane st l f).eff = st.eff := rfl
@[simp] theorem modLane_age (st : Strand) (l : Nat) (f : Lane → Lane) : (modLane st l f).age = st.age := rfl
@[simp] theorem modLane_npc (st : Strand) (l : Nat) (f : Lane → Lane) : (modLane st l f).npc = st.npc := rfl
@[simp] theorem modLane_nopre (st : Strand) (l : Nat) (f : Lane → Lane) : (modLane st l f).nopre = st.nopre := rfl
@[simp] theorem modLane_out (st : Strand) (l : Nat) (f : Lane → Lane) : (modLane st l f).out = st.out := rfl
@[simp] theorem modLane_hold (st : Strand) (l : Nat) (f : Lane → Lane) : (modLane st l f).hold = st.hold := rfl
@[simp] theorem modLane_sigstat (st : Strand) (l : Nat) (f : Lane → Lane) : (modLane st l f).sigstat = st.sigstat := rfl
@[simp] theorem modLane_latch (st : Strand) (l : Nat) (f : Lane → Lane) : (modLane st l f).latch = st.latch := rfl
@[simp] theorem modLane_block (st : Strand) (l : Nat) (f : Lane → Lane) : (modLane st l f).block = st.block := rfl
@[simp] theorem modLane_trapPend (st : Strand) (l : Nat) (f : Lane → Lane) : (modLane st l f).trapPend = st.trapPend := rfl
@[simp] theorem modLane_due (st : Strand) (l : Nat) (f : Lane → Lane) : (modLane st l f).due = st.due := rfl
@[simp] theorem modLane_trial (st : Strand) (l : Nat) (f : Lane → Lane) : (modLane st l f).trial = st.trial := rfl
@[simp] theorem modLane_spill (st : Strand) (l : Nat) (f : Lane → Lane) : (modLane st l f).spill = st.spill := rfl
@[simp] theorem modLane_seq (st : Strand) (l : Nat) (f : Lane → Lane) : (modLane st l f).seq = st.seq := rfl
@[simp] theorem modLane_last (st : Strand) (l : Nat) (f : Lane → Lane) : (modLane st l f).last = st.last := rfl
@[simp] theorem modLane_barN (st : Strand) (l : Nat) (f : Lane → Lane) : (modLane st l f).barN = st.barN := rfl
@[simp] theorem modLane_arrived (st : Strand) (l : Nat) (f : Lane → Lane) : (modLane st l f).arrived = st.arrived := rfl
@[simp] theorem modLane_dur (st : Strand) (l : Nat) (f : Lane → Lane) : (modLane st l f).dur = st.dur := rfl
@[simp] theorem modLane_phMask (st : Strand) (l : Nat) (f : Lane → Lane) : (modLane st l f).phMask = st.phMask := rfl
@[simp] theorem modLane_phLen (st : Strand) (l : Nat) (f : Lane → Lane) : (modLane st l f).phLen = st.phLen := rfl
@[simp] theorem modLane_stopped (st : Strand) (l : Nat) (f : Lane → Lane) : (modLane st l f).stopped = st.stopped := rfl
@[simp] theorem modLane_bnd (st : Strand) (l : Nat) (f : Lane → Lane) : (modLane st l f).bnd = st.bnd := rfl

/-! ### `modLanes` -/

@[simp] theorem modLanes_sid (st : Strand) (m : Word) (f : Lane → Lane) : (modLanes st m f).sid = st.sid := rfl
@[simp] theorem modLanes_st (st : Strand) (m : Word) (f : Lane → Lane) : (modLanes st m f).st = st.st := rfl
@[simp] theorem modLanes_k (st : Strand) (m : Word) (f : Lane → Lane) : (modLanes st m f).k = st.k := rfl
@[simp] theorem modLanes_frames (st : Strand) (m : Word) (f : Lane → Lane) : (modLanes st m f).frames = st.frames := rfl
@[simp] theorem modLanes_handler (st : Strand) (m : Word) (f : Lane → Lane) : (modLanes st m f).handler = st.handler := rfl
@[simp] theorem modLanes_prio (st : Strand) (m : Word) (f : Lane → Lane) : (modLanes st m f).prio = st.prio := rfl
@[simp] theorem modLanes_eff (st : Strand) (m : Word) (f : Lane → Lane) : (modLanes st m f).eff = st.eff := rfl
@[simp] theorem modLanes_age (st : Strand) (m : Word) (f : Lane → Lane) : (modLanes st m f).age = st.age := rfl
@[simp] theorem modLanes_npc (st : Strand) (m : Word) (f : Lane → Lane) : (modLanes st m f).npc = st.npc := rfl
@[simp] theorem modLanes_nopre (st : Strand) (m : Word) (f : Lane → Lane) : (modLanes st m f).nopre = st.nopre := rfl
@[simp] theorem modLanes_out (st : Strand) (m : Word) (f : Lane → Lane) : (modLanes st m f).out = st.out := rfl
@[simp] theorem modLanes_hold (st : Strand) (m : Word) (f : Lane → Lane) : (modLanes st m f).hold = st.hold := rfl
@[simp] theorem modLanes_sigstat (st : Strand) (m : Word) (f : Lane → Lane) : (modLanes st m f).sigstat = st.sigstat := rfl
@[simp] theorem modLanes_latch (st : Strand) (m : Word) (f : Lane → Lane) : (modLanes st m f).latch = st.latch := rfl
@[simp] theorem modLanes_block (st : Strand) (m : Word) (f : Lane → Lane) : (modLanes st m f).block = st.block := rfl
@[simp] theorem modLanes_trapPend (st : Strand) (m : Word) (f : Lane → Lane) : (modLanes st m f).trapPend = st.trapPend := rfl
@[simp] theorem modLanes_due (st : Strand) (m : Word) (f : Lane → Lane) : (modLanes st m f).due = st.due := rfl
@[simp] theorem modLanes_trial (st : Strand) (m : Word) (f : Lane → Lane) : (modLanes st m f).trial = st.trial := rfl
@[simp] theorem modLanes_spill (st : Strand) (m : Word) (f : Lane → Lane) : (modLanes st m f).spill = st.spill := rfl
@[simp] theorem modLanes_seq (st : Strand) (m : Word) (f : Lane → Lane) : (modLanes st m f).seq = st.seq := rfl
@[simp] theorem modLanes_last (st : Strand) (m : Word) (f : Lane → Lane) : (modLanes st m f).last = st.last := rfl
@[simp] theorem modLanes_barN (st : Strand) (m : Word) (f : Lane → Lane) : (modLanes st m f).barN = st.barN := rfl
@[simp] theorem modLanes_arrived (st : Strand) (m : Word) (f : Lane → Lane) : (modLanes st m f).arrived = st.arrived := rfl
@[simp] theorem modLanes_dur (st : Strand) (m : Word) (f : Lane → Lane) : (modLanes st m f).dur = st.dur := rfl
@[simp] theorem modLanes_phMask (st : Strand) (m : Word) (f : Lane → Lane) : (modLanes st m f).phMask = st.phMask := rfl
@[simp] theorem modLanes_phLen (st : Strand) (m : Word) (f : Lane → Lane) : (modLanes st m f).phLen = st.phLen := rfl
@[simp] theorem modLanes_stopped (st : Strand) (m : Word) (f : Lane → Lane) : (modLanes st m f).stopped = st.stopped := rfl
@[simp] theorem modLanes_bnd (st : Strand) (m : Word) (f : Lane → Lane) : (modLanes st m f).bnd = st.bnd := rfl

/-! ### `advLanes` -/

@[simp] theorem advLanes_sid (st : Strand) (m : Word) (n : Nat) : (advLanes st m n).sid = st.sid := rfl
@[simp] theorem advLanes_st (st : Strand) (m : Word) (n : Nat) : (advLanes st m n).st = st.st := rfl
@[simp] theorem advLanes_k (st : Strand) (m : Word) (n : Nat) : (advLanes st m n).k = st.k := rfl
@[simp] theorem advLanes_frames (st : Strand) (m : Word) (n : Nat) : (advLanes st m n).frames = st.frames := rfl
@[simp] theorem advLanes_handler (st : Strand) (m : Word) (n : Nat) : (advLanes st m n).handler = st.handler := rfl
@[simp] theorem advLanes_prio (st : Strand) (m : Word) (n : Nat) : (advLanes st m n).prio = st.prio := rfl
@[simp] theorem advLanes_eff (st : Strand) (m : Word) (n : Nat) : (advLanes st m n).eff = st.eff := rfl
@[simp] theorem advLanes_age (st : Strand) (m : Word) (n : Nat) : (advLanes st m n).age = st.age := rfl
@[simp] theorem advLanes_npc (st : Strand) (m : Word) (n : Nat) : (advLanes st m n).npc = st.npc := rfl
@[simp] theorem advLanes_nopre (st : Strand) (m : Word) (n : Nat) : (advLanes st m n).nopre = st.nopre := rfl
@[simp] theorem advLanes_out (st : Strand) (m : Word) (n : Nat) : (advLanes st m n).out = st.out := rfl
@[simp] theorem advLanes_hold (st : Strand) (m : Word) (n : Nat) : (advLanes st m n).hold = st.hold := rfl
@[simp] theorem advLanes_sigstat (st : Strand) (m : Word) (n : Nat) : (advLanes st m n).sigstat = st.sigstat := rfl
@[simp] theorem advLanes_latch (st : Strand) (m : Word) (n : Nat) : (advLanes st m n).latch = st.latch := rfl
@[simp] theorem advLanes_block (st : Strand) (m : Word) (n : Nat) : (advLanes st m n).block = st.block := rfl
@[simp] theorem advLanes_trapPend (st : Strand) (m : Word) (n : Nat) : (advLanes st m n).trapPend = st.trapPend := rfl
@[simp] theorem advLanes_due (st : Strand) (m : Word) (n : Nat) : (advLanes st m n).due = st.due := rfl
@[simp] theorem advLanes_trial (st : Strand) (m : Word) (n : Nat) : (advLanes st m n).trial = st.trial := rfl
@[simp] theorem advLanes_spill (st : Strand) (m : Word) (n : Nat) : (advLanes st m n).spill = st.spill := rfl
@[simp] theorem advLanes_seq (st : Strand) (m : Word) (n : Nat) : (advLanes st m n).seq = st.seq := rfl
@[simp] theorem advLanes_last (st : Strand) (m : Word) (n : Nat) : (advLanes st m n).last = st.last := rfl
@[simp] theorem advLanes_barN (st : Strand) (m : Word) (n : Nat) : (advLanes st m n).barN = st.barN := rfl
@[simp] theorem advLanes_arrived (st : Strand) (m : Word) (n : Nat) : (advLanes st m n).arrived = st.arrived := rfl
@[simp] theorem advLanes_dur (st : Strand) (m : Word) (n : Nat) : (advLanes st m n).dur = st.dur := rfl
@[simp] theorem advLanes_phMask (st : Strand) (m : Word) (n : Nat) : (advLanes st m n).phMask = st.phMask := rfl
@[simp] theorem advLanes_phLen (st : Strand) (m : Word) (n : Nat) : (advLanes st m n).phLen = st.phLen := rfl
@[simp] theorem advLanes_stopped (st : Strand) (m : Word) (n : Nat) : (advLanes st m n).stopped = st.stopped := rfl
@[simp] theorem advLanes_bnd (st : Strand) (m : Word) (n : Nat) : (advLanes st m n).bnd = st.bnd := rfl

/-! ### `issueOut` -/

@[simp] theorem issueOut_sid (st : Strand) (k : Cls) (id : Nat) : (issueOut st k id).sid = st.sid := rfl
@[simp] theorem issueOut_st (st : Strand) (k : Cls) (id : Nat) : (issueOut st k id).st = st.st := rfl
@[simp] theorem issueOut_lanes (st : Strand) (k : Cls) (id : Nat) : (issueOut st k id).lanes = st.lanes := rfl
@[simp] theorem issueOut_k (st : Strand) (k : Cls) (id : Nat) : (issueOut st k id).k = st.k := rfl
@[simp] theorem issueOut_frames (st : Strand) (k : Cls) (id : Nat) : (issueOut st k id).frames = st.frames := rfl
@[simp] theorem issueOut_handler (st : Strand) (k : Cls) (id : Nat) : (issueOut st k id).handler = st.handler := rfl
@[simp] theorem issueOut_prio (st : Strand) (k : Cls) (id : Nat) : (issueOut st k id).prio = st.prio := rfl
@[simp] theorem issueOut_eff (st : Strand) (k : Cls) (id : Nat) : (issueOut st k id).eff = st.eff := rfl
@[simp] theorem issueOut_age (st : Strand) (k : Cls) (id : Nat) : (issueOut st k id).age = st.age := rfl
@[simp] theorem issueOut_npc (st : Strand) (k : Cls) (id : Nat) : (issueOut st k id).npc = st.npc := rfl
@[simp] theorem issueOut_nopre (st : Strand) (k : Cls) (id : Nat) : (issueOut st k id).nopre = st.nopre := rfl
@[simp] theorem issueOut_hold (st : Strand) (k : Cls) (id : Nat) : (issueOut st k id).hold = st.hold := rfl
@[simp] theorem issueOut_sigstat (st : Strand) (k : Cls) (id : Nat) : (issueOut st k id).sigstat = st.sigstat := rfl
@[simp] theorem issueOut_latch (st : Strand) (k : Cls) (id : Nat) : (issueOut st k id).latch = st.latch := rfl
@[simp] theorem issueOut_block (st : Strand) (k : Cls) (id : Nat) : (issueOut st k id).block = st.block := rfl
@[simp] theorem issueOut_trapPend (st : Strand) (k : Cls) (id : Nat) : (issueOut st k id).trapPend = st.trapPend := rfl
@[simp] theorem issueOut_due (st : Strand) (k : Cls) (id : Nat) : (issueOut st k id).due = st.due := rfl
@[simp] theorem issueOut_trial (st : Strand) (k : Cls) (id : Nat) : (issueOut st k id).trial = st.trial := rfl
@[simp] theorem issueOut_spill (st : Strand) (k : Cls) (id : Nat) : (issueOut st k id).spill = st.spill := rfl
@[simp] theorem issueOut_seq (st : Strand) (k : Cls) (id : Nat) : (issueOut st k id).seq = st.seq := rfl
@[simp] theorem issueOut_last (st : Strand) (k : Cls) (id : Nat) : (issueOut st k id).last = st.last := rfl
@[simp] theorem issueOut_barN (st : Strand) (k : Cls) (id : Nat) : (issueOut st k id).barN = st.barN := rfl
@[simp] theorem issueOut_arrived (st : Strand) (k : Cls) (id : Nat) : (issueOut st k id).arrived = st.arrived := rfl
@[simp] theorem issueOut_dur (st : Strand) (k : Cls) (id : Nat) : (issueOut st k id).dur = st.dur := rfl
@[simp] theorem issueOut_phMask (st : Strand) (k : Cls) (id : Nat) : (issueOut st k id).phMask = st.phMask := rfl
@[simp] theorem issueOut_phLen (st : Strand) (k : Cls) (id : Nat) : (issueOut st k id).phLen = st.phLen := rfl
@[simp] theorem issueOut_stopped (st : Strand) (k : Cls) (id : Nat) : (issueOut st k id).stopped = st.stopped := rfl
@[simp] theorem issueOut_bnd (st : Strand) (k : Cls) (id : Nat) : (issueOut st k id).bnd = st.bnd := rfl

/-! ### `writeV` -/

@[simp] theorem writeV_sid (st : Strand) (r l : Nat) (v : RVal) : (writeV st r l v).sid = st.sid := by
  unfold writeV; repeat' split
  all_goals rfl
@[simp] theorem writeV_st (st : Strand) (r l : Nat) (v : RVal) : (writeV st r l v).st = st.st := by
  unfold writeV; repeat' split
  all_goals rfl
@[simp] theorem writeV_lanes (st : Strand) (r l : Nat) (v : RVal) : (writeV st r l v).lanes = st.lanes := by
  unfold writeV; repeat' split
  all_goals rfl
@[simp] theorem writeV_k (st : Strand) (r l : Nat) (v : RVal) : (writeV st r l v).k = st.k := by
  unfold writeV; repeat' split
  all_goals rfl
@[simp] theorem writeV_prio (st : Strand) (r l : Nat) (v : RVal) : (writeV st r l v).prio = st.prio := by
  unfold writeV; repeat' split
  all_goals rfl
@[simp] theorem writeV_eff (st : Strand) (r l : Nat) (v : RVal) : (writeV st r l v).eff = st.eff := by
  unfold writeV; repeat' split
  all_goals rfl
@[simp] theorem writeV_age (st : Strand) (r l : Nat) (v : RVal) : (writeV st r l v).age = st.age := by
  unfold writeV; repeat' split
  all_goals rfl
@[simp] theorem writeV_npc (st : Strand) (r l : Nat) (v : RVal) : (writeV st r l v).npc = st.npc := by
  unfold writeV; repeat' split
  all_goals rfl
@[simp] theorem writeV_nopre (st : Strand) (r l : Nat) (v : RVal) : (writeV st r l v).nopre = st.nopre := by
  unfold writeV; repeat' split
  all_goals rfl
@[simp] theorem writeV_out (st : Strand) (r l : Nat) (v : RVal) : (writeV st r l v).out = st.out := by
  unfold writeV; repeat' split
  all_goals rfl
@[simp] theorem writeV_hold (st : Strand) (r l : Nat) (v : RVal) : (writeV st r l v).hold = st.hold := by
  unfold writeV; repeat' split
  all_goals rfl
@[simp] theorem writeV_sigstat (st : Strand) (r l : Nat) (v : RVal) : (writeV st r l v).sigstat = st.sigstat := by
  unfold writeV; repeat' split
  all_goals rfl
@[simp] theorem writeV_latch (st : Strand) (r l : Nat) (v : RVal) : (writeV st r l v).latch = st.latch := by
  unfold writeV; repeat' split
  all_goals rfl
@[simp] theorem writeV_block (st : Strand) (r l : Nat) (v : RVal) : (writeV st r l v).block = st.block := by
  unfold writeV; repeat' split
  all_goals rfl
@[simp] theorem writeV_trapPend (st : Strand) (r l : Nat) (v : RVal) : (writeV st r l v).trapPend = st.trapPend := by
  unfold writeV; repeat' split
  all_goals rfl
@[simp] theorem writeV_due (st : Strand) (r l : Nat) (v : RVal) : (writeV st r l v).due = st.due := by
  unfold writeV; repeat' split
  all_goals rfl
@[simp] theorem writeV_trial (st : Strand) (r l : Nat) (v : RVal) : (writeV st r l v).trial = st.trial := by
  unfold writeV; repeat' split
  all_goals rfl
@[simp] theorem writeV_spill (st : Strand) (r l : Nat) (v : RVal) : (writeV st r l v).spill = st.spill := by
  unfold writeV; repeat' split
  all_goals rfl
@[simp] theorem writeV_seq (st : Strand) (r l : Nat) (v : RVal) : (writeV st r l v).seq = st.seq := by
  unfold writeV; repeat' split
  all_goals rfl
@[simp] theorem writeV_last (st : Strand) (r l : Nat) (v : RVal) : (writeV st r l v).last = st.last := by
  unfold writeV; repeat' split
  all_goals rfl
@[simp] theorem writeV_barN (st : Strand) (r l : Nat) (v : RVal) : (writeV st r l v).barN = st.barN := by
  unfold writeV; repeat' split
  all_goals rfl
@[simp] theorem writeV_arrived (st : Strand) (r l : Nat) (v : RVal) : (writeV st r l v).arrived = st.arrived := by
  unfold writeV; repeat' split
  all_goals rfl
@[simp] theorem writeV_dur (st : Strand) (r l : Nat) (v : RVal) : (writeV st r l v).dur = st.dur := by
  unfold writeV; repeat' split
  all_goals rfl
@[simp] theorem writeV_phMask (st : Strand) (r l : Nat) (v : RVal) : (writeV st r l v).phMask = st.phMask := by
  unfold writeV; repeat' split
  all_goals rfl
@[simp] theorem writeV_phLen (st : Strand) (r l : Nat) (v : RVal) : (writeV st r l v).phLen = st.phLen := by
  unfold writeV; repeat' split
  all_goals rfl
@[simp] theorem writeV_stopped (st : Strand) (r l : Nat) (v : RVal) : (writeV st r l v).stopped = st.stopped := by
  unfold writeV; repeat' split
  all_goals rfl
@[simp] theorem writeV_bnd (st : Strand) (r l : Nat) (v : RVal) : (writeV st r l v).bnd = st.bnd := by
  unfold writeV; repeat' split
  all_goals rfl

/-! ### `writeK` -/

@[simp] theorem writeK_sid (st : Strand) (n : Nat) (v : RVal) : (writeK st n v).sid = st.sid := by
  unfold writeK; repeat' split
  all_goals rfl
@[simp] theorem writeK_st (st : Strand) (n : Nat) (v : RVal) : (writeK st n v).st = st.st := by
  unfold writeK; repeat' split
  all_goals rfl
@[simp] theorem writeK_lanes (st : Strand) (n : Nat) (v : RVal) : (writeK st n v).lanes = st.lanes := by
  unfold writeK; repeat' split
  all_goals rfl
@[simp] theorem writeK_frames (st : Strand) (n : Nat) (v : RVal) : (writeK st n v).frames = st.frames := by
  unfold writeK; repeat' split
  all_goals rfl
@[simp] theorem writeK_prio (st : Strand) (n : Nat) (v : RVal) : (writeK st n v).prio = st.prio := by
  unfold writeK; repeat' split
  all_goals rfl
@[simp] theorem writeK_eff (st : Strand) (n : Nat) (v : RVal) : (writeK st n v).eff = st.eff := by
  unfold writeK; repeat' split
  all_goals rfl
@[simp] theorem writeK_age (st : Strand) (n : Nat) (v : RVal) : (writeK st n v).age = st.age := by
  unfold writeK; repeat' split
  all_goals rfl
@[simp] theorem writeK_npc (st : Strand) (n : Nat) (v : RVal) : (writeK st n v).npc = st.npc := by
  unfold writeK; repeat' split
  all_goals rfl
@[simp] theorem writeK_nopre (st : Strand) (n : Nat) (v : RVal) : (writeK st n v).nopre = st.nopre := by
  unfold writeK; repeat' split
  all_goals rfl
@[simp] theorem writeK_out (st : Strand) (n : Nat) (v : RVal) : (writeK st n v).out = st.out := by
  unfold writeK; repeat' split
  all_goals rfl
@[simp] theorem writeK_hold (st : Strand) (n : Nat) (v : RVal) : (writeK st n v).hold = st.hold := by
  unfold writeK; repeat' split
  all_goals rfl
@[simp] theorem writeK_sigstat (st : Strand) (n : Nat) (v : RVal) : (writeK st n v).sigstat = st.sigstat := by
  unfold writeK; repeat' split
  all_goals rfl
@[simp] theorem writeK_latch (st : Strand) (n : Nat) (v : RVal) : (writeK st n v).latch = st.latch := by
  unfold writeK; repeat' split
  all_goals rfl
@[simp] theorem writeK_block (st : Strand) (n : Nat) (v : RVal) : (writeK st n v).block = st.block := by
  unfold writeK; repeat' split
  all_goals rfl
@[simp] theorem writeK_trapPend (st : Strand) (n : Nat) (v : RVal) : (writeK st n v).trapPend = st.trapPend := by
  unfold writeK; repeat' split
  all_goals rfl
@[simp] theorem writeK_due (st : Strand) (n : Nat) (v : RVal) : (writeK st n v).due = st.due := by
  unfold writeK; repeat' split
  all_goals rfl
@[simp] theorem writeK_trial (st : Strand) (n : Nat) (v : RVal) : (writeK st n v).trial = st.trial := by
  unfold writeK; repeat' split
  all_goals rfl
@[simp] theorem writeK_spill (st : Strand) (n : Nat) (v : RVal) : (writeK st n v).spill = st.spill := by
  unfold writeK; repeat' split
  all_goals rfl
@[simp] theorem writeK_seq (st : Strand) (n : Nat) (v : RVal) : (writeK st n v).seq = st.seq := by
  unfold writeK; repeat' split
  all_goals rfl
@[simp] theorem writeK_last (st : Strand) (n : Nat) (v : RVal) : (writeK st n v).last = st.last := by
  unfold writeK; repeat' split
  all_goals rfl
@[simp] theorem writeK_barN (st : Strand) (n : Nat) (v : RVal) : (writeK st n v).barN = st.barN := by
  unfold writeK; repeat' split
  all_goals rfl
@[simp] theorem writeK_arrived (st : Strand) (n : Nat) (v : RVal) : (writeK st n v).arrived = st.arrived := by
  unfold writeK; repeat' split
  all_goals rfl
@[simp] theorem writeK_dur (st : Strand) (n : Nat) (v : RVal) : (writeK st n v).dur = st.dur := by
  unfold writeK; repeat' split
  all_goals rfl
@[simp] theorem writeK_phMask (st : Strand) (n : Nat) (v : RVal) : (writeK st n v).phMask = st.phMask := by
  unfold writeK; repeat' split
  all_goals rfl
@[simp] theorem writeK_phLen (st : Strand) (n : Nat) (v : RVal) : (writeK st n v).phLen = st.phLen := by
  unfold writeK; repeat' split
  all_goals rfl
@[simp] theorem writeK_stopped (st : Strand) (n : Nat) (v : RVal) : (writeK st n v).stopped = st.stopped := by
  unfold writeK; repeat' split
  all_goals rfl
@[simp] theorem writeK_bnd (st : Strand) (n : Nat) (v : RVal) : (writeK st n v).bnd = st.bnd := by
  unfold writeK; repeat' split
  all_goals rfl

end Sys2Proof.Machine
end

