-- ==== Sys2Proof/Laws/Registers.lean ====
section
/-! SUPPORT. Reads after writes of cores, strands, lanes, registers and predicates. -/

namespace Sys2Proof.Machine

/-! ### Cores and strands -/

@[simp] theorem getCore_setCore_same (s : State) (c : Nat) (x : Core) : getCore (setCore s c x) c = some x :=
  aget_aput_same _ _ _

theorem getCore_setCore_ne (s : State) {c d : Nat} (h : d ≠ c) (x : Core) : getCore (setCore s c x) d = getCore s d :=
  aget_aput_ne _ h _

theorem getCore_modCore_same {s : State} {c : Nat} {x : Core} (h : getCore s c = some x) (f : Core → Core) :
    getCore (modCore s c f) c = some (f x) :=
  aget_amod_same h f

theorem getCore_modCore_ne (s : State) {c d : Nat} (h : d ≠ c) (f : Core → Core) : getCore (modCore s c f) d = getCore s d :=
  aget_amod_ne _ h _

theorem modCore_eq_setCore {s : State} {c : Nat} {x : Core} (h : getCore s c = some x) (f : Core → Core) :
    modCore s c f = setCore s c (f x) := by
  simp only [modCore, setCore]; rw [amod_eq_aput h]

theorem setCore_setCore (s : State) (c : Nat) (x y : Core) : setCore (setCore s c x) c y = setCore s c y := by
  simp only [setCore]; rw [aput_aput_same]

theorem modCore_setCore (s : State) (c : Nat) (x : Core) (f : Core → Core) : modCore (setCore s c x) c f = setCore s c (f x) := by
  rw [modCore_eq_setCore (getCore_setCore_same s c x), setCore_setCore]

/-- A strand changed in its core is the core set with it. -/
theorem modStrand_eq {s : State} {c sl : Nat} {x : Core} {st : Strand} (h : getCore s c = some x) (g : aget x.strands sl = some st)
    (f : Strand → Strand) : modStrand s c sl f = setCore s c { x with strands := aput x.strands sl (f st) } := by
  rw [modStrand, modCore_eq_setCore h, amod_eq_aput g]

theorem getStrand_modStrand_same {s : State} {c sl : Nat} {x : Core} {st : Strand} (h : getCore s c = some x)
    (g : aget x.strands sl = some st) (f : Strand → Strand) : getStrand (modStrand s c sl f) c sl = some (f st) := by
  rw [modStrand_eq h g]; simp [getStrand, aget_aput_same]

/-- What names the issuer: its core and its strand. -/
theorem issuer_some {s : State} {x : Core} {st : Strand} {u : Cur} (h : issuer s = some (x, st, u)) :
    s.cur = some u ∧ getCore s u.core = some x ∧ aget x.strands u.slot = some st := by
  unfold issuer at h
  split at h
  · cases h
  · rename_i v hv
    split at h
    · cases h
    · rename_i y hy
      obtain ⟨z, hz, h2⟩ := Option.map_eq_some_iff.1 h
      cases h2
      exact ⟨hv, hy, hz⟩

theorem modStrand_issuer {s : State} {x : Core} {st : Strand} {u : Cur} (h : issuer s = some (x, st, u)) (f : Strand → Strand) :
    modStrand s u.core u.slot f = withStrand s u (f st) := by
  obtain ⟨-, hc, hs⟩ := issuer_some h
  rw [withStrand, modStrand_eq hc hs, modStrand_eq hc hs]

theorem setCore_issuer {s : State} {x : Core} {st : Strand} {u : Cur} (h : issuer s = some (x, st, u)) (st' : Strand) :
    setCore s u.core { x with strands := aput x.strands u.slot st' } = withStrand s u st' := by
  obtain ⟨-, hc, hs⟩ := issuer_some h
  rw [withStrand, modStrand_eq hc hs]

theorem getCore_withStrand {s : State} {x : Core} {st : Strand} {u : Cur} (h : issuer s = some (x, st, u)) (st' : Strand) :
    getCore (withStrand s u st') u.core = some { x with strands := aput x.strands u.slot st' } := by
  rw [← setCore_issuer h]; simp

theorem modStrand_withStrand {s : State} {x : Core} {st : Strand} {u : Cur} (h : issuer s = some (x, st, u)) (st' : Strand)
    (f : Strand → Strand) : modStrand (withStrand s u st') u.core u.slot f = withStrand s u (f st') := by
  rw [modStrand_eq (getCore_withStrand h st') (aget_aput_same _ _ _), ← setCore_issuer h, setCore_setCore, ← setCore_issuer h]
  simp [aput_aput_same]

/-! ### Lanes -/

@[simp] theorem length_lmod {α : Type} (l : List α) (n : Nat) (f : α → α) : (lmod l n f).length = l.length := by
  induction l generalizing n with
  | nil => rfl
  | cons a t ih => cases n with
    | zero => rfl
    | succ n => simp [lmod, ih]

theorem getD_lmod {α : Type} (l : List α) (n k : Nat) (f : α → α) (d : α) :
    (lmod l n f).getD k d = if k = n ∧ n < l.length then f (l.getD k d) else l.getD k d := by
  induction l generalizing n k with
  | nil => simp [lmod]
  | cons a t ih => cases n with
    | zero => cases k <;> simp [lmod]
    | succ n => cases k with
      | zero => simp [lmod]
      | succ k => simp only [lmod, List.getD_cons_succ, ih]; simp

theorem lane_modLane {st : Strand} (h : st.lanes.length = 32) {l k : Nat} (hk : k < 32) (f : Lane → Lane) :
    lane (modLane st l f) k = if k = l then f (lane st k) else lane st k := by
  unfold lane modLane
  simp only [getD_lmod]
  by_cases e : k = l
  · subst e; simp [h, hk]
  · simp [e]

theorem lane_modLanes {st : Strand} (h : st.lanes.length = 32) (m : Word) {k : Nat} (hk : k < 32) (f : Lane → Lane) :
    lane (modLanes st m f) k = if inMask m k then f (lane st k) else lane st k := by
  unfold lane modLanes
  simp only [List.getD_eq_getElem?_getD, List.getElem?_mapIdx]
  rw [List.getElem?_eq_getElem (by omega : k < st.lanes.length)]
  simp

@[simp] theorem length_modLanes (st : Strand) (m : Word) (f : Lane → Lane) : (modLanes st m f).lanes.length = st.lanes.length := by
  simp [modLanes]

@[simp] theorem length_modLane (st : Strand) (l : Nat) (f : Lane → Lane) : (modLane st l f).lanes.length = st.lanes.length := by
  simp [modLane]

@[simp] theorem length_advLanes (st : Strand) (m : Word) (n : Nat) : (advLanes st m n).lanes.length = st.lanes.length := by
  simp [advLanes]

/-- Two strands that agree in every lane have equal lists of lanes. -/
theorem lanes_ext {a b : List Lane} (ha : a.length = 32) (hb : b.length = 32) (h : ∀ l, l < 32 → a.getD l Lane.idle = b.getD l Lane.idle) :
    a = b := by
  apply List.ext_getElem (by omega)
  intro i h1 h2
  have := h i (by omega)
  simpa [List.getD_eq_getElem?_getD, h1, h2] using this

/-! ### Masks -/

theorem foldl_bits (p : Nat → Bool) (n : Nat) :
    (List.range n).foldl (fun a l => if p l then a + 2 ^ l else a) 0 < 2 ^ n ∧
      ∀ k, k < n → ((List.range n).foldl (fun a l => if p l then a + 2 ^ l else a) 0).testBit k = p k := by
  induction n with
  | zero => simp
  | succ n ih =>
    rw [List.range_succ, List.foldl_append]
    simp only [List.foldl_cons, List.foldl_nil]
    generalize (List.range n).foldl (fun a l => if p l then a + 2 ^ l else a) 0 = v at ih
    obtain ⟨hv, hb⟩ := ih
    cases hp : p n
    · simp only [Bool.false_eq_true, if_false]
      refine ⟨by omega, fun k hk => ?_⟩
      by_cases e : k = n
      · subst e; rw [hp]; exact Nat.testBit_lt_two_pow hv
      · exact hb k (by omega)
    · simp only [if_true]
      refine ⟨by omega, fun k hk => ?_⟩
      rw [Nat.add_comm]
      by_cases e : k = n
      · subst e; rw [Nat.testBit_two_pow_add_eq, hp, Nat.testBit_lt_two_pow hv]; rfl
      · rw [Nat.testBit_two_pow_add_gt (by omega)]; exact hb k (by omega)

/-- A lane is in the mask of the lanes that a test admits when the test admits it. -/
theorem inMask_maskOf (p : Nat → Bool) {l : Nat} (h : l < 32) : inMask (maskOf p) l = p l := by
  unfold inMask maskOf
  rw [BitVec.getLsbD_ofNat]
  simp [h, (foldl_bits p 32).2 l h]

theorem inMask_ge (m : Word) {l : Nat} (h : 32 ≤ l) : inMask m l = false := BitVec.getLsbD_of_ge m l h

theorem inMask_lt {m : Word} {l : Nat} (h : inMask m l = true) : l < 32 := by
  by_contra e; rw [inMask_ge m (by omega)] at h; cases h

theorem inMask_zero (l : Nat) : inMask 0 l = false := by simp [inMask]

theorem mask_ext {a b : Word} (h : ∀ l, l < 32 → inMask a l = inMask b l) : a = b :=
  BitVec.eq_of_getLsbD_eq fun i hi => h i hi

theorem mem_lanesOf {m : Word} {l : Nat} : l ∈ lanesOf m ↔ inMask m l = true := by
  simp only [lanesOf, List.mem_filter, List.mem_range]
  exact ⟨fun h => h.2, fun h => ⟨inMask_lt h, h⟩⟩

theorem nodup_lanesOf (m : Word) : (lanesOf m).Nodup := List.Nodup.filter _ List.nodup_range

theorem mask_ne_zero {m : Word} : m ≠ 0 ↔ ∃ l, inMask m l = true := by
  constructor
  · intro h
    by_contra e
    apply h
    apply mask_ext
    intro l _
    rw [inMask_zero]
    cases hl : inMask m l
    · rfl
    · exact absurd ⟨l, hl⟩ e
  · rintro ⟨l, hl⟩ rfl
    rw [inMask_zero] at hl; cases hl

/-! ### The executing lanes -/

theorem executes_lt {f : Form} {st : Strand} {u : Cur} {l : Nat} (h : executes f st u l = true) : l < 32 := by
  unfold executes at h
  rw [Bool.and_eq_true] at h
  exact inMask_lt h.1

theorem inMask_execMask (f : Form) (st : Strand) (u : Cur) (l : Nat) : inMask (execMask f st u) l = executes f st u l := by
  by_cases h : l < 32
  · exact inMask_maskOf _ h
  · rw [inMask_ge _ (by omega)]
    cases e : executes f st u l
    · rfl
    · exact absurd (executes_lt e) h

theorem inMask_idleMask (f : Form) (st : Strand) (u : Cur) (l : Nat) :
    inMask (idleMask f st u) l = (inMask u.mask l && !(guardOf f (lane st l)).1) := by
  by_cases h : l < 32
  · exact inMask_maskOf _ h
  · rw [inMask_ge _ (by omega), inMask_ge _ (by omega)]; rfl

/-! ### Registers -/

theorem rget_rset {m : SMap RVal} (w : swf RVal.zero m = true) {r l k j : Nat} (hl : l < 32) (hj : j < 32) (v : RVal) :
    rget (rset m r l v) k j = if k = r ∧ j = l then v else rget m k j := by
  unfold rget rset
  rw [sget_sset w]
  by_cases h : k = r ∧ j = l
  · rw [if_pos h, if_pos (by omega)]
  · rw [if_neg h, if_neg (by omega)]

theorem wf_rset {m : SMap RVal} (w : swf RVal.zero m = true) (r l : Nat) (v : RVal) : swf RVal.zero (rset m r l v) = true :=
  swf_sset w _ _

theorem Strand.wf_iff (st : Strand) : st.wf = true ↔ st.lanes.length = 32 ∧ st.frames ≠ [] ∧ swf RVal.zero st.k = true ∧
    (∀ g ∈ st.frames, swf RVal.zero g.regs = true) ∧
    ∀ h, st.handler = some h → swf RVal.zero h.regs = true ∧ swf RVal.zero h.k = true := by
  unfold Strand.wf
  cases hh : st.handler with
  | none => simp [and_assoc]
  | some h => simp [and_assoc]

theorem wf_curRegs {st : Strand} (w : st.wf = true) : swf RVal.zero (curRegs st) = true := by
  obtain ⟨-, -, -, hf, hh⟩ := st.wf_iff.1 w
  unfold curRegs
  split
  · exact (hh _ ‹_›).1
  · cases e : st.frames with
    | nil => rfl
    | cons g t => simpa using hf g (by rw [e]; exact List.mem_cons_self)

theorem curRegs_writeV {st : Strand} (h : st.frames ≠ []) (r l : Nat) (v : RVal) : curRegs (writeV st r l v) = rset (curRegs st) r l v := by
  unfold curRegs writeV
  cases e : st.handler with
  | some k => simp
  | none =>
    cases e2 : st.frames with
    | nil => exact absurd e2 h
    | cons g t => simp

theorem frames_writeV {st : Strand} (h : st.frames ≠ []) (r l : Nat) (v : RVal) : (writeV st r l v).frames ≠ [] := by
  unfold writeV
  cases st.handler with
  | some k => exact h
  | none =>
    cases e2 : st.frames with
    | nil => exact absurd e2 h
    | cons g t => simp

theorem wf_writeV {st : Strand} (w : st.wf = true) (r l : Nat) (v : RVal) : (writeV st r l v).wf = true := by
  obtain ⟨h1, h0, h2, h3, h4⟩ := st.wf_iff.1 w
  rw [Strand.wf_iff]
  unfold writeV
  cases e : st.handler with
  | some k =>
    obtain ⟨hr, hk⟩ := h4 k e
    refine ⟨h1, h0, h2, h3, ?_⟩
    intro h hh
    cases hh
    exact ⟨wf_rset hr _ _ _, hk⟩
  | none =>
    cases e2 : st.frames with
    | nil => exact absurd e2 h0
    | cons g t =>
      refine ⟨h1, by simp, h2, ?_, ?_⟩
      · intro g' hg'
        rcases List.mem_cons.1 hg' with rfl | hm
        · exact wf_rset (h3 g (by rw [e2]; exact List.mem_cons_self)) _ _ _
        · exact h3 g' (by rw [e2]; exact List.mem_cons_of_mem _ hm)
      · intro h hh
        exact absurd hh (by simp)

/-- A lane register read after a write. -/
theorem readV_writeV {st : Strand} (w : st.wf = true) {r l k j : Nat} (hl : l < 32) (hj : j < 32) (v : RVal) :
    readV (writeV st r l v) k j = if k = r ∧ j = l then v else readV st k j := by
  unfold readV
  rw [curRegs_writeV (st.wf_iff.1 w).2.1, rget_rset (wf_curRegs w) hl hj]

theorem readK_writeV (st : Strand) (r l n : Nat) (v : RVal) : readK (writeV st r l v) n = readK st n := by
  unfold readK writeV
  cases e : st.handler with
  | some k => simp
  | none =>
    cases e2 : st.frames with
    | nil => simp [e]
    | cons g t => simp

theorem curRegs_writeK (st : Strand) (n : Nat) (v : RVal) : curRegs (writeK st n v) = curRegs st := by
  unfold curRegs writeK
  cases e : st.handler with
  | none => simp
  | some k => by_cases h : 56 ≤ n <;> simp [h]

theorem readV_writeK (st : Strand) (n r l : Nat) (v : RVal) : readV (writeK st n v) r l = readV st r l := by
  unfold readV; rw [curRegs_writeK]

/-- A uniform register read after a write. -/
theorem readK_writeK {st : Strand} (w : st.wf = true) (n k : Nat) (v : RVal) :
    readK (writeK st n v) k = if k = n then v else readK st k := by
  obtain ⟨-, -, h2, -, h4⟩ := st.wf_iff.1 w
  unfold readK writeK
  cases e : st.handler with
  | none => rw [sget_sset h2]
  | some h =>
    obtain ⟨-, hk⟩ := h4 h e
    by_cases hn : 56 ≤ n
    · simp only [hn, if_true]
      by_cases hk2 : 56 ≤ k
      · simp only [hk2, if_true]; rw [sget_sset hk]
      · simp only [hk2, if_false]; rw [if_neg (by omega)]
    · simp only [hn, if_false]
      by_cases hk2 : 56 ≤ k
      · simp only [hk2, if_true]; rw [if_neg (by omega)]
      · simp only [hk2, if_false]; rw [sget_sset h2]

theorem wf_writeK {st : Strand} (w : st.wf = true) (n : Nat) (v : RVal) : (writeK st n v).wf = true := by
  obtain ⟨h1, h0, h2, h3, h4⟩ := st.wf_iff.1 w
  rw [Strand.wf_iff]
  unfold writeK
  cases e : st.handler with
  | none =>
    refine ⟨h1, h0, swf_sset h2 _ _, h3, ?_⟩
    intro h hh
    exact absurd hh (by simp)
  | some k =>
    obtain ⟨hr, hk⟩ := h4 k e
    by_cases hn : 56 ≤ n
    · simp only [hn, if_true]
      refine ⟨h1, h0, h2, h3, ?_⟩
      intro h hh; cases hh
      exact ⟨hr, swf_sset hk _ _⟩
    · simp only [hn, if_false]
      refine ⟨h1, h0, swf_sset h2 _ _, h3, ?_⟩
      intro h hh
      cases hh; exact ⟨hr, hk⟩

theorem wf_modLane {st : Strand} (w : st.wf = true) (l : Nat) (f : Lane → Lane) : (modLane st l f).wf = true := by
  rw [Strand.wf_iff] at *
  simpa using w

theorem wf_modLanes {st : Strand} (w : st.wf = true) (m : Word) (f : Lane → Lane) : (modLanes st m f).wf = true := by
  rw [Strand.wf_iff] at *
  simpa using w

/-! ### Several words -/

theorem writeVs_lanes (st : Strand) (r l : Nat) (vs : List RVal) : (writeVs st r l vs).lanes = st.lanes := by
  induction vs generalizing st r with
  | nil => rfl
  | cons v t ih => simp [writeVs, ih]

theorem wf_writeVs {st : Strand} (w : st.wf = true) (r l : Nat) (vs : List RVal) : (writeVs st r l vs).wf = true := by
  induction vs generalizing st r with
  | nil => exact w
  | cons v t ih => exact ih (wf_writeV w r l v) _

/-- A lane register read after words are written from a register on. -/
theorem readV_writeVs {st : Strand} (w : st.wf = true) {r l k j : Nat} (hl : l < 32) (hj : j < 32) (vs : List RVal) :
    readV (writeVs st r l vs) k j =
      if j = l ∧ r ≤ k ∧ k < r + vs.length then vs.getD (k - r) RVal.zero else readV st k j := by
  induction vs generalizing st r with
  | nil => simp only [writeVs, List.length_nil]; rw [if_neg (by omega)]
  | cons v t ih =>
    simp only [writeVs, List.length_cons]
    rw [ih (wf_writeV w r l v), readV_writeV w hl hj]
    by_cases e : k = r ∧ j = l
    · obtain ⟨rfl, rfl⟩ := e
      rw [if_neg (by omega), if_pos ⟨rfl, rfl⟩, if_pos (by omega)]; simp
    · by_cases e2 : j = l ∧ r + 1 ≤ k ∧ k < r + 1 + t.length
      · rw [if_pos e2, if_pos (by omega)]
        have : k - r = (k - (r + 1)) + 1 := by omega
        rw [this]; simp
      · rw [if_neg e2, if_neg e, if_neg (by omega)]

theorem readK_writeVs (st : Strand) (r l n : Nat) (vs : List RVal) : readK (writeVs st r l vs) n = readK st n := by
  induction vs generalizing st r with
  | nil => rfl
  | cons v t ih => simp only [writeVs]; rw [ih, readK_writeV]

theorem wf_writeKs {st : Strand} (w : st.wf = true) (r : Nat) (vs : List RVal) : (writeKs st r vs).wf = true := by
  induction vs generalizing st r with
  | nil => exact w
  | cons v t ih => exact ih (wf_writeK w r v) _

theorem readV_writeKs (st : Strand) (r k j : Nat) (vs : List RVal) : readV (writeKs st r vs) k j = readV st k j := by
  induction vs generalizing st r with
  | nil => rfl
  | cons v t ih => simp only [writeKs]; rw [ih, readV_writeK]

theorem writeKs_lanes (st : Strand) (r : Nat) (vs : List RVal) : (writeKs st r vs).lanes = st.lanes := by
  induction vs generalizing st r with
  | nil => rfl
  | cons v t ih => simp [writeKs, ih]

/-- A uniform register read after words are written from a register on. -/
theorem readK_writeKs {st : Strand} (w : st.wf = true) (r k : Nat) (vs : List RVal) :
    readK (writeKs st r vs) k = if r ≤ k ∧ k < r + vs.length then vs.getD (k - r) RVal.zero else readK st k := by
  induction vs generalizing st r with
  | nil => simp only [writeKs, List.length_nil]; rw [if_neg (by omega)]
  | cons v t ih =>
    simp only [writeKs, List.length_cons]
    rw [ih (wf_writeK w r v), readK_writeK w]
    by_cases e : k = r
    · subst e; rw [if_neg (by omega), if_pos rfl, if_pos (by omega)]; simp
    · by_cases e2 : r + 1 ≤ k ∧ k < r + 1 + t.length
      · rw [if_pos e2, if_pos (by omega)]
        have : k - r = (k - (r + 1)) + 1 := by omega
        rw [this]; simp
      · rw [if_neg e2, if_neg e, if_neg (by omega)]

/-! ### Predicates -/

theorem getLsbD_setBit {w : Nat} (x : BitVec w) {n k : Nat} (hn : n < w) (hk : k < w) (b : Bool) :
    (setBit x n b).getLsbD k = if k = n then b else x.getLsbD k := by
  have key : (1#w <<< n).getLsbD k = decide (k = n) := by
    rw [BitVec.getLsbD_shiftLeft]
    by_cases e : k = n
    · subst e; simp [hk]; omega
    · by_cases h2 : k < n
      · simp [h2, e]
      · have h3 : (1#w).getLsbD (k - n) = false := by rw [BitVec.getLsbD_one]; simp; omega
        simp [h3, e]
  unfold setBit
  cases b
  · simp only [Bool.false_eq_true, if_false, BitVec.getLsbD_and, BitVec.getLsbD_not, key]
    by_cases e : k = n <;> simp [e, hk]
  · simp only [if_true, BitVec.getLsbD_or, key]
    by_cases e : k = n <;> simp [e]

/-- Predicate n read after a write; p7 reads true, and a write of it is discarded (R51). -/
theorem readP_writeP (la : Lane) {n k : Nat} (hn : n < 8) (hk : k < 8) (v p : Bool) :
    readP (writeP la n v p) k = if k = n ∧ n ≠ 7 then (v, p) else readP la k := by
  unfold readP writeP
  by_cases h7 : n = 7
  · subst h7; simp
  · by_cases hk7 : k = 7
    · subst hk7; simp [Ne.symm h7]
    · simp only [h7, hk7, if_false]
      rw [getLsbD_setBit _ (by omega) (by omega), getLsbD_setBit _ (by omega) (by omega)]
      by_cases e : k = n <;> simp [e, h7]

end Sys2Proof.Machine
end

