-- ==== Sys2Proof/Laws/Lanes.lean ====
section
/-! SUPPORT. What an instruction that acts lane by lane leaves, said once for `runLanes`, `runAlu` and `runCmp`; and what one
that acts once for its strand leaves, for `runStrand` and `runFrame`. -/

namespace Sys2Proof.Machine

/-! ### The lanes' results -/

/-- What of a strand a lane's result never changes. -/
def SameFrame (a b : Strand) : Prop :=
  { b with lanes := a.lanes, k := a.k, frames := a.frames, handler := a.handler } = a ∧
    b.frames.map (fun g => { g with regs := [] }) = a.frames.map (fun g => { g with regs := [] }) ∧ b.frames.drop 1 = a.frames.drop 1 ∧
    b.handler.map (fun h => { h with regs := [], k := [] }) = a.handler.map (fun h => { h with regs := [], k := [] })

theorem SameFrame.refl (a : Strand) : SameFrame a a := ⟨rfl, rfl, rfl, rfl⟩

theorem SameFrame.trans {a b c : Strand} (h : SameFrame a b) (g : SameFrame b c) : SameFrame a c := by
  obtain ⟨h1, h2, h3, h4⟩ := h
  obtain ⟨g1, g2, g3, g4⟩ := g
  refine ⟨?_, g2.trans h2, g3.trans h3, g4.trans h4⟩
  rw [← h1, ← g1]

theorem sameFrame_writeV (st : Strand) (r l : Nat) (v : RVal) : SameFrame st (writeV st r l v) := by
  unfold writeV
  cases e : st.handler with
  | some h => exact ⟨by simp, rfl, rfl, by simp [e]⟩
  | none =>
    cases e2 : st.frames with
    | nil => exact SameFrame.refl st
    | cons g t => exact ⟨by simp, by simp [e2], by simp [e2], by simp [e]⟩

theorem sameFrame_writeVs (st : Strand) (r l : Nat) (vs : List RVal) : SameFrame st (writeVs st r l vs) := by
  induction vs generalizing st r with
  | nil => exact SameFrame.refl st
  | cons v t ih => exact (sameFrame_writeV st r l v).trans (ih _ _)

theorem sameFrame_writeK (st : Strand) (n : Nat) (v : RVal) : SameFrame st (writeK st n v) := by
  unfold writeK
  cases e : st.handler with
  | none => exact ⟨by simp, rfl, rfl, by simp [e]⟩
  | some h =>
    by_cases hn : 56 ≤ n
    · simp only [hn, if_true]; exact ⟨by simp, rfl, rfl, by simp [e]⟩
    · simp only [hn, if_false]; exact ⟨by simp, rfl, rfl, by simp [e]⟩

theorem sameFrame_writeKs (st : Strand) (r : Nat) (vs : List RVal) : SameFrame st (writeKs st r vs) := by
  induction vs generalizing st r with
  | nil => exact SameFrame.refl st
  | cons v t ih => exact (sameFrame_writeK st r v).trans (ih _ _)

theorem sameFrame_modLane (st : Strand) (l : Nat) (f : Lane → Lane) : SameFrame st (modLane st l f) := ⟨rfl, rfl, rfl, rfl⟩

@[simp] theorem readV_modLane (st : Strand) (l : Nat) (f : Lane → Lane) (r k : Nat) : readV (modLane st l f) r k = readV st r k := rfl
@[simp] theorem readK_modLane (st : Strand) (l : Nat) (f : Lane → Lane) (n : Nat) : readK (modLane st l f) n = readK st n := rfl

theorem lane_writeVs (st : Strand) (r l k : Nat) (vs : List RVal) : lane (writeVs st r l vs) k = lane st k := by
  unfold lane; rw [writeVs_lanes]

theorem lane_writeKs (st : Strand) (r k : Nat) (vs : List RVal) : lane (writeKs st r vs) k = lane st k := by
  unfold lane; rw [writeKs_lanes]

/-- One lane's result. -/
theorem applyLane_spec {f : Form} {st : Strand} (w : st.wf = true) {l : Nat} (hl : l < 32) (ex : Bool) (o : LaneOut) :
    let t := applyLane f f.bytes st (l, if ex then .ok o else .skip)
    t.wf = true ∧ SameFrame st t ∧
    (∀ k, k < 32 → lane t k = if k = l then (if ex then laneDone f o (lane st k) else { lane st k with pcv := (lane st k).pcv + BitVec.ofNat 48 f.bytes })
      else lane st k) ∧
    (∀ r k, k < 32 → readV t r k =
      if k = l ∧ ex = true ∧ f.dk = false ∧ f.dst.toNat ≤ r ∧ r < f.dst.toNat + o.vals.length then o.vals.getD (r - f.dst.toNat) RVal.zero
      else readV st r k) ∧
    ∀ n, readK t n = readK st n := by
  have h32 := (st.wf_iff.1 w).1
  cases ex
  · refine ⟨wf_modLane w _ _, sameFrame_modLane _ _ _, ?_, ?_, fun n => rfl⟩
    · intro k hk; simp only [applyLane, Bool.false_eq_true, if_false]; rw [lane_modLane h32 hk]
    · intro r k _; simp [applyLane]
  · cases hdk : f.dk
    · have h32' : (writeVs st f.dst.toNat l o.vals).lanes.length = 32 := by rw [writeVs_lanes]; exact h32
      refine ⟨?_, ?_, ?_, ?_, ?_⟩
      · simp only [applyLane, if_true, hdk, Bool.false_eq_true, if_false]; exact wf_modLane (wf_writeVs w _ _ _) _ _
      · simp only [applyLane, if_true, hdk, Bool.false_eq_true, if_false]
        exact (sameFrame_writeVs _ _ _ _).trans (sameFrame_modLane _ _ _)
      · intro k hk
        simp only [applyLane, if_true, hdk, Bool.false_eq_true, if_false]
        rw [lane_modLane h32' hk, lane_writeVs]
        rfl
      · intro r k hk
        simp only [applyLane, if_true, hdk, Bool.false_eq_true, if_false, readV_modLane]
        rw [readV_writeVs w hl hk]
        simp
      · intro n
        simp only [applyLane, if_true, hdk, Bool.false_eq_true, if_false, readK_modLane]
        exact readK_writeVs _ _ _ _ _
    · refine ⟨?_, ?_, ?_, ?_, ?_⟩
      · simp only [applyLane, if_true, hdk]; exact wf_modLane w _ _
      · simp only [applyLane, if_true, hdk]; exact sameFrame_modLane _ _ _
      · intro k hk
        simp only [applyLane, if_true, hdk]
        rw [lane_modLane h32 hk]
        rfl
      · intro r k hk; simp [applyLane, hdk]
      · intro n; simp only [applyLane, if_true, hdk]; rfl

/-- The lanes' results one after the other. -/
theorem applyLanes_spec {f : Form} (ex : Nat → Bool) (out : Nat → LaneOut) (L : List Nat) (hL : L.Nodup) (h32 : ∀ l ∈ L, l < 32)
    {st : Strand} (w : st.wf = true) :
    let t := (L.map fun l => (l, if ex l then LaneAct.ok (out l) else .skip)).foldl (applyLane f f.bytes) st
    t.wf = true ∧ SameFrame st t ∧
    (∀ k, k < 32 → lane t k =
      if k ∈ L then (if ex k then laneDone f (out k) (lane st k) else { lane st k with pcv := (lane st k).pcv + BitVec.ofNat 48 f.bytes })
      else lane st k) ∧
    (∀ r k, k < 32 → readV t r k =
      if k ∈ L ∧ ex k = true ∧ f.dk = false ∧ f.dst.toNat ≤ r ∧ r < f.dst.toNat + (out k).vals.length then
        (out k).vals.getD (r - f.dst.toNat) RVal.zero
      else readV st r k) ∧
    ∀ n, readK t n = readK st n := by
  induction L generalizing st with
  | nil => exact ⟨w, SameFrame.refl st, by simp, by simp, by simp⟩
  | cons l t ih =>
    obtain ⟨hlt, ht⟩ := List.nodup_cons.1 hL
    obtain ⟨w1, s1, l1, r1, k1⟩ := applyLane_spec (f := f) w (h32 l List.mem_cons_self) (ex l) (out l)
    obtain ⟨w2, s2, l2, r2, k2⟩ := ih ht (fun m hm => h32 m (List.mem_cons_of_mem _ hm)) w1
    simp only [List.map_cons, List.foldl_cons]
    refine ⟨w2, s1.trans s2, ?_, ?_, fun n => (k2 n).trans (k1 n)⟩
    · intro k hk
      rw [l2 k hk, l1 k hk]
      by_cases e : k = l
      · subst e; simp [hlt]
      · simp [e]
    · intro r k hk
      rw [r2 r k hk, r1 r k hk]
      by_cases e : k = l
      · subst e; simp [hlt]
      · simp [e]

theorem applyDk_ok (f : Form) (ex : Nat → Bool) (out : Nat → LaneOut) (L : List Nat) (t : Strand) :
    applyDk f (L.map fun l => (l, if ex l then LaneAct.ok (out l) else .skip)) t =
      if f.dk then (match L.find? ex with | some l => writeKs t f.dst.toNat (out l).vals | none => t) else t := by
  unfold applyDk
  split_ifs
  · induction L with
    | nil => rfl
    | cons l r ih =>
      cases h : ex l
      · simpa [h] using ih
      · simp [h]
  · rfl

/-- The results of lanes among `ex`: the effect of a lane instruction. -/
theorem applyActs_effect {f : Form} {st : Strand} {u : Cur} (w : st.wf = true) (ex : Nat → Bool) (out : Nat → LaneOut)
    (hex : ∀ l, ex l = true → inMask u.mask l = true) :
    LaneEffect f st u ex out (applyActs f st ((lanesOf u.mask).map fun l => (l, if ex l then .ok (out l) else .skip))) := by
  obtain ⟨w1, s1, l1, r1, k1⟩ := applyLanes_spec (f := f) ex out (lanesOf u.mask) (nodup_lanesOf _)
    (fun l hl => inMask_lt (mem_lanesOf.1 hl)) w
  simp only [applyActs, applyDk_ok]
  generalize (List.map (fun l => (l, if ex l = true then LaneAct.ok (out l) else LaneAct.skip)) (lanesOf u.mask)).foldl
    (applyLane f f.bytes) st = t at *
  have hr : ∀ r k, k < 32 → readV t r k =
      if ex k ∧ f.dk = false ∧ f.dst.toNat ≤ r ∧ r < f.dst.toNat + (out k).vals.length then
        (out k).vals.getD (r - f.dst.toNat) RVal.zero
      else readV st r k := by
    intro r k hk
    rw [r1 r k hk]
    cases e : ex k
    · simp
    · simp [mem_lanesOf.2 (hex k e)]
  have hl : ∀ k, k < 32 → lane t k =
      if inMask u.mask k then
        (if ex k then laneDone f (out k) (lane st k) else { lane st k with pcv := (lane st k).pcv + BitVec.ofNat 48 f.bytes })
      else lane st k := by
    intro k hk; rw [l1 k hk]; simp only [mem_lanesOf]
  cases hdk : f.dk
  · simp only [Bool.false_eq_true, if_false]
    obtain ⟨a, b, c, d⟩ := s1
    exact ⟨a, b, c, d, (t.wf_iff.1 w1).1, hl, by simpa [hdk] using hr, by simpa [hdk] using k1⟩
  · simp only [if_true]
    cases hf : (lanesOf u.mask).find? ex with
    | none =>
      obtain ⟨a, b, c, d⟩ := s1
      exact ⟨a, b, c, d, (t.wf_iff.1 w1).1, hl, by simpa [hdk] using hr, by simpa [hdk, hf] using k1⟩
    | some m =>
      obtain ⟨a, b, c, d⟩ := s1.trans (sameFrame_writeKs t f.dst.toNat (out m).vals)
      refine ⟨a, b, c, d, by rw [writeKs_lanes]; exact (t.wf_iff.1 w1).1, ?_, ?_, ?_⟩
      · intro k hk; rw [lane_writeKs]; exact hl k hk
      · intro r k hk; rw [readV_writeKs]; exact hr r k hk
      · intro n; rw [readK_writeKs w1, k1 n]; simp [hdk, hf]

/-! ### An instruction that acts lane by lane -/

theorem faultsOf_ok (ex : Nat → Bool) (out : Nat → LaneOut) (L : List Nat) :
    faultsOf (L.map fun l => (l, if ex l then LaneAct.ok (out l) else .skip)) = [] := by
  unfold faultsOf
  rw [List.filterMap_eq_nil_iff]
  intro a ha
  obtain ⟨l, -, rfl⟩ := List.mem_map.1 ha
  cases ex l <;> rfl

/-- An instruction that may issue answers what its meaning gives. -/
theorem onIssue_next {i : Instr} {f : Form} {s : State} {x : Core} {st : Strand} {u : Cur} (h : IssuesFree i f s x st u)
    (k : Core → Strand → Cur → State) : onIssue i f s k = .next (k x st u) := by
  obtain ⟨sp, h1, h2⟩ := h.fits
  simp [onIssue, h.at_, h1, h2]

/-- No lane of an issue without a mismatch faults for one. -/
theorem mismatched_false {u : Cur} (h : u.mm1 = 0) (l : Nat) : mismatched u l = false := by
  unfold mismatched; rw [h, inMask_zero]; rfl

theorem laneActs_ok {i : Instr} {f : Form} {s : State} {x : Core} {st : Strand} {u : Cur} (h : Issues i f s x st u) {g : Nat → LaneAct}
    {out : Nat → LaneOut} (hg : ∀ l, executes f st u l = true → g l = .ok (out l)) :
    laneActs f st u false g = (lanesOf u.mask).map fun l => (l, if executes f st u l then .ok (out l) else .skip) := by
  unfold laneActs
  apply List.map_congr_left
  intro l hl
  have hm := mem_lanesOf.1 hl
  have hp := h.guards l hm
  unfold laneAct
  simp only [Bool.not_false, Bool.true_and, hp, Bool.false_eq_true, if_false]
  cases hb : (guardOf f (lane st l)).1
  · simp [executes, hb]
  · have he : executes f st u l = true := by simp [executes, hm, hb]
    simp [mismatched_false h.clean, he, hg l he]

theorem finishLanes_ok {s : State} {x : Core} {st : Strand} {u : Cur} (h : issuer s = some (x, st, u)) (hc : u.mm1 = 0) (f : Form) (t : Strand)
    {acts : List (Nat × LaneAct)} (hf : faultsOf acts = []) : finishLanes s u f t acts = withStrand s u (applyActs f t acts) := by
  unfold finishLanes
  simp only [hc, if_true, hf]
  exact modStrand_issuer h _

/-- What an instruction that acts lane by lane leaves, when no executing lane faults. -/
theorem runLanes_rule {i : Instr} {f : Form} {s : State} {x : Core} {st : Strand} {u : Cur} (h : Issues i f s x st u)
    {g : Core → Strand → Cur → Nat → LaneAct} {out : Nat → LaneOut} (hg : ∀ l, executes f st u l = true → g x st u l = .ok (out l)) :
    ∃ st', runLanes i f s false g = .next (withStrand s u st') ∧ LaneEffect f st u (executes f st u) out st' := by
  refine ⟨_, ?_, applyActs_effect h.canon (executes f st u) out ?_⟩
  · rw [runLanes, onIssue_next h.toIssuesFree, laneActs_ok h hg, finishLanes_ok h.at_ h.clean _ _ (faultsOf_ok _ _ _)]
  · intro l hl
    unfold executes at hl
    rw [Bool.and_eq_true] at hl
    exact hl.1

/-- The same without a guard (R287): every lane at the address writes. -/
theorem runLanes_free {i : Instr} {f : Form} {s : State} {x : Core} {st : Strand} {u : Cur} (h : IssuesFree i f s x st u)
    {g : Core → Strand → Cur → Nat → LaneAct} {out : Nat → LaneOut} (hg : ∀ l, inMask u.mask l = true → g x st u l = .ok (out l)) :
    ∃ st', runLanes i f s true g = .next (withStrand s u st') ∧ LaneEffect f st u (inMask u.mask) out st' := by
  refine ⟨_, ?_, applyActs_effect h.canon (inMask u.mask) out fun l hl => hl⟩
  have : laneActs f st u true (g x st u) = (lanesOf u.mask).map fun l => (l, if inMask u.mask l then .ok (out l) else .skip) := by
    unfold laneActs
    apply List.map_congr_left
    intro l hl
    have hm := mem_lanesOf.1 hl
    simp [laneAct, mismatched_false h.clean, hm, hg l hm]
  rw [runLanes, onIssue_next h, this, finishLanes_ok h.at_ h.clean _ _ (faultsOf_ok _ _ _)]

/-- A computation of `runAlu` follows the rule of its computation. -/
theorem runAlu_rule {mk : Form → Instr} (wd wa wb wc : Form → Nat) (g : Form → DWord → DWord → DWord → DWord × BitVec 9)
    (h : ∀ f s, exec (mk f) s = runAlu (mk f) f s (wd f) (wa f) (wb f) (wc f) (g f)) : AluRule mk wd wa wb wc g := by
  intro f s x st u hi
  rw [h]
  exact runLanes_rule hi fun l _ => rfl

/-- A computation of `runLanes` that never faults follows the rule of its outcome. -/
theorem runLanes_laneRule {mk : Form → Instr} (out : Form → Core → Strand → Cur → Nat → LaneOut)
    (h : ∀ f s, exec (mk f) s = runLanes (mk f) f s false fun x st u l => .ok (out f x st u l)) : LaneRule mk out := by
  intro f s x st u hi
  rw [h]
  exact runLanes_rule hi fun l _ => rfl

/-! ### An instruction that acts once for its strand -/

theorem splitGuard_fst {i : Instr} {f : Form} {s : State} {x : Core} {st : Strand} {u : Cur} (h : Issues i f s x st u) :
    (splitGuard f st u.mask).1 = execMask f st u := by
  apply mask_ext
  intro l hl
  rw [inMask_execMask]
  simp only [splitGuard, inMask_maskOf _ hl, executes]
  cases hm : inMask u.mask l
  · rfl
  · simp [h.guards l hm]

theorem splitGuard_idle {i : Instr} {f : Form} {s : State} {x : Core} {st : Strand} {u : Cur} (h : Issues i f s x st u) :
    (splitGuard f st u.mask).2.1 = idleMask f st u := by
  apply mask_ext
  intro l hl
  rw [inMask_idleMask]
  simp only [splitGuard, inMask_maskOf _ hl]
  cases hm : inMask u.mask l
  · rfl
  · simp [h.guards l hm]

theorem splitGuard_pois {i : Instr} {f : Form} {s : State} {x : Core} {st : Strand} {u : Cur} (h : Issues i f s x st u) :
    (splitGuard f st u.mask).2.2 = 0 := by
  apply mask_ext
  intro l hl
  simp only [splitGuard, inMask_maskOf _ hl, inMask_zero]
  cases hm : inMask u.mask l
  · rfl
  · simp [h.guards l hm]

theorem advLanes_zero {st : Strand} (h : st.lanes.length = 32) (n : Nat) : advLanes st 0 n = st := by
  have : (advLanes st 0 n).lanes = st.lanes := by
    apply lanes_ext (by simpa using h) h
    intro l hl
    refine (lane_modLanes h 0 hl _).trans ?_
    rw [show inMask 0 l = false from inMask_zero l]; rfl
  exact congrArg (fun ls => { st with lanes := ls }) this

/-- The idle lanes and then the executing ones have passed: every lane at the address has. -/
theorem passed_eq {f : Form} {st : Strand} {u : Cur} (h : st.lanes.length = 32) :
    advLanes (skipped f st u) (execMask f st u) f.bytes = passed f st u := by
  have hl : (advLanes (skipped f st u) (execMask f st u) f.bytes).lanes = (passed f st u).lanes := by
    apply lanes_ext (by simp [skipped, h]) (by simp [passed, h])
    intro l hl
    have h1 : (skipped f st u).lanes.length = 32 := by simp [skipped, h]
    have e1 := lane_modLanes h1 (execMask f st u) hl fun la => { la with pcv := la.pcv + BitVec.ofNat 48 f.bytes }
    have e2 := lane_modLanes h (idleMask f st u) hl fun la => { la with pcv := la.pcv + BitVec.ofNat 48 f.bytes }
    have e3 := lane_modLanes h u.mask hl fun la => { la with pcv := la.pcv + BitVec.ofNat 48 f.bytes }
    refine e1.trans (Eq.trans ?_ e3.symm)
    rw [show lane (skipped f st u) l = _ from e2, inMask_execMask, inMask_idleMask]
    cases hm : inMask u.mask l <;> cases hg : (guardOf f (lane st l)).1 <;> simp [executes, hm, hg]
  exact congrArg (fun ls => { st with lanes := ls }) hl

theorem withStrand_self {s : State} {x : Core} {st : Strand} {u : Cur} (h : issuer s = some (x, st, u)) (st' : Strand) :
    issuer (withStrand s u st') = some ({ x with strands := aput x.strands u.slot st' }, st', u) := by
  have hc : (withStrand s u st').cur = some u := (issuer_some h).1
  simp [issuer, hc, getCore_withStrand h, aget_aput_same]

/-- A mask without lanes taken off. -/
theorem mask_sub_none (m : Word) : m &&& ~~~(0 : Word) = m := by
  rw [show ~~~(0 : Word) = BitVec.allOnes 32 from rfl, BitVec.and_allOnes]

/-- No fault is no change. -/
@[simp] theorem raiseFaults_nil (s : State) (c sl : Nat) (w : Word) (n : Nat) : raiseFaults s c sl [] w n = s := by
  unfold raiseFaults; repeat' split
  all_goals rfl

/-- Where no result mismatches and no guard is poisoned, a strand instruction leaves its own state and raises its own faults; one
that has not issued raises none (R362, R367). -/
theorem finishStrand_clean {u : Cur} (h : u.mm1 = 0) (ex : Word) (r : Left) :
    finishStrand u ex 0 r = if notIssued r.1 u then r.1 else raised r.1 u r.2 := by
  have hz : faultEach 0 .poisonUse 0 = [] := by decide
  have ht : twice u ex = 0 := by simp [twice, h]
  have hp : faultEach (0 : Word) .pipeErr 0 = [] := by decide
  simp only [finishStrand, h, ht, hz, hp, if_true, List.append_nil, raised]
  split
  · rfl
  · cases e : r.2
    · simp [raiseFaults_nil]
    · simp

theorem finishStrand_done {u : Cur} (h : u.mm1 = 0) (ex : Word) (t : State) : finishStrand u ex 0 (clean t) = t := by
  rw [finishStrand_clean h]; simp [clean, raised]

/-- What an instruction that acts once for its strand answers. -/
theorem runStrand_next {i : Instr} {f : Form} {s : State} {x : Core} {st : Strand} {u : Cur} (h : Issues i f s x st u)
    (he : execMask f st u ≠ 0) (k : State → Core → Strand → Cur → Word → Left) {r : Left}
    (hr : k (withStrand s u (skipped f st u)) { x with strands := aput x.strands u.slot (skipped f st u) } (skipped f st u) u
      (execMask f st u) = r) :
    runStrand i f s k = .next (if notIssued r.1 u then r.1 else raised r.1 u r.2) := by
  have h32 := (st.wf_iff.1 h.canon).1
  have hst : (if (splitGuard f st u.mask).2.1 = 0 then st else advLanes st (splitGuard f st u.mask).2.1 f.bytes) = skipped f st u := by
    rw [splitGuard_idle h]
    split_ifs with e
    · rw [skipped, e, advLanes_zero h32]
    · rfl
  have ht : twice u (execMask f st u) = 0 := by simp [twice, h.clean]
  have hm := mask_sub_none (execMask f st u)
  rw [runStrand, onIssue_next h.toIssuesFree]
  simp only [splitGuard_pois h, splitGuard_fst h, ht, hm, if_neg he, hst, setCore_issuer h.at_, finishStrand_clean h.clean, hr]

/-- A strand instruction without a fault. -/
theorem runStrand_clean {i : Instr} {f : Form} {s : State} {x : Core} {st : Strand} {u : Cur} (h : Issues i f s x st u)
    (he : execMask f st u ≠ 0) (k : State → Core → Strand → Cur → Word → Left) {t : State}
    (hr : k (withStrand s u (skipped f st u)) { x with strands := aput x.strands u.slot (skipped f st u) } (skipped f st u) u
      (execMask f st u) = clean t) :
    runStrand i f s k = .next t := by
  rw [runStrand_next h he k hr]; simp [clean, raised]

/-- When no lane executes, the lanes at the address pass and nothing else happens (R233, R246). -/
theorem runStrand_none {i : Instr} {f : Form} {s : State} {x : Core} {st : Strand} {u : Cur} (h : Issues i f s x st u)
    (he : execMask f st u = 0) (k : State → Core → Strand → Cur → Word → Left) :
    runStrand i f s k = .next (withStrand s u (passed f st u)) := by
  have h32 := (st.wf_iff.1 h.canon).1
  have hst : (if (splitGuard f st u.mask).2.1 = 0 then st else advLanes st (splitGuard f st u.mask).2.1 f.bytes) = skipped f st u := by
    rw [splitGuard_idle h]
    split_ifs with e
    · rw [skipped, e, advLanes_zero h32]
    · rfl
  have hz : (0 : Word) &&& ~~~twice u 0 = 0 := by simp
  rw [runStrand, onIssue_next h.toIssuesFree]
  simp only [splitGuard_pois h, splitGuard_fst h, he, hz, if_true, hst, setCore_issuer h.at_, finishStrand_done h.clean]
  rw [← passed_eq h32, he, advLanes_zero (by simp [skipped, h32])]

/-- A strand instruction that is complete leaves every lane at the address past it. -/
theorem doneStrand_skipped {s : State} {x : Core} {st : Strand} {u : Cur} (h : issuer s = some (x, st, u)) (hw : st.wf = true) (f : Form) :
    doneStrand (withStrand s u (skipped f st u)) u f (execMask f st u) = withStrand s u (passed f st u) := by
  rw [doneStrand, modStrand_withStrand h, passed_eq (st.wf_iff.1 hw).1]

/-- What an instruction on frames answers (R77). -/
theorem runFrame_next {i : Instr} {f : Form} {s : State} {x : Core} {st : Strand} {u : Cur} (h : Issues i f s x st u)
    (he : execMask f st u ≠ 0) (k : Core → Strand → Cur → Word → Left) {r : Left} (hr : k x st u (execMask f st u) = r) :
    runFrame i f s k = .next (if notIssued r.1 u then r.1 else raised r.1 u r.2) := by
  have ht : twice u (execMask f st u) = 0 := by simp [twice, h.clean]
  have hm := mask_sub_none (execMask f st u)
  rw [runFrame, onIssue_next h.toIssuesFree]
  simp only [splitGuard_pois h, splitGuard_fst h, ht, hm, if_neg he, finishStrand_clean h.clean, hr]

end Sys2Proof.Machine
end

