-- ==== Sys2Proof/Laws/Issue.lean ====
section
/-! SUPPORT. The shared operations of an issue that starts something, and of a fault that is taken: what each leaves. -/

namespace Sys2Proof.Machine

/-! ### Starting an operation, a store, a job -/

/-- An operation joins the core's, and its strand counts it. -/
theorem getCore_issueOp {s : State} {x : Core} {st : Strand} {u : Cur} (h : issuer s = some (x, st, u)) (cls : Cls) (k : OpK) (dest : Dest)
    (dur : Bool) (lanes : List OLane) :
    getCore (issueOp s u st cls k dest dur lanes) u.core =
      some { x with
        ops := x.ops ++ [{ id := s.nextId, slot := u.slot, sid := st.sid, pc := u.pc, w0 := u.w0, k := k, dest := dest, seq := 0, dur := dur,
                           wait := none, at_ := (0, 0), refused := [], lanes := lanes }],
        strands := aput x.strands u.slot (issueOut st cls s.nextId) } := by
  obtain ⟨-, hc, hs⟩ := issuer_some h
  have a : getCore { s with nextId := s.nextId + 1 } u.core = some x := hc
  have b := getCore_modCore_same a fun y => { y with
    ops := y.ops ++ [{ id := s.nextId, slot := u.slot, sid := st.sid, pc := u.pc, w0 := u.w0, k := k, dest := dest, seq := 0, dur := dur,
                       wait := none, at_ := (0, 0), refused := [], lanes := lanes }] }
  unfold issueOp pushOp
  rw [modStrand_eq b hs]
  exact getCore_setCore_same _ _ _

/-- A store takes an entry of the queue, its strand counts it and takes the next number of program order. -/
theorem getCore_takeEntry {s : State} {x : Core} {st : Strand} {u : Cur} (h : issuer s = some (x, st, u)) (dir str : Bool)
    (lanes : List SLane) :
    getCore (takeEntry s u st dir str lanes) u.core =
      some { x with
        sq := x.sq ++ [{ id := s.nextId, slot := u.slot, sid := st.sid, pc := u.pc, w0 := u.w0, seq := st.seq, dir := dir, str := str,
                         lanes := lanes }],
        strands := aput x.strands u.slot (issueOut { st with seq := st.seq + 1 } .st s.nextId) } := by
  obtain ⟨-, hc, hs⟩ := issuer_some h
  have a : getCore { s with nextId := s.nextId + 1 } u.core = some x := hc
  have b := getCore_modCore_same a fun y => { y with
    sq := y.sq ++ [{ id := s.nextId, slot := u.slot, sid := st.sid, pc := u.pc, w0 := u.w0, seq := st.seq, dir := dir, str := str,
                     lanes := lanes }] }
  unfold takeEntry
  rw [modStrand_eq b hs]
  exact getCore_setCore_same _ _ _

/-- An issue with nothing parked, no fault and no mismatch only passes the lanes that are done. -/
theorem endIssue_clean (s : State) {u : Cur} (h : u.mm1 = 0) (f : Form) (m : Word) : endIssue s u f m [] [] = doneStrand s u f m := by
  unfold endIssue doneStrand
  simp only [h, if_true, List.isEmpty_nil]
  congr 1
  funext st
  have e : (advLanes st m f.bytes).lanes.mapIdx (fun l la => match aget ([] : List (Nat × Nat × DWord)) l with
      | some w => { la with st := LaneState.faultParked w.1 w.2 u.w0 } | none => la) = (advLanes st m f.bytes).lanes := by
    apply List.ext_getElem <;> simp [aget]
  exact congrArg (fun l => { advLanes st m f.bytes with lanes := l }) e

/-- A happening of a core that runs is its effect; of a device that is off, nothing. -/
theorem onRun_run {s : State} (h : s.power = .run) (t : State) : onRun s t = .next t := by rw [onRun, if_pos h]
theorem onRun_off {s : State} (h : s.power ≠ .run) (t : State) : onRun s t = .next s := by rw [onRun, if_neg h]
theorem onPower_on {s : State} (h : s.power ≠ .flushed) (t : State) : onPower s t = .next t := by rw [onPower, if_neg h]

/-! ### Faults -/

/-- A fault in a handler (R19). -/
theorem raiseFaults_handler {s : State} {c sl : Nat} {x : Core} {st : Strand} (hx : getCore s c = some x) (hs : aget x.strands sl = some st)
    (hh : st.handler.isSome = true) {fl : List LFault} (h : fl ≠ []) (w : Word) (n : Nat) :
    raiseFaults s c sl fl w n = handlerFault s c sl x st fl w := by
  unfold raiseFaults
  rw [hx]
  dsimp only
  rw [hs]
  dsimp only
  rw [if_neg (by simpa using h), if_pos hh]

/-- Faults of one cause whose action is TRAP make one trap pending (R362 step 4). -/
theorem raiseFaults_trap {s : State} {c sl : Nat} {x : Core} {st : Strand} (hx : getCore s c = some x) (hs : aget x.strands sl = some st)
    (hh : st.handler = none) {fl : List LFault} (h : fl ≠ []) {k : Cause} (hk : ∀ f ∈ fl, f.cause = k) (ha : actionOf x k = .trap) (w : Word)
    (n : Nat) :
    raiseFaults s c sl fl w n = trapTake s c sl
      { cause := k, mask := maskOf fun l => fl.any fun f => f.lane = l, word := w, ilen := n, impr := false,
        addrs := fl.map fun f => (f.lane, f.addr), since := s.clock.toNat } := by
  have low : ∀ {l : List LFault}, l ≠ [] → (∀ f ∈ l, f.cause = k) → lowestCause l = some k := by
    intro l
    induction l with
    | nil => intro h _; exact absurd rfl h
    | cons a t ih =>
      intro _ hk
      simp only [lowestCause]
      cases t with
      | nil => simp [lowestCause, hk a]
      | cons b t => rw [ih (by simp) fun f hf => hk f (List.mem_cons_of_mem _ hf), hk a (by simp)]; simp
  have none_ (a : Action) (hn : a ≠ .trap) : (fl.filter fun f => actionOf x f.cause = a) = [] := by
    rw [List.filter_eq_nil_iff]
    intro f hf
    rw [hk f hf, ha]
    simpa using fun e => hn e.symm
  have all_ : (fl.filter fun f => actionOf x f.cause = .trap) = fl := by
    rw [List.filter_eq_self]
    intro f hf
    rw [hk f hf, ha]
    rfl
  have hit : (fl.filter fun f => f.cause = k) = fl := by
    rw [List.filter_eq_self]
    intro f hf
    simp [hk f hf]
  unfold raiseFaults
  rw [hx]
  dsimp only
  rw [hs]
  dsimp only
  rw [if_neg (by simpa using h), if_neg (by simp [hh])]
  simp only [none_ .kill (by simp), none_ .halt (by simp), all_, low h hk, hit, List.isEmpty_nil, if_true, Bool.not_true,
    Bool.false_eq_true, if_false]

/-- TRAP_ENTRY (R363): the handler is bound to an empty frame, the live lanes are saved and start at %trapvec. -/
theorem trapEnter_spec {s : State} {c sl : Nat} {x : Core} {st : Strand} (hx : getCore s c = some x) (hs : aget x.strands sl = some st)
    {t : TrapPend} (ht : st.trapPend = some t) {n : Nat} (hh : lowest (fun h => !(usedHandlers x).contains h) 4 = some n) :
    ∃ st1, getStrand (trapEnter s c sl) c sl = some st1 ∧ st1.st = .inHandler ∧ st1.trapPend = none ∧ st1.eff = 255 ∧ st1.age = st.age ∧
      st1.frames = st.frames ∧ st1.k = st.k ∧
      st1.handler = some (Handler.mk s.nextId n [] [] t.mask
        (BitVec.ofNat 32 (t.cause.code + 256 * t.ilen + (if t.impr then 2048 else 0))) t.word) ∧
      (trapEnter s c sl).mem = s.mem := by
  unfold trapEnter
  rw [hx]
  dsimp only
  rw [hs]
  dsimp only
  rw [ht, hh]
  dsimp only
  generalize hst : ({ st with
    lanes := _, handler := some _, trapPend := none, st := .inHandler, eff := 255 } : Strand) = st1
  refine ⟨st1, ?_, ?_⟩
  · unfold getStrand
    show Option.bind (getCore (setCore _ c _) c) _ = _
    rw [getCore_setCore_same]
    exact aget_aput_same _ _ _
  · subst hst
    exact ⟨rfl, rfl, rfl, rfl, rfl, rfl, rfl, rfl⟩

end Sys2Proof.Machine
end

