-- ==== Sys2Proof/Laws/Memory.lean ====
section
/-! SUPPORT. The operations over memory, its tags and its poison: each keeps their canonical form, and what a write leaves. -/

namespace Sys2Proof.Machine

/-! ### Operations that leave memory alone -/

theorem MemInv.same {s t : State} (h : s.MemInv) (m : sameMemory s t) : t.MemInv := by
  obtain ⟨a, b, c⟩ := m
  unfold State.MemInv
  rw [a, b, c]
  exact h

theorem sameMemory_recordPoison (s : State) (g : Nat) : sameMemory s (recordPoison s g) := by
  simp only [recordPoison]
  split <;> exact ⟨rfl, rfl, rfl⟩

theorem sameMemory_nvNote (s : State) (pa core : Nat) (seg : Option Nat) : sameMemory s (nvNote s pa core seg) := by
  unfold nvNote
  split <;> exact ⟨rfl, rfl, rfl⟩

/-! ### Poison -/

/-- Marking poison changes neither the bytes nor the tags, and keeps the canonical form. -/
theorem poisonWrite_spec (s : State) (pa n : Nat) (p : Bool) :
    (poisonWrite s pa n p).mem = s.mem ∧ (poisonWrite s pa n p).tags = s.tags ∧
      (swf false s.gpois = true → swf false (poisonWrite s pa n p).gpois = true) := by
  unfold poisonWrite
  induction granules pa n generalizing s with
  | nil => exact ⟨rfl, rfl, id⟩
  | cons g l ih =>
    obtain ⟨a, b, c⟩ := ih (if p then
      (if sget false s.gpois g then s else recordPoison { s with gpois := sset false s.gpois g true } g)
    else if pa ≤ 32 * g ∧ 32 * g + 32 ≤ pa + n then { s with gpois := sset false s.gpois g false, behind := s.behind.filter (· ≠ g) } else s)
    obtain ⟨m, t, q⟩ := sameMemory_recordPoison { s with gpois := sset false s.gpois g true } g
    rw [List.foldl_cons]
    refine ⟨a.trans ?_, b.trans ?_, fun w => c ?_⟩
    · split
      · split
        · rfl
        · exact m
      · split <;> rfl
    · split
      · split
        · rfl
        · exact t
      · split <;> rfl
    · split
      · split
        · exact w
        · rw [q]; exact swf_sset w g true
      · split
        · exact swf_sset w g false
        · exact w

theorem MemInv.poisonWrite {s : State} (h : s.MemInv) (pa n : Nat) (p : Bool) : (poisonWrite s pa n p).MemInv := by
  obtain ⟨a, b, c⟩ := poisonWrite_spec s pa n p
  refine ⟨?_, ?_, c h.2.2⟩
  · rw [a]; exact h.1
  · rw [b]; exact h.2.1

/-! ### Writes of the control page -/

theorem sameMemory.refl (s : State) : sameMemory s s := ⟨rfl, rfl, rfl⟩

theorem sameMemory.trans {s t u : State} (h : sameMemory s t) (k : sameMemory t u) : sameMemory s u :=
  ⟨k.1.trans h.1, k.2.1.trans h.2.1, k.2.2.trans h.2.2⟩

theorem sameMemory_ite {c : Prop} [Decidable c] {s a b : State} (h : sameMemory s a) (k : sameMemory s b) :
    sameMemory s (if c then a else b) := by
  split
  · exact h
  · exact k

theorem sameMemory_ctlPut (s : State) (off : Nat) (w : Word) : sameMemory s (ctlPut s off w) := by
  unfold ctlPut hfqConsPut hfqBasePut mreqWrite
  repeat' (first | refine sameMemory_ite ?_ ?_ | exact ⟨rfl, rfl, rfl⟩)

theorem sameMemory_devWord (s : State) (off : Nat) (w : Word) : sameMemory s (devWord s off w) := by
  unfold devWord
  split
  · exact ⟨rfl, rfl, rfl⟩
  · exact sameMemory_ctlPut s off w

theorem sameMemory_devDword (s : State) (off : Nat) (v : DWord) : sameMemory s (devDword s off v) := by
  unfold devDword mreqWrite
  split
  · split <;> exact ⟨rfl, rfl, rfl⟩
  · exact (sameMemory_devWord s off _).trans (sameMemory_devWord _ (off + 4) _)

/-- A write to the control page changes no memory of the card. -/
theorem sameMemory_devWrite (s : State) (pa : Nat) (data : List Byte) : sameMemory s (devWrite s pa data) := by
  unfold devWrite
  split
  · exact sameMemory_devWord s _ _
  · induction List.range ((data.length + 7) / 8) generalizing s with
    | nil => exact sameMemory.refl s
    | cons i l ih => exact (sameMemory_devDword s _ _).trans (ih _)

/-! ### Writes at a home -/

theorem MemInv.homeWrite {s : State} (h : s.MemInv) (pa : Nat) (data : List Byte) (pois : Bool) (core : Nat) (seg : Option Nat) :
    (homeWrite s pa data pois core seg).MemInv := by
  unfold Machine.homeWrite
  split
  · exact MemInv.same h (sameMemory_devWrite s pa data)
  · have w := MemInv.same h (sameMemory_nvNote s pa core seg)
    exact MemInv.poisonWrite (s := { nvNote s pa core seg with mem := writeBytes (nvNote s pa core seg).mem pa data })
      ⟨wf_writeBytes w.1 pa data, w.2⟩ pa data.length pois

/-- A write at its home changes the bytes it writes and no other; it changes no tag. -/
theorem homeWrite_bytes {s : State} (h : s.MemInv) {pa : Nat} (hd : isDev pa = false) (data : List Byte) (pois : Bool) (core : Nat)
    (seg : Option Nat) :
    Wrote s (homeWrite s pa data pois core seg) pa data ∧ (homeWrite s pa data pois core seg).tags = s.tags := by
  obtain ⟨a, b, -⟩ := sameMemory_nvNote s pa core seg
  obtain ⟨m, t, -⟩ := poisonWrite_spec { nvNote s pa core seg with mem := writeBytes (nvNote s pa core seg).mem pa data } pa data.length pois
  simp only [homeWrite, hd, Bool.false_eq_true, if_false]
  refine ⟨fun j => ?_, t.trans b⟩
  rw [m]
  show sget 0 (writeBytes (nvNote s pa core seg).mem pa data) j = _
  rw [a]
  exact sget_writeBytes h.1 pa data j

theorem MemInv.homeSetTag {s : State} (h : s.MemInv) (g : Nat) (t : BitVec 4) (core : Nat) : (homeSetTag s g t core).MemInv := by
  unfold Machine.homeSetTag
  split
  · exact h
  · have w := MemInv.same h (sameMemory_nvNote s (32 * g) core none)
    exact ⟨w.1, swf_sset w.2.1 g t, w.2.2⟩

/-- Writes to the control page change no memory of the card. -/
theorem sameMemory_devWrites (l : List (Nat × Nat)) (s : State) (pa : Nat) (data : List Byte) :
    sameMemory s (l.foldl (fun s r => devWrite s (pa + r.1) ((data.drop r.1).take r.2)) s) := by
  induction l generalizing s with
  | nil => exact sameMemory.refl s
  | cons r l ih => exact (sameMemory_devWrite s _ _).trans (ih _)

theorem MemInv.maskWrite {s : State} (h : s.MemInv) (c line : Nat) (d : Dirty) (nv : Bool) : (maskWrite s c line d nv).MemInv := by
  have w := MemInv.same h (sameMemory_nvNote s (64 * line) c (if nv then some d.seg else none))
  unfold Machine.maskWrite
  split
  · exact MemInv.same h (sameMemory_devWrites _ s (64 * line) d.data)
  generalize nvNote s (64 * line) c (if nv then some d.seg else none) = s1 at w ⊢
  have w2 : State.MemInv { s1 with
      mem := (List.range 64).foldl (fun m o => if d.mask.getLsbD o then sset 0 m (64 * line + o) (d.data.getD o 0) else m) s1.mem } := by
    refine ⟨swf_foldl _ (fun m b hm => ?_) _ w.1, w.2⟩
    split
    · exact swf_sset hm _ _
    · exact hm
  have one (s : State) (h : s.MemInv) (k : Nat) (p : Bool) :
      (if p then Machine.poisonWrite s (64 * line + 32 * k) 32 true
        else if d.mask &&& halfMask k = halfMask k then Machine.poisonWrite s (64 * line + 32 * k) 32 false else s).MemInv := by
    split
    · exact MemInv.poisonWrite h _ _ _
    · split
      · exact MemInv.poisonWrite h _ _ _
      · exact h
  exact one _ (one _ w2 0 d.p0) 1 d.p1

theorem MemInv.undoWrite {s : State} (h : s.MemInv) (w : NvW) : (undoWrite s w).MemInv :=
  ⟨wf_writeBytes h.1 _ _, swf_sset (swf_sset h.2.1 _ _) _ _, swf_sset (swf_sset h.2.2 _ _) _ _⟩

theorem MemInv.loseGranule {s : State} (h : s.MemInv) (g : Nat) : (loseGranule s g).MemInv := by
  have w := MemInv.poisonWrite h (32 * g) 32 true
  exact ⟨w.1, swf_sset w.2.1 g 0, w.2.2⟩

theorem MemInv.physWrite {s : State} (h : s.MemInv) (k pa : Nat) (data : List Byte) : (physWrite s k pa data).MemInv := by
  induction k generalizing s pa data with
  | zero => exact h
  | succ k ih =>
    unfold Machine.physWrite
    split
    · exact h
    · exact ih (MemInv.homeWrite h _ _ _ _ _) _ _

/-- The part of memory that the Cask keeps over a restart is canonical. -/
theorem MemInv.caskPart {α : Type} [DecidableEq α] {d : α} {m : SMap α} (w : swf d m = true) (k : Nat) : swf d (caskPart m k) = true :=
  swfFrom_filter _ w

theorem MemInv.placeProgram {s : State} (h : s.MemInv) (ws : List Word) : (placeProgram s ws).MemInv :=
  ⟨wf_writeBytes h.1 _ _, h.2⟩

theorem memInv_reset : State.reset.MemInv := ⟨rfl, rfl, rfl⟩

end Sys2Proof.Machine
end

