-- ==== Sys2Proof/Laws/PerInstr.lean ====
section
/-! SUPPORT. One law per constructor: the opcode and the fields of an instruction name it. -/

namespace Sys2Proof.Laws

/-- R241: the opcode map gives the instruction back from its opcode and its fields; a happening has no opcode. -/
def OpcodeMap.Statement (i : Instr) : Prop :=
  ∀ o f, i.opcode = some o → i.form = some f → ofOpcode o.1.toNat o.2.toNat f = some i

theorem OpcodeMap.nop (f : Form) : OpcodeMap.Statement (.nop f) := by intro o g ho hf; cases ho; cases hf; rfl
theorem OpcodeMap.exit (f : Form) : OpcodeMap.Statement (.exit f) := by intro o g ho hf; cases ho; cases hf; rfl
theorem OpcodeMap.yield (f : Form) : OpcodeMap.Statement (.yield f) := by intro o g ho hf; cases ho; cases hf; rfl
theorem OpcodeMap.sleep (f : Form) : OpcodeMap.Statement (.sleep f) := by intro o g ho hf; cases ho; cases hf; rfl
theorem OpcodeMap.nopre (f : Form) : OpcodeMap.Statement (.nopre f) := by intro o g ho hf; cases ho; cases hf; rfl
theorem OpcodeMap.preok (f : Form) : OpcodeMap.Statement (.preok f) := by intro o g ho hf; cases ho; cases hf; rfl
theorem OpcodeMap.bra (f : Form) : OpcodeMap.Statement (.bra f) := by intro o g ho hf; cases ho; cases hf; rfl
theorem OpcodeMap.bri (f : Form) : OpcodeMap.Statement (.bri f) := by intro o g ho hf; cases ho; cases hf; rfl
theorem OpcodeMap.call (f : Form) : OpcodeMap.Statement (.call f) := by intro o g ho hf; cases ho; cases hf; rfl
theorem OpcodeMap.calli (f : Form) : OpcodeMap.Statement (.calli f) := by intro o g ho hf; cases ho; cases hf; rfl
theorem OpcodeMap.ret (f : Form) : OpcodeMap.Statement (.ret f) := by intro o g ho hf; cases ho; cases hf; rfl
theorem OpcodeMap.unwind (f : Form) : OpcodeMap.Statement (.unwind f) := by intro o g ho hf; cases ho; cases hf; rfl
theorem OpcodeMap.trap (f : Form) : OpcodeMap.Statement (.trap f) := by intro o g ho hf; cases ho; cases hf; rfl
theorem OpcodeMap.eret (f : Form) : OpcodeMap.Statement (.eret f) := by intro o g ho hf; cases ho; cases hf; rfl
theorem OpcodeMap.mfs (f : Form) : OpcodeMap.Statement (.mfs f) := by intro o g ho hf; cases ho; cases hf; rfl
theorem OpcodeMap.mts (f : Form) : OpcodeMap.Statement (.mts f) := by intro o g ho hf; cases ho; cases hf; rfl
theorem OpcodeMap.launch (f : Form) : OpcodeMap.Statement (.launch f) := by intro o g ho hf; cases ho; cases hf; rfl
theorem OpcodeMap.waitw (f : Form) : OpcodeMap.Statement (.waitw f) := by intro o g ho hf; cases ho; cases hf; rfl
theorem OpcodeMap.ipf (f : Form) : OpcodeMap.Statement (.ipf f) := by intro o g ho hf; cases ho; cases hf; rfl
theorem OpcodeMap.ipin (f : Form) : OpcodeMap.Statement (.ipin f) := by intro o g ho hf; cases ho; cases hf; rfl
theorem OpcodeMap.iunpin (f : Form) : OpcodeMap.Statement (.iunpin f) := by intro o g ho hf; cases ho; cases hf; rfl
theorem OpcodeMap.fencei (f : Form) : OpcodeMap.Statement (.fencei f) := by intro o g ho hf; cases ho; cases hf; rfl
theorem OpcodeMap.bar (f : Form) : OpcodeMap.Statement (.bar f) := by intro o g ho hf; cases ho; cases hf; rfl
theorem OpcodeMap.gbar (f : Form) : OpcodeMap.Statement (.gbar f) := by intro o g ho hf; cases ho; cases hf; rfl
theorem OpcodeMap.btest (f : Form) : OpcodeMap.Statement (.btest f) := by intro o g ho hf; cases ho; cases hf; rfl
theorem OpcodeMap.phase (f : Form) : OpcodeMap.Statement (.phase f) := by intro o g ho hf; cases ho; cases hf; rfl
theorem OpcodeMap.wait (f : Form) : OpcodeMap.Statement (.wait f) := by intro o g ho hf; cases ho; cases hf; rfl
theorem OpcodeMap.waitt (f : Form) : OpcodeMap.Statement (.waitt f) := by intro o g ho hf; cases ho; cases hf; rfl
theorem OpcodeMap.sdrain (f : Form) : OpcodeMap.Statement (.sdrain f) := by intro o g ho hf; cases ho; cases hf; rfl
theorem OpcodeMap.frd (f : Form) : OpcodeMap.Statement (.frd f) := by intro o g ho hf; cases ho; cases hf; rfl
theorem OpcodeMap.fwr (f : Form) : OpcodeMap.Statement (.fwr f) := by intro o g ho hf; cases ho; cases hf; rfl
theorem OpcodeMap.finfo (f : Form) : OpcodeMap.Statement (.finfo f) := by intro o g ho hf; cases ho; cases hf; rfl
theorem OpcodeMap.iadd (f : Form) : OpcodeMap.Statement (.iadd f) := by intro o g ho hf; cases ho; cases hf; rfl
theorem OpcodeMap.isub (f : Form) : OpcodeMap.Statement (.isub f) := by intro o g ho hf; cases ho; cases hf; rfl
theorem OpcodeMap.imin (f : Form) : OpcodeMap.Statement (.imin f) := by intro o g ho hf; cases ho; cases hf; rfl
theorem OpcodeMap.imax (f : Form) : OpcodeMap.Statement (.imax f) := by intro o g ho hf; cases ho; cases hf; rfl
theorem OpcodeMap.iabs (f : Form) : OpcodeMap.Statement (.iabs f) := by intro o g ho hf; cases ho; cases hf; rfl
theorem OpcodeMap.ineg (f : Form) : OpcodeMap.Statement (.ineg f) := by intro o g ho hf; cases ho; cases hf; rfl
theorem OpcodeMap.isad (f : Form) : OpcodeMap.Statement (.isad f) := by intro o g ho hf; cases ho; cases hf; rfl
theorem OpcodeMap.imul (f : Form) : OpcodeMap.Statement (.imul f) := by intro o g ho hf; cases ho; cases hf; rfl
theorem OpcodeMap.imulh (f : Form) : OpcodeMap.Statement (.imulh f) := by intro o g ho hf; cases ho; cases hf; rfl
theorem OpcodeMap.imad (f : Form) : OpcodeMap.Statement (.imad f) := by intro o g ho hf; cases ho; cases hf; rfl
theorem OpcodeMap.idiv (f : Form) : OpcodeMap.Statement (.idiv f) := by intro o g ho hf; cases ho; cases hf; rfl
theorem OpcodeMap.irem (f : Form) : OpcodeMap.Statement (.irem f) := by intro o g ho hf; cases ho; cases hf; rfl
theorem OpcodeMap.imulw (f : Form) : OpcodeMap.Statement (.imulw f) := by intro o g ho hf; cases ho; cases hf; rfl
theorem OpcodeMap.and (f : Form) : OpcodeMap.Statement (.and f) := by intro o g ho hf; cases ho; cases hf; rfl
theorem OpcodeMap.or (f : Form) : OpcodeMap.Statement (.or f) := by intro o g ho hf; cases ho; cases hf; rfl
theorem OpcodeMap.xor (f : Form) : OpcodeMap.Statement (.xor f) := by intro o g ho hf; cases ho; cases hf; rfl
theorem OpcodeMap.andn (f : Form) : OpcodeMap.Statement (.andn f) := by intro o g ho hf; cases ho; cases hf; rfl
theorem OpcodeMap.not (f : Form) : OpcodeMap.Statement (.not f) := by intro o g ho hf; cases ho; cases hf; rfl
theorem OpcodeMap.blut (f : Form) : OpcodeMap.Statement (.blut f) := by intro o g ho hf; cases ho; cases hf; rfl
theorem OpcodeMap.shl (f : Form) : OpcodeMap.Statement (.shl f) := by intro o g ho hf; cases ho; cases hf; rfl
theorem OpcodeMap.shr (f : Form) : OpcodeMap.Statement (.shr f) := by intro o g ho hf; cases ho; cases hf; rfl
theorem OpcodeMap.sar (f : Form) : OpcodeMap.Statement (.sar f) := by intro o g ho hf; cases ho; cases hf; rfl
theorem OpcodeMap.rotl (f : Form) : OpcodeMap.Statement (.rotl f) := by intro o g ho hf; cases ho; cases hf; rfl
theorem OpcodeMap.rotr (f : Form) : OpcodeMap.Statement (.rotr f) := by intro o g ho hf; cases ho; cases hf; rfl
theorem OpcodeMap.fshl (f : Form) : OpcodeMap.Statement (.fshl f) := by intro o g ho hf; cases ho; cases hf; rfl
theorem OpcodeMap.fshr (f : Form) : OpcodeMap.Statement (.fshr f) := by intro o g ho hf; cases ho; cases hf; rfl
theorem OpcodeMap.clz (f : Form) : OpcodeMap.Statement (.clz f) := by intro o g ho hf; cases ho; cases hf; rfl
theorem OpcodeMap.ctz (f : Form) : OpcodeMap.Statement (.ctz f) := by intro o g ho hf; cases ho; cases hf; rfl
theorem OpcodeMap.popc (f : Form) : OpcodeMap.Statement (.popc f) := by intro o g ho hf; cases ho; cases hf; rfl
theorem OpcodeMap.brev (f : Form) : OpcodeMap.Statement (.brev f) := by intro o g ho hf; cases ho; cases hf; rfl
theorem OpcodeMap.bfe (f : Form) : OpcodeMap.Statement (.bfe f) := by intro o g ho hf; cases ho; cases hf; rfl
theorem OpcodeMap.bfi (f : Form) : OpcodeMap.Statement (.bfi f) := by intro o g ho hf; cases ho; cases hf; rfl
theorem OpcodeMap.bswz (f : Form) : OpcodeMap.Statement (.bswz f) := by intro o g ho hf; cases ho; cases hf; rfl
theorem OpcodeMap.icmp (f : Form) : OpcodeMap.Statement (.icmp f) := by intro o g ho hf; cases ho; cases hf; rfl
theorem OpcodeMap.isel (f : Form) : OpcodeMap.Statement (.isel f) := by intro o g ho hf; cases ho; cases hf; rfl
theorem OpcodeMap.pand (f : Form) : OpcodeMap.Statement (.pand f) := by intro o g ho hf; cases ho; cases hf; rfl
theorem OpcodeMap.por (f : Form) : OpcodeMap.Statement (.por f) := by intro o g ho hf; cases ho; cases hf; rfl
theorem OpcodeMap.pxor (f : Form) : OpcodeMap.Statement (.pxor f) := by intro o g ho hf; cases ho; cases hf; rfl
theorem OpcodeMap.pnot (f : Form) : OpcodeMap.Statement (.pnot f) := by intro o g ho hf; cases ho; cases hf; rfl
theorem OpcodeMap.pmov (f : Form) : OpcodeMap.Statement (.pmov f) := by intro o g ho hf; cases ho; cases hf; rfl
theorem OpcodeMap.pchk (f : Form) : OpcodeMap.Statement (.pchk f) := by intro o g ho hf; cases ho; cases hf; rfl
theorem OpcodeMap.mov (f : Form) : OpcodeMap.Statement (.mov f) := by intro o g ho hf; cases ho; cases hf; rfl
theorem OpcodeMap.movi (f : Form) : OpcodeMap.Statement (.movi f) := by intro o g ho hf; cases ho; cases hf; rfl
theorem OpcodeMap.movk (f : Form) : OpcodeMap.Statement (.movk f) := by intro o g ho hf; cases ho; cases hf; rfl
theorem OpcodeMap.lea (f : Form) : OpcodeMap.Statement (.lea f) := by intro o g ho hf; cases ho; cases hf; rfl
theorem OpcodeMap.cvti (f : Form) : OpcodeMap.Statement (.cvti f) := by intro o g ho hf; cases ho; cases hf; rfl
theorem OpcodeMap.gpc (f : Form) : OpcodeMap.Statement (.gpc f) := by intro o g ho hf; cases ho; cases hf; rfl
theorem OpcodeMap.fadd (f : Form) : OpcodeMap.Statement (.fadd f) := by intro o g ho hf; cases ho; cases hf; rfl
theorem OpcodeMap.fsub (f : Form) : OpcodeMap.Statement (.fsub f) := by intro o g ho hf; cases ho; cases hf; rfl
theorem OpcodeMap.fmul (f : Form) : OpcodeMap.Statement (.fmul f) := by intro o g ho hf; cases ho; cases hf; rfl
theorem OpcodeMap.ffma (f : Form) : OpcodeMap.Statement (.ffma f) := by intro o g ho hf; cases ho; cases hf; rfl
theorem OpcodeMap.fmin (f : Form) : OpcodeMap.Statement (.fmin f) := by intro o g ho hf; cases ho; cases hf; rfl
theorem OpcodeMap.fmax (f : Form) : OpcodeMap.Statement (.fmax f) := by intro o g ho hf; cases ho; cases hf; rfl
theorem OpcodeMap.fcmp (f : Form) : OpcodeMap.Statement (.fcmp f) := by intro o g ho hf; cases ho; cases hf; rfl
theorem OpcodeMap.fsel (f : Form) : OpcodeMap.Statement (.fsel f) := by intro o g ho hf; cases ho; cases hf; rfl
theorem OpcodeMap.frcp (f : Form) : OpcodeMap.Statement (.frcp f) := by intro o g ho hf; cases ho; cases hf; rfl
theorem OpcodeMap.frsq (f : Form) : OpcodeMap.Statement (.frsq f) := by intro o g ho hf; cases ho; cases hf; rfl
theorem OpcodeMap.fsqrt (f : Form) : OpcodeMap.Statement (.fsqrt f) := by intro o g ho hf; cases ho; cases hf; rfl
theorem OpcodeMap.fexp2 (f : Form) : OpcodeMap.Statement (.fexp2 f) := by intro o g ho hf; cases ho; cases hf; rfl
theorem OpcodeMap.flog2 (f : Form) : OpcodeMap.Statement (.flog2 f) := by intro o g ho hf; cases ho; cases hf; rfl
theorem OpcodeMap.fsin (f : Form) : OpcodeMap.Statement (.fsin f) := by intro o g ho hf; cases ho; cases hf; rfl
theorem OpcodeMap.fcos (f : Form) : OpcodeMap.Statement (.fcos f) := by intro o g ho hf; cases ho; cases hf; rfl
theorem OpcodeMap.ftanh (f : Form) : OpcodeMap.Statement (.ftanh f) := by intro o g ho hf; cases ho; cases hf; rfl
theorem OpcodeMap.cvtf (f : Form) : OpcodeMap.Statement (.cvtf f) := by intro o g ho hf; cases ho; cases hf; rfl
theorem OpcodeMap.cvtfi (f : Form) : OpcodeMap.Statement (.cvtfi f) := by intro o g ho hf; cases ho; cases hf; rfl
theorem OpcodeMap.cvtif (f : Form) : OpcodeMap.Statement (.cvtif f) := by intro o g ho hf; cases ho; cases hf; rfl
theorem OpcodeMap.frnd (f : Form) : OpcodeMap.Statement (.frnd f) := by intro o g ho hf; cases ho; cases hf; rfl
theorem OpcodeMap.fclass (f : Form) : OpcodeMap.Statement (.fclass f) := by intro o g ho hf; cases ho; cases hf; rfl
theorem OpcodeMap.fdiv (f : Form) : OpcodeMap.Statement (.fdiv f) := by intro o g ho hf; cases ho; cases hf; rfl
theorem OpcodeMap.hpadd (f : Form) : OpcodeMap.Statement (.hpadd f) := by intro o g ho hf; cases ho; cases hf; rfl
theorem OpcodeMap.hpmul (f : Form) : OpcodeMap.Statement (.hpmul f) := by intro o g ho hf; cases ho; cases hf; rfl
theorem OpcodeMap.hpfma (f : Form) : OpcodeMap.Statement (.hpfma f) := by intro o g ho hf; cases ho; cases hf; rfl
theorem OpcodeMap.bpadd (f : Form) : OpcodeMap.Statement (.bpadd f) := by intro o g ho hf; cases ho; cases hf; rfl
theorem OpcodeMap.bpmul (f : Form) : OpcodeMap.Statement (.bpmul f) := by intro o g ho hf; cases ho; cases hf; rfl
theorem OpcodeMap.bpfma (f : Form) : OpcodeMap.Statement (.bpfma f) := by intro o g ho hf; cases ho; cases hf; rfl
theorem OpcodeMap.hpmin (f : Form) : OpcodeMap.Statement (.hpmin f) := by intro o g ho hf; cases ho; cases hf; rfl
theorem OpcodeMap.hpmax (f : Form) : OpcodeMap.Statement (.hpmax f) := by intro o g ho hf; cases ho; cases hf; rfl
theorem OpcodeMap.qadd4 (f : Form) : OpcodeMap.Statement (.qadd4 f) := by intro o g ho hf; cases ho; cases hf; rfl
theorem OpcodeMap.qmul4 (f : Form) : OpcodeMap.Statement (.qmul4 f) := by intro o g ho hf; cases ho; cases hf; rfl
theorem OpcodeMap.qcvt (f : Form) : OpcodeMap.Statement (.qcvt f) := by intro o g ho hf; cases ho; cases hf; rfl
theorem OpcodeMap.dot4 (f : Form) : OpcodeMap.Statement (.dot4 f) := by intro o g ho hf; cases ho; cases hf; rfl
theorem OpcodeMap.dot8 (f : Form) : OpcodeMap.Statement (.dot8 f) := by intro o g ho hf; cases ho; cases hf; rfl
theorem OpcodeMap.pack (f : Form) : OpcodeMap.Statement (.pack f) := by intro o g ho hf; cases ho; cases hf; rfl
theorem OpcodeMap.unpack (f : Form) : OpcodeMap.Statement (.unpack f) := by intro o g ho hf; cases ho; cases hf; rfl
theorem OpcodeMap.lget (f : Form) : OpcodeMap.Statement (.lget f) := by intro o g ho hf; cases ho; cases hf; rfl
theorem OpcodeMap.lrot (f : Form) : OpcodeMap.Statement (.lrot f) := by intro o g ho hf; cases ho; cases hf; rfl
theorem OpcodeMap.lslide (f : Form) : OpcodeMap.Statement (.lslide f) := by intro o g ho hf; cases ho; cases hf; rfl
theorem OpcodeMap.lswap (f : Form) : OpcodeMap.Statement (.lswap f) := by intro o g ho hf; cases ho; cases hf; rfl
theorem OpcodeMap.lmask (f : Form) : OpcodeMap.Statement (.lmask f) := by intro o g ho hf; cases ho; cases hf; rfl
theorem OpcodeMap.quorum (f : Form) : OpcodeMap.Statement (.quorum f) := by intro o g ho hf; cases ho; cases hf; rfl
theorem OpcodeMap.lcomb (f : Form) : OpcodeMap.Statement (.lcomb f) := by intro o g ho hf; cases ho; cases hf; rfl
theorem OpcodeMap.ldup (f : Form) : OpcodeMap.Statement (.ldup f) := by intro o g ho hf; cases ho; cases hf; rfl
theorem OpcodeMap.ld (f : Form) : OpcodeMap.Statement (.ld f) := by intro o g ho hf; cases ho; cases hf; rfl
theorem OpcodeMap.ldb (f : Form) : OpcodeMap.Statement (.ldb f) := by intro o g ho hf; cases ho; cases hf; rfl
theorem OpcodeMap.lds (f : Form) : OpcodeMap.Statement (.lds f) := by intro o g ho hf; cases ho; cases hf; rfl
theorem OpcodeMap.ldr (f : Form) : OpcodeMap.Statement (.ldr f) := by intro o g ho hf; cases ho; cases hf; rfl
theorem OpcodeMap.ldk (f : Form) : OpcodeMap.Statement (.ldk f) := by intro o g ho hf; cases ho; cases hf; rfl
theorem OpcodeMap.st (f : Form) : OpcodeMap.Statement (.st f) := by intro o g ho hf; cases ho; cases hf; rfl
theorem OpcodeMap.stb (f : Form) : OpcodeMap.Statement (.stb f) := by intro o g ho hf; cases ho; cases hf; rfl
theorem OpcodeMap.sts (f : Form) : OpcodeMap.Statement (.sts f) := by intro o g ho hf; cases ho; cases hf; rfl
theorem OpcodeMap.str (f : Form) : OpcodeMap.Statement (.str f) := by intro o g ho hf; cases ho; cases hf; rfl
theorem OpcodeMap.atom (f : Form) : OpcodeMap.Statement (.atom f) := by intro o g ho hf; cases ho; cases hf; rfl
theorem OpcodeMap.acas (f : Form) : OpcodeMap.Statement (.acas f) := by intro o g ho hf; cases ho; cases hf; rfl
theorem OpcodeMap.afadd (f : Form) : OpcodeMap.Statement (.afadd f) := by intro o g ho hf; cases ho; cases hf; rfl
theorem OpcodeMap.atoms (f : Form) : OpcodeMap.Statement (.atoms f) := by intro o g ho hf; cases ho; cases hf; rfl
theorem OpcodeMap.acass (f : Form) : OpcodeMap.Statement (.acass f) := by intro o g ho hf; cases ho; cases hf; rfl
theorem OpcodeMap.red (f : Form) : OpcodeMap.Statement (.red f) := by intro o g ho hf; cases ho; cases hf; rfl
theorem OpcodeMap.cpa (f : Form) : OpcodeMap.Statement (.cpa f) := by intro o g ho hf; cases ho; cases hf; rfl
theorem OpcodeMap.rgnset (f : Form) : OpcodeMap.Statement (.rgnset f) := by intro o g ho hf; cases ho; cases hf; rfl
theorem OpcodeMap.rgnclr (f : Form) : OpcodeMap.Statement (.rgnclr f) := by intro o g ho hf; cases ho; cases hf; rfl
theorem OpcodeMap.rgnfl (f : Form) : OpcodeMap.Statement (.rgnfl f) := by intro o g ho hf; cases ho; cases hf; rfl
theorem OpcodeMap.chkw (f : Form) : OpcodeMap.Statement (.chkw f) := by intro o g ho hf; cases ho; cases hf; rfl
theorem OpcodeMap.chkt (f : Form) : OpcodeMap.Statement (.chkt f) := by intro o g ho hf; cases ho; cases hf; rfl
theorem OpcodeMap.tset (f : Form) : OpcodeMap.Statement (.tset f) := by intro o g ho hf; cases ho; cases hf; rfl
theorem OpcodeMap.tget (f : Form) : OpcodeMap.Statement (.tget f) := by intro o g ho hf; cases ho; cases hf; rfl
theorem OpcodeMap.pbar (f : Form) : OpcodeMap.Statement (.pbar f) := by intro o g ho hf; cases ho; cases hf; rfl
theorem OpcodeMap.tcfg (f : Form) : OpcodeMap.Statement (.tcfg f) := by intro o g ho hf; cases ho; cases hf; rfl
theorem OpcodeMap.tld (f : Form) : OpcodeMap.Statement (.tld f) := by intro o g ho hf; cases ho; cases hf; rfl
theorem OpcodeMap.tst (f : Form) : OpcodeMap.Statement (.tst f) := by intro o g ho hf; cases ho; cases hf; rfl
theorem OpcodeMap.tzero (f : Form) : OpcodeMap.Statement (.tzero f) := by intro o g ho hf; cases ho; cases hf; rfl
theorem OpcodeMap.mma (f : Form) : OpcodeMap.Statement (.mma f) := by intro o g ho hf; cases ho; cases hf; rfl
theorem OpcodeMap.mmas (f : Form) : OpcodeMap.Statement (.mmas f) := by intro o g ho hf; cases ho; cases hf; rfl
theorem OpcodeMap.mtrn (f : Form) : OpcodeMap.Statement (.mtrn f) := by intro o g ho hf; cases ho; cases hf; rfl
theorem OpcodeMap.tmov (f : Form) : OpcodeMap.Statement (.tmov f) := by intro o g ho hf; cases ho; cases hf; rfl
theorem OpcodeMap.unite (f : Form) : OpcodeMap.Statement (.unite f) := by intro o g ho hf; cases ho; cases hf; rfl
theorem OpcodeMap.find (f : Form) : OpcodeMap.Statement (.find f) := by intro o g ho hf; cases ho; cases hf; rfl
theorem OpcodeMap.dsize (f : Form) : OpcodeMap.Statement (.dsize f) := by intro o g ho hf; cases ho; cases hf; rfl
theorem OpcodeMap.relabel (f : Form) : OpcodeMap.Statement (.relabel f) := by intro o g ho hf; cases ho; cases hf; rfl
theorem OpcodeMap.dsnap (f : Form) : OpcodeMap.Statement (.dsnap f) := by intro o g ho hf; cases ho; cases hf; rfl
theorem OpcodeMap.dundo (f : Form) : OpcodeMap.Statement (.dundo f) := by intro o g ho hf; cases ho; cases hf; rfl
theorem OpcodeMap.dinit (f : Form) : OpcodeMap.Statement (.dinit f) := by intro o g ho hf; cases ho; cases hf; rfl
theorem OpcodeMap.trial (f : Form) : OpcodeMap.Statement (.trial f) := by intro o g ho hf; cases ho; cases hf; rfl
theorem OpcodeMap.tret (f : Form) : OpcodeMap.Statement (.tret f) := by intro o g ho hf; cases ho; cases hf; rfl
theorem OpcodeMap.xld (f : Form) : OpcodeMap.Statement (.xld f) := by intro o g ho hf; cases ho; cases hf; rfl
theorem OpcodeMap.sigins (f : Form) : OpcodeMap.Statement (.sigins f) := by intro o g ho hf; cases ho; cases hf; rfl
theorem OpcodeMap.sigclr (f : Form) : OpcodeMap.Statement (.sigclr f) := by intro o g ho hf; cases ho; cases hf; rfl
theorem OpcodeMap.rng (f : Form) : OpcodeMap.Statement (.rng f) := by intro o g ho hf; cases ho; cases hf; rfl
theorem OpcodeMap.fold (f : Form) : OpcodeMap.Statement (.fold f) := by intro o g ho hf; cases ho; cases hf; rfl
theorem OpcodeMap.mreqCreate (addr : Nat) : OpcodeMap.Statement (.mreqCreate addr) := by intro o g ho hf; cases ho
theorem OpcodeMap.mreqDestroy (addr : Nat) : OpcodeMap.Statement (.mreqDestroy addr) := by intro o g ho hf; cases ho
theorem OpcodeMap.schedStep (die : Nat) : OpcodeMap.Statement (.schedStep die) := by intro o g ho hf; cases ho
theorem OpcodeMap.preemptSave (gang examples : Nat) : OpcodeMap.Statement (.preemptSave gang examples) := by intro o g ho hf; cases ho
theorem OpcodeMap.resumeRestore (gang : Nat) : OpcodeMap.Statement (.resumeRestore gang) := by intro o g ho hf; cases ho
theorem OpcodeMap.drainDone (gang : Nat) : OpcodeMap.Statement (.drainDone gang) := by intro o g ho hf; cases ho
theorem OpcodeMap.phasePublish (core lines : Nat) : OpcodeMap.Statement (.phasePublish core lines) := by intro o g ho hf; cases ho
theorem OpcodeMap.phaseMessage (msg : Nat) : OpcodeMap.Statement (.phaseMessage msg) := by intro o g ho hf; cases ho
theorem OpcodeMap.domainFloorMessage (dev compl dgroup : Nat) (queued : Bool) (floor : Option (BitVec 32)) : OpcodeMap.Statement (.domainFloorMessage dev compl dgroup queued floor) := by intro o g ho hf; cases ho
theorem OpcodeMap.spargeQuiescence (core : Nat) : OpcodeMap.Statement (.spargeQuiescence core) := by intro o g ho hf; cases ho
theorem OpcodeMap.spargeStarvation (core : Nat) : OpcodeMap.Statement (.spargeStarvation core) := by intro o g ho hf; cases ho
theorem OpcodeMap.trapEntry (core slot : Nat) : OpcodeMap.Statement (.trapEntry core slot) := by intro o g ho hf; cases ho
theorem OpcodeMap.gbarArrival (msg : Nat) : OpcodeMap.Statement (.gbarArrival msg) := by intro o g ho hf; cases ho
theorem OpcodeMap.storeCheck (core : Nat) : OpcodeMap.Statement (.storeCheck core) := by intro o g ho hf; cases ho
theorem OpcodeMap.storeFaultDeliver (core slot : Nat) : OpcodeMap.Statement (.storeFaultDeliver core slot) := by intro o g ho hf; cases ho
theorem OpcodeMap.varlatComplete (core op : Nat) (lanes : BitVec 32) (regs : BitVec 4) (land : Bool) : OpcodeMap.Statement (.varlatComplete core op lanes regs land) := by intro o g ho hf; cases ho
theorem OpcodeMap.pageWalkDone (walk : Nat) : OpcodeMap.Statement (.pageWalkDone walk) := by intro o g ho hf; cases ho
theorem OpcodeMap.ansReplay (die walk : Nat) : OpcodeMap.Statement (.ansReplay die walk) := by intro o g ho hf; cases ho
theorem OpcodeMap.ansRefuse (die walk : Nat) : OpcodeMap.Statement (.ansRefuse die walk) := by intro o g ho hf; cases ho
theorem OpcodeMap.tileJobDone (core job : Nat) (bad : List Nat) : OpcodeMap.Statement (.tileJobDone core job bad) := by intro o g ho hf; cases ho
theorem OpcodeMap.cpaCopyDone (core op : Nat) (lanes : BitVec 32) : OpcodeMap.Statement (.cpaCopyDone core op lanes) := by intro o g ho hf; cases ho
theorem OpcodeMap.chunkArrive (core region chunk : Nat) : OpcodeMap.Statement (.chunkArrive core region chunk) := by intro o g ho hf; cases ho
theorem OpcodeMap.copyoutAck (core region : Nat) : OpcodeMap.Statement (.copyoutAck core region) := by intro o g ho hf; cases ho
theorem OpcodeMap.relabelDone (core job : Nat) : OpcodeMap.Statement (.relabelDone core job) := by intro o g ho hf; cases ho
theorem OpcodeMap.strArrive (msg : Nat) : OpcodeMap.Statement (.strArrive msg) := by intro o g ho hf; cases ho
theorem OpcodeMap.ldrArrive (core op : Nat) (lanes : BitVec 32) : OpcodeMap.Statement (.ldrArrive core op lanes) := by intro o g ho hf; cases ho
theorem OpcodeMap.waitwRetest (core slot lane : Nat) : OpcodeMap.Statement (.waitwRetest core slot lane) := by intro o g ho hf; cases ho
theorem OpcodeMap.sleepExpire (core slot : Nat) : OpcodeMap.Statement (.sleepExpire core slot) := by intro o g ho hf; cases ho
theorem OpcodeMap.ageExpire (core slot : Nat) : OpcodeMap.Statement (.ageExpire core slot) := by intro o g ho hf; cases ho
theorem OpcodeMap.nopreExpire (core slot : Nat) : OpcodeMap.Statement (.nopreExpire core slot) := by intro o g ho hf; cases ho
theorem OpcodeMap.trialComplete (core slot : Nat) (bad : List (Nat × Nat × Nat)) : OpcodeMap.Statement (.trialComplete core slot bad) := by intro o g ho hf; cases ho
theorem OpcodeMap.trialAbandon (core slot : Nat) : OpcodeMap.Statement (.trialAbandon core slot) := by intro o g ho hf; cases ho
theorem OpcodeMap.scrubPassStart (cls unit : Nat) : OpcodeMap.Statement (.scrubPassStart cls unit) := by intro o g ho hf; cases ho
theorem OpcodeMap.kilnScrubRead (cls unit addr : Nat) (err : BitVec 2) : OpcodeMap.Statement (.kilnScrubRead cls unit addr err) := by intro o g ho hf; cases ho
theorem OpcodeMap.bucketDrainTick (cls unit : Nat) : OpcodeMap.Statement (.bucketDrainTick cls unit) := by intro o g ho hf; cases ho
theorem OpcodeMap.bucketWindowClose (cls unit : Nat) : OpcodeMap.Statement (.bucketWindowClose cls unit) := by intro o g ho hf; cases ho
theorem OpcodeMap.remap (cls unit row : Nat) : OpcodeMap.Statement (.remap cls unit row) := by intro o g ho hf; cases ho
theorem OpcodeMap.containmentScan (upsets : List (Nat × Nat × Nat × Nat)) : OpcodeMap.Statement (.containmentScan upsets) := by intro o g ho hf; cases ho
theorem OpcodeMap.fieldTestDue (die cluster : Nat) : OpcodeMap.Statement (.fieldTestDue die cluster) := by intro o g ho hf; cases ho
theorem OpcodeMap.fieldTest (die cluster : Nat) : OpcodeMap.Statement (.fieldTest die cluster) := by intro o g ho hf; cases ho
theorem OpcodeMap.fieldTestEnd (die cluster : Nat) (failing : List (Nat × Nat × Nat)) : OpcodeMap.Statement (.fieldTestEnd die cluster failing) := by intro o g ho hf; cases ho
theorem OpcodeMap.powerLossFlush (keep : Nat) : OpcodeMap.Statement (.powerLossFlush keep) := by intro o g ho hf; cases ho
theorem OpcodeMap.clockAdjust (pnow tj : Nat) : OpcodeMap.Statement (.clockAdjust pnow tj) := by intro o g ho hf; cases ho
theorem OpcodeMap.remoteTimeout (req : Nat) : OpcodeMap.Statement (.remoteTimeout req) := by intro o g ho hf; cases ho
theorem OpcodeMap.boot (dev : BitVec 20) : OpcodeMap.Statement (.boot dev) := by intro o g ho hf; cases ho
theorem OpcodeMap.wakeZero (core : Nat) : OpcodeMap.Statement (.wakeZero core) := by intro o g ho hf; cases ho
theorem OpcodeMap.invRequest (ctl : BitVec 32) : OpcodeMap.Statement (.invRequest ctl) := by intro o g ho hf; cases ho
theorem OpcodeMap.invDone : OpcodeMap.Statement (.invDone) := by intro o g ho hf; cases ho
theorem OpcodeMap.hfqBaseWrite (die : Nat) (val : BitVec 64) : OpcodeMap.Statement (.hfqBaseWrite die val) := by intro o g ho hf; cases ho
theorem OpcodeMap.statusRead : OpcodeMap.Statement (.statusRead) := by intro o g ho hf; cases ho
theorem OpcodeMap.ctrlPageWrite (off : Nat) (val : BitVec 64) : OpcodeMap.Statement (.ctrlPageWrite off val) := by intro o g ho hf; cases ho
theorem OpcodeMap.bar2Read (off n : Nat) : OpcodeMap.Statement (.bar2Read off n) := by intro o g ho hf; cases ho
theorem OpcodeMap.bar2Write (off : Nat) (bytes : List Byte) : OpcodeMap.Statement (.bar2Write off bytes) := by intro o g ho hf; cases ho
theorem OpcodeMap.tagViewRead (off : Nat) : OpcodeMap.Statement (.tagViewRead off) := by intro o g ho hf; cases ho
theorem OpcodeMap.tagViewWrite (off : Nat) (val : Byte) : OpcodeMap.Statement (.tagViewWrite off val) := by intro o g ho hf; cases ho
theorem OpcodeMap.getVersion : OpcodeMap.Statement (.getVersion) := by intro o g ho hf; cases ho
theorem OpcodeMap.getCapabilities : OpcodeMap.Statement (.getCapabilities) := by intro o g ho hf; cases ho
theorem OpcodeMap.negotiateAlgorithms : OpcodeMap.Statement (.negotiateAlgorithms) := by intro o g ho hf; cases ho
theorem OpcodeMap.getDigests : OpcodeMap.Statement (.getDigests) := by intro o g ho hf; cases ho
theorem OpcodeMap.getCertificate : OpcodeMap.Statement (.getCertificate) := by intro o g ho hf; cases ho
theorem OpcodeMap.challenge (nonce : Nat) : OpcodeMap.Statement (.challenge nonce) := by intro o g ho hf; cases ho
theorem OpcodeMap.getMeasurements (nonce : Nat) : OpcodeMap.Statement (.getMeasurements nonce) := by intro o g ho hf; cases ho
theorem OpcodeMap.nonInstruction (w0 : BitVec 32) : OpcodeMap.Statement (.nonInstruction w0) := by intro o g ho hf; cases ho
theorem OpcodeMap.fetchFault (cause : BitVec 8) (addr : BitVec 64) : OpcodeMap.Statement (.fetchFault cause addr) := by intro o g ho hf; cases ho
theorem OpcodeMap.emptyRound : OpcodeMap.Statement (.emptyRound) := by intro o g ho hf; cases ho
theorem OpcodeMap.hfqConsWrite (die : Nat) (val : BitVec 32) : OpcodeMap.Statement (.hfqConsWrite die val) := by intro o g ho hf; cases ho
theorem OpcodeMap.msixUnmask (vector : Nat) : OpcodeMap.Statement (.msixUnmask vector) := by intro o g ho hf; cases ho
theorem OpcodeMap.linkRetraining : OpcodeMap.Statement (.linkRetraining) := by intro o g ho hf; cases ho
theorem OpcodeMap.fabricPortLoss (port : Nat) : OpcodeMap.Statement (.fabricPortLoss port) := by intro o g ho hf; cases ho
theorem OpcodeMap.remoteAccessArrive (pa : Nat) (write : Option (List Byte)) (n : Nat) (atom : Option (Nat × BitVec 4 × BitVec 64 × BitVec 64)) : OpcodeMap.Statement (.remoteAccessArrive pa write n atom) := by intro o g ho hf; cases ho

end Sys2Proof.Laws
end

