-- ==== Sys2Proof/Tests/Slice0.lean ====
section
/-! SUPPORT. Tests: words of the spec's encoding, ill-formed terms refused, one step of instructions on small states, and
for every statement states and operands that meet its hypotheses. -/

namespace Sys2Proof.Tests

open Sys2Proof Sys2Proof.Machine

/-! ### Words (R228 to R241) -/

/-- W0 by R229: GP, SB, SA, DST, MIN, MAJ, LEN. -/
def r229 (gp : BitVec 3) (sb sa dst : BitVec 6) (mn : BitVec 3) (mj : BitVec 6) (len : BitVec 2) : Word :=
  gp ++ sb ++ sa ++ dst ++ mn ++ mj ++ len

/-- W1 by R230: MOD, HOLD, DK, KC of SC, SB and SA, GN, SC, SBX, SAX, DSTX. -/
def r230 (md : BitVec 11) (hold : BitVec 2) (dk kcc kcb kca gn : BitVec 1) (sc : BitVec 8) (sbx sax dstx : BitVec 2) : Word :=
  md ++ hold ++ dk ++ kcc ++ kcb ++ kca ++ gn ++ sc ++ sbx ++ sax ++ dstx

/-- The fields, in the order LEN, GP, GN, DST, SA, SB, SC, KC of SA, SB and SC, DK, HOLD, MOD, AUX, LIT. -/
def tf (len : BitVec 2) (gp : BitVec 3) (gn : Bool) (dst sa sb sc : BitVec 8) (kca kcb kcc dk : Bool) (hold : BitVec 2)
    (md : BitVec 11) (aux : BitVec 32) (lit : BitVec 64) : Form :=
  { len := len, gp := gp, gn := gn, dst := dst, sa := sa, sb := sb, sc := sc, kca := kca, kcb := kcb, kcc := kcc, dk := dk,
    hold := hold, md := md, aux := aux, lit := lit }

/-- A word, the instruction it stands for, and its fields. -/
def w (x : Words) (mk : Form → Instr) (f : Form) : Words × Instr × Form := (x, mk f, f)

/-- Each word decodes to the instruction beside it, and encoding that gives the word again. -/
def decodesAll (l : List (Words × Instr × Form)) : Bool :=
  l.all fun p => (match decode p.1 with | .ok i => decide (i = p.2.1) | .error _ => false) && decide (encode p.2.1 = some p.1)

/-- MAJ 0x00. -/
def wordsFlow : List (Words × Instr × Form) := [
  w ⟨r229 3 0 0 0 0 0 1, r230 0 0 0 0 0 0 1 0 0 0 0, 0, 0, 0⟩ .nop (tf 1 3 true 0 0 0 0 false false false false 0 0 0 0),
  w ⟨r229 3 0 0 0 1 0 1, r230 0 0 0 0 0 0 1 0 0 0 0, 0, 0, 0⟩ .exit (tf 1 3 true 0 0 0 0 false false false false 0 0 0 0),
  w ⟨r229 3 0 0 0 2 0 1, r230 0 0 0 0 0 0 1 0 0 0 0, 0, 0, 0⟩ .yield (tf 1 3 true 0 0 0 0 false false false false 0 0 0 0),
  w ⟨r229 3 33 9 0 3 0 0, 0, 0, 0, 0⟩ .sleep (tf 0 3 false 0 9 33 0 false false false false 0 0 0 0),
  w ⟨r229 3 0 0 0 4 0 1, r230 0 0 0 0 0 0 1 0 0 0 0, 0, 0, 0⟩ .nopre (tf 1 3 true 0 0 0 0 false false false false 0 0 0 0),
  w ⟨r229 3 0 0 0 5 0 1, r230 0 0 0 0 0 0 1 0 0 0 0, 0, 0, 0⟩ .preok (tf 1 3 true 0 0 0 0 false false false false 0 0 0 0)]

/-- MAJ 0x01. -/
def wordsBranch : List (Words × Instr × Form) := [
  w ⟨r229 3 0 0 0 0 1 1, r230 0 0 0 0 0 0 1 0 0 0 0, 620079, 0, 0⟩ .bra (tf 1 3 true 0 0 0 0 false false false false 0 0 620079 0),
  w ⟨r229 3 0 9 0 1 1 1, r230 0 0 0 0 0 0 1 0 0 0 0, 0, 0, 0⟩ .bri (tf 1 3 true 0 9 0 0 false false false false 0 0 0 0),
  w ⟨r229 3 0 7 6 2 1 3, r230 0 0 0 0 0 0 1 0 0 2 1, 1, 0x56789ABC, 0x1234⟩ .call (tf 3 3 true 70 135 0 0 false false false false 0 0 1 20015998343868),
  w ⟨r229 3 33 9 5 3 1 1, r230 0 0 0 0 0 0 1 0 0 0 0, 1, 0, 0⟩ .calli (tf 1 3 true 5 9 33 0 false false false false 0 0 1 0),
  w ⟨r229 3 0 0 0 4 1 0, 0, 0, 0, 0⟩ .ret (tf 0 3 false 0 0 0 0 false false false false 0 0 0 0),
  w ⟨r229 3 0 9 0 5 1 0, 0, 0, 0, 0⟩ .unwind (tf 0 3 false 0 9 0 0 false false false false 0 0 0 0),
  w ⟨r229 3 10 7 0 6 1 0, 0, 0, 0, 0⟩ .trap (tf 0 3 false 0 7 10 0 false false false false 0 0 0 0),
  w ⟨r229 7 0 0 0 7 1 0, 0, 0, 0, 0⟩ .eret (tf 0 7 false 0 0 0 0 false false false false 0 0 0 0)]

/-- MAJ 0x02. -/
def wordsSystem : List (Words × Instr × Form) := [
  w ⟨r229 3 0 0 6 0 2 1, r230 0 0 0 0 0 0 1 0 0 0 1, 132, 0, 0⟩ .mfs (tf 1 3 true 70 0 0 0 false false false false 0 0 132 0),
  w ⟨r229 3 0 9 0 1 2 1, r230 0 0 0 0 0 0 1 0 0 0 0, 8, 0, 0⟩ .mts (tf 1 3 true 0 9 0 0 false false false false 0 0 8 0),
  w ⟨r229 3 0 7 6 2 2 1, r230 0 0 0 0 0 0 1 0 0 2 1, 122, 0, 0⟩ .launch (tf 1 3 true 70 135 0 0 false false false false 0 0 122 0),
  w ⟨r229 3 1 9 0 3 2 1, r230 1 0 0 0 1 0 1 0 0 0 0, 4, 0, 0⟩ .waitw (tf 1 3 true 0 9 1 0 false true false false 0 1 4 0),
  w ⟨r229 3 0 7 0 4 2 1, r230 0 0 0 0 0 0 1 0 0 2 0, 65536, 0, 0⟩ .ipf (tf 1 3 true 0 135 0 0 false false false false 0 0 65536 0),
  w ⟨r229 3 0 9 0 5 2 1, r230 0 0 0 0 0 0 1 0 0 0 0, 213744, 0, 0⟩ .ipin (tf 1 3 true 0 9 0 0 false false false false 0 0 213744 0),
  w ⟨r229 3 0 7 0 6 2 1, r230 0 0 0 0 0 0 1 0 0 2 0, 132, 0, 0⟩ .iunpin (tf 1 3 true 0 135 0 0 false false false false 0 0 132 0),
  w ⟨r229 3 0 0 0 7 2 1, r230 0 0 0 0 0 0 1 0 0 0 0, 0, 0, 0⟩ .fencei (tf 1 3 true 0 0 0 0 false false false false 0 0 0 0)]

/-- MAJ 0x03. -/
def wordsBarrier : List (Words × Instr × Form) := [
  w ⟨r229 3 10 7 0 0 3 0, 0, 0, 0, 0⟩ .bar (tf 0 3 false 0 7 10 0 false false false false 0 0 0 0),
  w ⟨r229 3 0 1 0 1 3 0, 0, 0, 0, 0⟩ .gbar (tf 0 3 false 0 1 0 0 false false false false 0 0 0 0),
  w ⟨r229 3 10 7 6 2 3 1, r230 1 0 0 0 0 0 1 0 0 2 0, 0, 0, 0⟩ .btest (tf 1 3 true 6 135 10 0 false false false false 0 1 0 0),
  w ⟨r229 3 0 0 0 3 3 1, r230 0 0 0 0 0 0 1 0 0 0 0, 0, 0, 0⟩ .phase (tf 1 3 true 0 0 0 0 false false false false 0 0 0 0),
  w ⟨r229 3 0 0 0 4 3 1, r230 0 0 0 0 0 0 1 0 0 0 0, 8, 0, 0⟩ .wait (tf 1 3 true 0 0 0 0 false false false false 0 0 8 0),
  w ⟨r229 3 33 1 1 5 3 0, 0, 0, 0, 0⟩ .waitt (tf 0 3 false 1 1 33 0 false false false false 0 0 0 0),
  w ⟨r229 3 0 0 0 6 3 1, r230 0 0 0 0 0 0 1 0 0 0 0, 0, 0, 0⟩ .sdrain (tf 1 3 true 0 0 0 0 false false false false 0 0 0 0)]

/-- MAJ 0x04. -/
def wordsFrame : List (Words × Instr × Form) := [
  w ⟨r229 3 10 0 6 0 4 1, r230 0 0 0 0 0 0 1 0 3 0 1, 4, 0, 0⟩ .frd (tf 1 3 true 70 0 202 0 false false false false 0 0 4 0),
  w ⟨r229 3 10 7 0 1 4 1, r230 0 0 0 0 0 0 1 0 3 2 0, 8, 0, 0⟩ .fwr (tf 1 3 true 0 135 202 0 false false false false 0 0 8 0),
  w ⟨r229 3 0 0 6 2 4 0, 0, 0, 0, 0⟩ .finfo (tf 0 3 false 6 0 0 0 false false false false 0 0 0 0)]

/-- MAJ 0x08. -/
def wordsInteger : List (Words × Instr × Form) := [
  w ⟨r229 3 0 7 6 0 8 3, r230 64 0 0 0 0 0 1 0 0 2 1, 0, 0x5ABCDEF0, 0x0⟩ .iadd (tf 3 3 true 70 135 0 0 false false false false 0 64 0 1522327280),
  w ⟨r229 3 0 9 5 1 8 3, r230 3 0 0 0 0 0 1 0 0 0 0, 0, 0x76543210, 0xFEDCBA98⟩ .isub (tf 3 3 true 5 9 0 0 false false false false 0 3 0 18364758544493064720),
  w ⟨r229 3 0 7 6 2 8 3, r230 2 0 0 0 0 0 1 0 0 2 1, 0, 0x76543210, 0xFEDCBA98⟩ .imin (tf 3 3 true 70 135 0 0 false false false false 0 2 0 18364758544493064720),
  w ⟨r229 3 0 7 6 3 8 3, r230 3 0 0 0 0 0 1 0 0 2 1, 0, 0x76543210, 0xFEDCBA98⟩ .imax (tf 3 3 true 70 135 0 0 false false false false 0 3 0 18364758544493064720),
  w ⟨r229 3 0 7 6 4 8 1, r230 2 0 0 0 0 0 1 0 0 2 1, 0, 0, 0⟩ .iabs (tf 1 3 true 70 135 0 0 false false false false 0 2 0 0),
  w ⟨r229 3 0 7 6 5 8 1, r230 64 0 0 0 0 0 1 0 0 2 1, 0, 0, 0⟩ .ineg (tf 1 3 true 70 135 0 0 false false false false 0 64 0 0),
  w ⟨r229 3 0 7 6 6 8 3, r230 64 0 0 0 0 0 1 98 0 2 1, 0, 0x5ABCDEF0, 0x0⟩ .isad (tf 3 3 true 70 135 0 98 false false false false 0 64 0 1522327280)]

/-- MAJ 0x09. -/
def wordsMultiply : List (Words × Instr × Form) := [
  w ⟨r229 3 0 9 5 0 9 3, r230 3 0 0 0 0 0 1 0 0 0 0, 0, 0x76543210, 0xFEDCBA98⟩ .imul (tf 3 3 true 5 9 0 0 false false false false 0 3 0 18364758544493064720),
  w ⟨r229 3 0 7 6 1 9 3, r230 1 0 0 0 0 0 1 0 0 2 1, 0, 0x5ABCDEF0, 0x0⟩ .imulh (tf 3 3 true 70 135 0 0 false false false false 0 1 0 1522327280),
  w ⟨r229 3 0 9 5 2 9 3, r230 1 0 0 1 0 0 1 2 0 0 0, 0, 0x5ABCDEF0, 0x0⟩ .imad (tf 3 3 true 5 9 0 2 false false true false 0 1 0 1522327280),
  w ⟨r229 3 0 9 5 3 9 3, r230 3 0 0 0 0 0 1 0 0 0 0, 0, 0x76543210, 0xFEDCBA98⟩ .idiv (tf 3 3 true 5 9 0 0 false false false false 0 3 0 18364758544493064720),
  w ⟨r229 3 0 7 6 4 9 3, r230 1 0 0 0 0 0 1 0 0 2 1, 0, 0x5ABCDEF0, 0x0⟩ .irem (tf 3 3 true 70 135 0 0 false false false false 0 1 0 1522327280),
  w ⟨r229 3 0 9 5 5 9 3, r230 1 0 0 0 0 0 1 0 0 0 0, 0, 0x5ABCDEF0, 0x0⟩ .imulw (tf 3 3 true 5 9 0 0 false false false false 0 1 0 1522327280)]

/-- MAJ 0x0A. -/
def wordsLogic : List (Words × Instr × Form) := [
  w ⟨r229 3 0 9 5 0 10 3, r230 2 0 0 0 0 0 1 0 0 0 0, 0, 0x76543210, 0xFEDCBA98⟩ .and (tf 3 3 true 5 9 0 0 false false false false 0 2 0 18364758544493064720),
  w ⟨r229 3 0 7 6 1 10 3, r230 3 0 0 0 0 0 1 0 0 2 1, 0, 0x76543210, 0xFEDCBA98⟩ .or (tf 3 3 true 70 135 0 0 false false false false 0 3 0 18364758544493064720),
  w ⟨r229 3 0 7 6 2 10 3, r230 3 0 0 0 0 0 1 0 0 2 1, 0, 0x76543210, 0xFEDCBA98⟩ .xor (tf 3 3 true 70 135 0 0 false false false false 0 3 0 18364758544493064720),
  w ⟨r229 3 0 9 5 3 10 3, r230 2 0 0 0 0 0 1 0 0 0 0, 0, 0x76543210, 0xFEDCBA98⟩ .andn (tf 3 3 true 5 9 0 0 false false false false 0 2 0 18364758544493064720),
  w ⟨r229 3 0 9 5 4 10 1, r230 2 0 0 0 0 0 1 0 0 0 0, 0, 0, 0⟩ .not (tf 1 3 true 5 9 0 0 false false false false 0 2 0 0),
  w ⟨r229 3 0 9 5 5 10 3, r230 1 0 0 0 0 0 1 98 0 0 0, 8, 0x5ABCDEF0, 0x0⟩ .blut (tf 3 3 true 5 9 0 98 false false false false 0 1 8 1522327280)]

/-- MAJ 0x0B. -/
def wordsShift : List (Words × Instr × Form) := [
  w ⟨r229 3 0 9 5 0 11 3, r230 3 0 0 0 0 0 1 0 0 0 0, 0, 0x5ABCDEF0, 0x0⟩ .shl (tf 3 3 true 5 9 0 0 false false false false 0 3 0 1522327280),
  w ⟨r229 3 0 9 5 1 11 3, r230 1 0 0 0 0 0 1 0 0 0 0, 0, 0x5ABCDEF0, 0x0⟩ .shr (tf 3 3 true 5 9 0 0 false false false false 0 1 0 1522327280),
  w ⟨r229 3 0 7 6 2 11 3, r230 3 0 0 0 0 0 1 0 0 2 1, 0, 0x5ABCDEF0, 0x0⟩ .sar (tf 3 3 true 70 135 0 0 false false false false 0 3 0 1522327280),
  w ⟨r229 3 0 9 5 3 11 3, r230 3 0 0 0 0 0 1 0 0 0 0, 0, 0x5ABCDEF0, 0x0⟩ .rotl (tf 3 3 true 5 9 0 0 false false false false 0 3 0 1522327280),
  w ⟨r229 3 0 9 5 4 11 3, r230 1 0 0 0 0 0 1 0 0 0 0, 0, 0x5ABCDEF0, 0x0⟩ .rotr (tf 3 3 true 5 9 0 0 false false false false 0 1 0 1522327280),
  w ⟨r229 3 0 7 6 5 11 3, r230 1 0 0 0 0 0 1 98 0 2 1, 0, 0x5ABCDEF0, 0x0⟩ .fshl (tf 3 3 true 70 135 0 98 false false false false 0 1 0 1522327280),
  w ⟨r229 3 0 7 6 6 11 3, r230 1 0 0 0 0 0 1 98 0 2 1, 0, 0x5ABCDEF0, 0x0⟩ .fshr (tf 3 3 true 70 135 0 98 false false false false 0 1 0 1522327280)]

/-- MAJ 0x0C. -/
def wordsBit : List (Words × Instr × Form) := [
  w ⟨r229 3 0 7 6 0 12 1, r230 2 0 0 0 0 0 1 0 0 2 1, 0, 0, 0⟩ .clz (tf 1 3 true 70 135 0 0 false false false false 0 2 0 0),
  w ⟨r229 3 0 7 6 1 12 1, r230 3 0 0 0 0 0 1 0 0 2 1, 0, 0, 0⟩ .ctz (tf 1 3 true 70 135 0 0 false false false false 0 3 0 0),
  w ⟨r229 3 0 9 5 2 12 1, r230 3 0 0 0 0 0 1 0 0 0 0, 0, 0, 0⟩ .popc (tf 1 3 true 5 9 0 0 false false false false 0 3 0 0),
  w ⟨r229 3 0 7 6 3 12 1, r230 2 0 0 0 0 0 1 0 0 2 1, 0, 0, 0⟩ .brev (tf 1 3 true 70 135 0 0 false false false false 0 2 0 0),
  w ⟨r229 3 0 7 6 4 12 3, r230 1 0 0 0 0 0 1 0 0 2 1, 0, 0x5ABCDEF0, 0x0⟩ .bfe (tf 3 3 true 70 135 0 0 false false false false 0 1 0 1522327280),
  w ⟨r229 3 0 7 6 5 12 3, r230 1 0 0 0 0 0 1 98 0 2 1, 0, 0x5ABCDEF0, 0x0⟩ .bfi (tf 3 3 true 70 135 0 98 false false false false 0 1 0 1522327280),
  w ⟨r229 3 0 9 5 6 12 3, r230 0 0 0 0 0 0 1 0 0 0 0, 0, 0x5ABCDEF0, 0x0⟩ .bswz (tf 3 3 true 5 9 0 0 false false false false 0 0 0 1522327280)]

/-- MAJ 0x0D. -/
def wordsPredicate : List (Words × Instr × Form) := [
  w ⟨r229 3 0 9 5 0 13 3, r230 32 0 0 0 0 0 1 0 0 0 0, 0, 0x5ABCDEF0, 0x0⟩ .icmp (tf 3 3 true 5 9 0 0 false false false false 0 32 0 1522327280),
  w ⟨r229 3 0 7 6 1 13 3, r230 2 0 0 0 0 0 1 0 0 2 1, 0, 0x76543210, 0xFEDCBA98⟩ .isel (tf 3 3 true 70 135 0 0 false false false false 0 2 0 18364758544493064720),
  w ⟨r229 3 2 7 6 2 13 1, r230 0 0 0 0 0 0 1 0 0 0 0, 0, 0, 0⟩ .pand (tf 1 3 true 6 7 2 0 false false false false 0 0 0 0),
  w ⟨r229 3 1 1 5 3 13 1, r230 0 0 0 0 0 0 1 0 0 0 0, 0, 0, 0⟩ .por (tf 1 3 true 5 1 1 0 false false false false 0 0 0 0),
  w ⟨r229 3 1 1 5 4 13 1, r230 0 0 0 0 0 0 1 0 0 0 0, 0, 0, 0⟩ .pxor (tf 1 3 true 5 1 1 0 false false false false 0 0 0 0),
  w ⟨r229 3 0 7 6 5 13 1, r230 0 0 0 0 0 0 1 0 0 0 0, 0, 0, 0⟩ .pnot (tf 1 3 true 6 7 0 0 false false false false 0 0 0 0),
  w ⟨r229 3 0 1 5 6 13 1, r230 0 0 0 0 0 0 1 0 0 0 0, 0, 0, 0⟩ .pmov (tf 1 3 true 5 1 0 0 false false false false 0 0 0 0),
  w ⟨r229 3 0 9 5 7 13 1, r230 0 0 0 0 0 0 1 0 0 0 0, 0, 0, 0⟩ .pchk (tf 1 3 true 5 9 0 0 false false false false 0 0 0 0)]

/-- MAJ 0x0E. -/
def wordsMove : List (Words × Instr × Form) := [
  w ⟨r229 3 0 9 5 0 14 1, r230 2 0 0 0 0 0 1 0 0 0 0, 0, 0, 0⟩ .mov (tf 1 3 true 5 9 0 0 false false false false 0 2 0 0),
  w ⟨r229 3 0 0 5 1 14 1, r230 0 0 0 0 0 0 1 0 0 0 0, 8, 0, 0⟩ .movi (tf 1 3 true 5 0 0 0 false false false false 0 0 8 0),
  w ⟨r229 3 0 0 5 2 14 2, 0, 0, 0x5ABCDEF0, 0x0⟩ .movk (tf 2 3 false 5 0 0 0 false false false false 0 0 0 1522327280),
  w ⟨r229 3 10 7 6 3 14 1, r230 1 0 0 0 0 0 1 0 3 2 1, 1, 0, 0⟩ .lea (tf 1 3 true 70 135 202 0 false false false false 0 1 1 0),
  w ⟨r229 3 0 9 5 4 14 1, r230 1 0 0 0 0 0 1 0 0 0 0, 2, 0, 0⟩ .cvti (tf 1 3 true 5 9 0 0 false false false false 0 1 2 0),
  w ⟨r229 3 0 0 5 5 14 0, 0, 0, 0, 0⟩ .gpc (tf 0 3 false 5 0 0 0 false false false false 0 0 0 0)]

/-- MAJ 0x18. -/
def wordsFloat : List (Words × Instr × Form) := [
  w ⟨r229 3 0 9 5 0 24 3, r230 4 0 0 0 0 0 1 0 0 0 0, 0, 0x5ABCDEF0, 0x0⟩ .fadd (tf 3 3 true 5 9 0 0 false false false false 0 4 0 1522327280),
  w ⟨r229 3 0 7 6 1 24 3, r230 6 0 0 0 0 0 1 0 0 2 1, 0, 0x5ABCDEF0, 0x0⟩ .fsub (tf 3 3 true 70 135 0 0 false false false false 0 6 0 1522327280),
  w ⟨r229 3 0 9 5 2 24 3, r230 5 0 0 0 0 0 1 0 0 0 0, 0, 0x5ABCDEF0, 0x0⟩ .fmul (tf 3 3 true 5 9 0 0 false false false false 0 5 0 1522327280),
  w ⟨r229 3 0 9 5 3 24 3, r230 4 0 0 0 0 0 1 98 0 0 0, 0, 0x5ABCDEF0, 0x0⟩ .ffma (tf 3 3 true 5 9 0 98 false false false false 0 4 0 1522327280),
  w ⟨r229 3 0 7 6 4 24 3, r230 6 0 0 0 0 0 1 0 0 2 1, 0, 0x5ABCDEF0, 0x0⟩ .fmin (tf 3 3 true 70 135 0 0 false false false false 0 6 0 1522327280),
  w ⟨r229 3 0 9 5 5 24 3, r230 5 0 0 0 0 0 1 0 0 0 0, 0, 0x5ABCDEF0, 0x0⟩ .fmax (tf 3 3 true 5 9 0 0 false false false false 0 5 0 1522327280),
  w ⟨r229 3 0 9 5 6 24 3, r230 4 0 0 0 0 0 1 0 0 0 0, 0, 0x5ABCDEF0, 0x0⟩ .fcmp (tf 3 3 true 5 9 0 0 false false false false 0 4 0 1522327280),
  w ⟨r229 3 0 9 5 7 24 3, r230 4 0 0 0 0 0 1 0 0 0 0, 0, 0x5ABCDEF0, 0x0⟩ .fsel (tf 3 3 true 5 9 0 0 false false false false 0 4 0 1522327280)]

/-- MAJ 0x19. -/
def wordsApprox : List (Words × Instr × Form) := [
  w ⟨r229 3 0 7 6 0 25 1, r230 6 0 0 0 0 0 1 0 0 2 1, 0, 0, 0⟩ .frcp (tf 1 3 true 70 135 0 0 false false false false 0 6 0 0),
  w ⟨r229 3 0 9 5 1 25 1, r230 4 0 0 0 0 0 1 0 0 0 0, 0, 0, 0⟩ .frsq (tf 1 3 true 5 9 0 0 false false false false 0 4 0 0),
  w ⟨r229 3 0 7 6 2 25 1, r230 4 0 0 0 0 0 1 0 0 2 1, 0, 0, 0⟩ .fsqrt (tf 1 3 true 70 135 0 0 false false false false 0 4 0 0),
  w ⟨r229 3 0 7 6 3 25 1, r230 6 0 0 0 0 0 1 0 0 2 1, 0, 0, 0⟩ .fexp2 (tf 1 3 true 70 135 0 0 false false false false 0 6 0 0),
  w ⟨r229 3 0 9 5 4 25 1, r230 4 0 0 0 0 0 1 0 0 0 0, 0, 0, 0⟩ .flog2 (tf 1 3 true 5 9 0 0 false false false false 0 4 0 0),
  w ⟨r229 3 0 7 6 5 25 1, r230 4 0 0 0 0 0 1 0 0 2 1, 0, 0, 0⟩ .fsin (tf 1 3 true 70 135 0 0 false false false false 0 4 0 0),
  w ⟨r229 3 0 7 6 6 25 1, r230 6 0 0 0 0 0 1 0 0 2 1, 0, 0, 0⟩ .fcos (tf 1 3 true 70 135 0 0 false false false false 0 6 0 0),
  w ⟨r229 3 0 9 5 7 25 1, r230 4 0 0 0 0 0 1 0 0 0 0, 0, 0, 0⟩ .ftanh (tf 1 3 true 5 9 0 0 false false false false 0 4 0 0)]

/-- MAJ 0x1A. -/
def wordsConvert : List (Words × Instr × Form) := [
  w ⟨r229 3 0 7 6 0 26 1, r230 4 0 0 0 0 0 1 0 0 2 1, 8, 0, 0⟩ .cvtf (tf 1 3 true 70 135 0 0 false false false false 0 4 8 0),
  w ⟨r229 3 0 9 5 1 26 1, r230 11 0 0 0 0 0 1 0 0 0 0, 4, 0, 0⟩ .cvtfi (tf 1 3 true 5 9 0 0 false false false false 0 11 4 0),
  w ⟨r229 3 0 9 5 2 26 1, r230 7 0 0 0 0 0 1 0 0 0 0, 1, 0, 0⟩ .cvtif (tf 1 3 true 5 9 0 0 false false false false 0 7 1 0),
  w ⟨r229 3 0 9 5 3 26 1, r230 5 0 0 0 0 0 1 0 0 0 0, 0, 0, 0⟩ .frnd (tf 1 3 true 5 9 0 0 false false false false 0 5 0 0),
  w ⟨r229 3 0 7 6 4 26 1, r230 5 0 0 0 0 0 1 0 0 2 1, 0, 0, 0⟩ .fclass (tf 1 3 true 70 135 0 0 false false false false 0 5 0 0),
  w ⟨r229 3 0 7 6 5 26 3, r230 4 0 0 0 0 0 1 0 0 2 1, 0, 0x5ABCDEF0, 0x0⟩ .fdiv (tf 3 3 true 70 135 0 0 false false false false 0 4 0 1522327280)]

/-- MAJ 0x1B. -/
def wordsHalf : List (Words × Instr × Form) := [
  w ⟨r229 3 0 9 5 0 27 3, r230 32 0 0 0 0 0 1 0 0 0 0, 0, 0x5ABCDEF0, 0x0⟩ .hpadd (tf 3 3 true 5 9 0 0 false false false false 0 32 0 1522327280),
  w ⟨r229 3 0 9 5 1 27 3, r230 32 0 0 0 0 0 1 0 0 0 0, 0, 0x5ABCDEF0, 0x0⟩ .hpmul (tf 3 3 true 5 9 0 0 false false false false 0 32 0 1522327280),
  w ⟨r229 3 0 9 5 2 27 3, r230 32 0 0 0 0 0 1 98 0 0 0, 0, 0x5ABCDEF0, 0x0⟩ .hpfma (tf 3 3 true 5 9 0 98 false false false false 0 32 0 1522327280),
  w ⟨r229 3 0 9 5 3 27 3, r230 32 0 0 0 0 0 1 0 0 0 0, 0, 0x5ABCDEF0, 0x0⟩ .bpadd (tf 3 3 true 5 9 0 0 false false false false 0 32 0 1522327280),
  w ⟨r229 3 0 9 5 4 27 3, r230 32 0 0 0 0 0 1 0 0 0 0, 0, 0x5ABCDEF0, 0x0⟩ .bpmul (tf 3 3 true 5 9 0 0 false false false false 0 32 0 1522327280),
  w ⟨r229 3 0 9 5 5 27 3, r230 32 0 0 0 0 0 1 98 0 0 0, 0, 0x5ABCDEF0, 0x0⟩ .bpfma (tf 3 3 true 5 9 0 98 false false false false 0 32 0 1522327280),
  w ⟨r229 3 0 9 5 6 27 3, r230 0 0 0 0 0 0 1 0 0 0 0, 0, 0x5ABCDEF0, 0x0⟩ .hpmin (tf 3 3 true 5 9 0 0 false false false false 0 0 0 1522327280),
  w ⟨r229 3 0 7 6 7 27 3, r230 0 0 0 0 0 0 1 0 0 2 1, 0, 0x5ABCDEF0, 0x0⟩ .hpmax (tf 3 3 true 70 135 0 0 false false false false 0 0 0 1522327280)]

/-- MAJ 0x24. -/
def wordsPack : List (Words × Instr × Form) := [
  w ⟨r229 3 0 7 6 0 36 3, r230 64 0 0 0 0 0 1 0 0 2 1, 0, 0x5ABCDEF0, 0x0⟩ .qadd4 (tf 3 3 true 70 135 0 0 false false false false 0 64 0 1522327280),
  w ⟨r229 3 0 7 6 1 36 3, r230 64 0 0 0 0 0 1 0 0 2 1, 0, 0x5ABCDEF0, 0x0⟩ .qmul4 (tf 3 3 true 70 135 0 0 false false false false 0 64 0 1522327280),
  w ⟨r229 3 0 9 5 2 36 1, r230 6 0 0 0 0 0 1 0 0 0 0, 8, 0, 0⟩ .qcvt (tf 1 3 true 5 9 0 0 false false false false 0 6 8 0),
  w ⟨r229 3 0 7 6 3 36 3, r230 64 0 0 0 0 0 1 98 0 2 1, 0, 0x5ABCDEF0, 0x0⟩ .dot4 (tf 3 3 true 70 135 0 98 false false false false 0 64 0 1522327280),
  w ⟨r229 3 0 9 5 4 36 3, r230 1 0 0 1 0 0 1 2 0 0 0, 0, 0x5ABCDEF0, 0x0⟩ .dot8 (tf 3 3 true 5 9 0 2 false false true false 0 1 0 1522327280),
  w ⟨r229 3 0 7 6 5 36 3, r230 0 0 0 0 0 0 1 0 0 2 1, 8, 0x5ABCDEF0, 0x0⟩ .pack (tf 3 3 true 70 135 0 0 false false false false 0 0 8 1522327280),
  w ⟨r229 3 0 7 6 6 36 1, r230 0 0 0 0 0 0 1 0 0 2 1, 9, 0, 0⟩ .unpack (tf 1 3 true 70 135 0 0 false false false false 0 0 9 0)]

/-- MAJ 0x28. -/
def wordsLane : List (Words × Instr × Form) := [
  w ⟨r229 3 0 7 6 0 40 3, r230 2 0 0 0 0 0 1 0 0 2 1, 0, 0x5ABCDEF0, 0x0⟩ .lget (tf 3 3 true 70 135 0 0 false false false false 0 2 0 1522327280),
  w ⟨r229 3 0 9 5 1 40 3, r230 2 0 0 0 0 0 1 0 0 0 0, 0, 0x5ABCDEF0, 0x0⟩ .lrot (tf 3 3 true 5 9 0 0 false false false false 0 2 0 1522327280),
  w ⟨r229 3 0 7 6 2 40 3, r230 2 0 0 0 0 0 1 0 0 2 1, 0, 0x5ABCDEF0, 0x0⟩ .lslide (tf 3 3 true 70 135 0 0 false false false false 0 2 0 1522327280),
  w ⟨r229 3 0 7 6 3 40 3, r230 2 0 0 0 0 0 1 0 0 2 1, 0, 0x5ABCDEF0, 0x0⟩ .lswap (tf 3 3 true 70 135 0 0 false false false false 0 2 0 1522327280),
  w ⟨r229 3 0 1 5 4 40 1, r230 0 0 0 0 0 0 1 0 0 0 0, 0, 0, 0⟩ .lmask (tf 1 3 true 5 1 0 0 false false false false 0 0 0 0),
  w ⟨r229 3 0 1 5 5 40 1, r230 2 0 0 0 0 0 1 0 0 0 0, 0, 0, 0⟩ .quorum (tf 1 3 true 5 1 0 0 false false false false 0 2 0 0),
  w ⟨r229 3 0 7 6 6 40 1, r230 16 0 0 0 0 0 1 0 0 2 1, 0, 0, 0⟩ .lcomb (tf 1 3 true 70 135 0 0 false false false false 0 16 0 0),
  w ⟨r229 3 0 9 5 7 40 1, r230 16 0 0 0 0 0 1 0 0 0 0, 0, 0, 0⟩ .ldup (tf 1 3 true 5 9 0 0 false false false false 0 16 0 0)]

/-- MAJ 0x30. -/
def wordsLoad : List (Words × Instr × Form) := [
  w ⟨r229 3 0 7 6 0 48 1, r230 6 0 0 0 0 0 1 0 0 2 1, 1, 0, 0⟩ .ld (tf 1 3 true 70 135 0 0 false false false false 0 6 1 0),
  w ⟨r229 3 10 7 6 1 48 1, r230 11 0 0 0 0 0 1 0 3 0 1, 8, 0, 0⟩ .ldb (tf 1 3 true 70 7 202 0 false false false false 0 11 8 0),
  w ⟨r229 3 0 9 5 2 48 1, r230 1 0 0 0 0 0 1 0 0 0 0, 16, 0, 0⟩ .lds (tf 1 3 true 5 9 0 0 false false false false 0 1 16 0),
  w ⟨r229 3 0 7 6 3 48 1, r230 6 0 0 0 0 0 1 0 0 2 1, 1, 0, 0⟩ .ldr (tf 1 3 true 70 135 0 0 false false false false 0 6 1 0),
  w ⟨r229 3 0 7 6 4 48 1, r230 11 0 0 0 0 0 1 0 0 2 0, 8, 0, 0⟩ .ldk (tf 1 3 true 6 135 0 0 false false false false 0 11 8 0)]

/-- MAJ 0x31. -/
def wordsStore : List (Words × Instr × Form) := [
  w ⟨r229 3 0 9 0 0 49 3, r230 9 0 0 0 0 0 1 0 0 0 0, 8, 0x5ABCDEF0, 0x0⟩ .st (tf 3 3 true 0 9 0 0 false false false false 0 9 8 1522327280),
  w ⟨r229 3 33 9 0 1 49 1, r230 12 0 0 1 0 0 1 2 0 0 0, 108426, 0, 0⟩ .stb (tf 1 3 true 0 9 33 2 false false true false 0 12 108426 0),
  w ⟨r229 3 0 9 0 2 49 3, r230 5 0 0 0 0 0 1 0 0 0 0, 68, 0x76543210, 0xFEDCBA98⟩ .sts (tf 3 3 true 0 9 0 0 false false false false 0 5 68 18364758544493064720),
  w ⟨r229 3 0 9 0 3 49 3, r230 9 0 0 0 0 0 1 0 0 0 0, 8, 0x5ABCDEF0, 0x0⟩ .str (tf 3 3 true 0 9 0 0 false false false false 0 9 8 1522327280)]

/-- MAJ 0x32. -/
def wordsAtomic : List (Words × Instr × Form) := [
  w ⟨r229 3 0 9 5 0 50 3, r230 32 0 0 0 0 0 1 0 0 0 0, 4, 0x5ABCDEF0, 0x0⟩ .atom (tf 3 3 true 5 9 0 0 false false false false 0 32 4 1522327280),
  w ⟨r229 3 0 9 5 1 50 3, r230 3 0 0 0 0 0 1 98 0 0 0, 8, 0x76543210, 0xFEDCBA98⟩ .acas (tf 3 3 true 5 9 0 98 false false false false 0 3 8 18364758544493064720),
  w ⟨r229 3 0 7 6 2 50 3, r230 5 0 0 0 0 0 1 0 0 2 1, 423004, 0x5ABCDEF0, 0x0⟩ .afadd (tf 3 3 true 70 135 0 0 false false false false 0 5 423004 1522327280),
  w ⟨r229 3 0 9 5 3 50 3, r230 32 0 0 0 0 0 1 0 0 0 0, 4, 0x5ABCDEF0, 0x0⟩ .atoms (tf 3 3 true 5 9 0 0 false false false false 0 32 4 1522327280),
  w ⟨r229 3 0 9 5 4 50 3, r230 3 0 0 0 0 0 1 98 0 0 0, 8, 0x76543210, 0xFEDCBA98⟩ .acass (tf 3 3 true 5 9 0 98 false false false false 0 3 8 18364758544493064720),
  w ⟨r229 3 0 9 0 5 50 3, r230 3 0 0 0 0 0 1 0 0 0 0, 145, 0x76543210, 0xFEDCBA98⟩ .red (tf 3 3 true 0 9 0 0 false false false false 0 3 145 18364758544493064720)]

/-- MAJ 0x33. -/
def wordsRegion : List (Words × Instr × Form) := [
  w ⟨r229 3 33 9 5 0 51 1, r230 1 0 0 0 0 0 1 0 0 0 0, 0, 0, 0⟩ .cpa (tf 1 3 true 5 9 33 0 false false false false 0 1 0 0),
  w ⟨r229 3 0 9 0 1 51 1, r230 0 0 0 0 0 0 1 0 0 0 0, 8, 0, 0⟩ .rgnset (tf 1 3 true 0 9 0 0 false false false false 0 0 8 0),
  w ⟨r229 3 0 0 0 2 51 1, r230 0 0 0 0 0 0 1 0 0 0 0, 8, 0, 0⟩ .rgnclr (tf 1 3 true 0 0 0 0 false false false false 0 0 8 0),
  w ⟨r229 3 0 0 0 3 51 1, r230 0 0 0 0 0 0 1 0 0 0 0, 4, 0, 0⟩ .rgnfl (tf 1 3 true 0 0 0 0 false false false false 0 0 4 0),
  w ⟨r229 3 10 0 0 4 51 1, r230 0 0 0 0 0 0 1 0 3 0 0, 136, 0, 0⟩ .chkw (tf 1 3 true 0 0 202 0 false false false false 0 0 136 0),
  w ⟨r229 3 33 0 5 5 51 1, r230 0 0 0 0 0 0 1 0 0 0 0, 8, 0, 0⟩ .chkt (tf 1 3 true 5 0 33 0 false false false false 0 0 8 0)]

/-- MAJ 0x34. -/
def wordsTag : List (Words × Instr × Form) := [
  w ⟨r229 3 33 9 0 0 52 1, r230 0 0 0 0 0 0 1 0 0 0 0, 8, 0, 0⟩ .tset (tf 1 3 true 0 9 33 0 false false false false 0 0 8 0),
  w ⟨r229 3 0 9 5 1 52 1, r230 0 0 0 0 0 0 1 0 0 0 0, 53, 0, 0⟩ .tget (tf 1 3 true 5 9 0 0 false false false false 0 0 53 0),
  w ⟨r229 3 0 0 0 2 52 1, r230 0 0 0 0 0 0 1 0 0 0 0, 0, 0, 0⟩ .pbar (tf 1 3 true 0 0 0 0 false false false false 0 0 0 0)]

/-- MAJ 0x3C. -/
def wordsTile : List (Words × Instr × Form) := [
  w ⟨r229 3 0 0 6 0 60 1, r230 0 0 0 0 0 0 1 0 0 0 0, 0, 0, 0⟩ .tcfg (tf 1 3 true 6 0 0 0 false false false false 0 0 0 0),
  w ⟨r229 3 10 7 6 1 60 1, r230 1 0 0 0 0 0 1 0 3 2 0, 4, 0, 0⟩ .tld (tf 1 3 true 6 135 202 0 false false false false 0 1 4 0),
  w ⟨r229 3 10 7 0 2 60 1, r230 1 0 0 0 0 0 1 2 3 2 0, 8, 0, 0⟩ .tst (tf 1 3 true 0 135 202 2 false false false false 0 1 8 0),
  w ⟨r229 3 0 0 5 3 60 0, 0, 0, 0, 0⟩ .tzero (tf 0 3 false 5 0 0 0 false false false false 0 0 0 0),
  w ⟨r229 3 10 7 6 4 60 1, r230 9 0 0 0 0 0 1 0 0 0 0, 0, 0, 0⟩ .mma (tf 1 3 true 6 7 10 0 false false false false 0 9 0 0),
  w ⟨r229 3 33 9 5 5 60 1, r230 11 0 0 0 0 0 1 0 0 0 0, 2, 0, 0⟩ .mmas (tf 1 3 true 5 9 33 0 false false false false 0 11 2 0),
  w ⟨r229 3 1 9 5 6 60 1, r230 1 0 0 0 0 0 1 0 0 0 0, 0, 0, 0⟩ .mtrn (tf 1 3 true 5 9 1 0 false false false false 0 1 0 0),
  w ⟨r229 3 0 9 5 7 60 1, r230 1 0 0 0 0 0 1 0 0 0 0, 8, 0, 0⟩ .tmov (tf 1 3 true 5 9 0 0 false false false false 0 1 8 0)]

/-- MAJ 0x3D. -/
def wordsForest : List (Words × Instr × Form) := [
  w ⟨r229 3 33 9 5 0 61 1, r230 128 0 0 0 0 0 1 0 0 0 0, 4, 0, 0⟩ .unite (tf 1 3 true 5 9 33 0 false false false false 0 128 4 0),
  w ⟨r229 3 0 7 6 1 61 1, r230 128 0 0 0 0 0 1 0 0 2 1, 4, 0, 0⟩ .find (tf 1 3 true 70 135 0 0 false false false false 0 128 4 0),
  w ⟨r229 3 0 7 6 2 61 1, r230 128 0 0 0 0 0 1 0 0 2 1, 44, 0, 0⟩ .dsize (tf 1 3 true 70 135 0 0 false false false false 0 128 44 0),
  w ⟨r229 3 33 9 0 3 61 1, r230 1 0 0 0 0 0 1 0 0 0 0, 8, 0, 0⟩ .relabel (tf 1 3 true 0 9 33 0 false false false false 0 1 8 0),
  w ⟨r229 3 0 0 6 4 61 1, r230 128 0 0 0 0 0 1 0 0 0 1, 4, 0, 0⟩ .dsnap (tf 1 3 true 70 0 0 0 false false false false 0 128 4 0),
  w ⟨r229 3 0 7 0 5 61 1, r230 128 0 0 0 0 0 1 0 0 2 0, 44, 0, 0⟩ .dundo (tf 1 3 true 0 135 0 0 false false false false 0 128 44 0),
  w ⟨r229 3 33 9 0 6 61 1, r230 128 0 0 0 0 0 1 0 0 0 0, 4, 0, 0⟩ .dinit (tf 1 3 true 0 9 33 0 false false false false 0 128 4 0)]

/-- MAJ 0x3E. -/
def wordsSearch : List (Words × Instr × Form) := [
  w ⟨r229 3 0 0 6 0 62 1, r230 0 0 0 0 0 0 1 0 0 0 1, 16, 0, 0⟩ .trial (tf 1 3 true 70 0 0 0 false false false false 0 0 16 0),
  w ⟨r229 3 0 9 0 1 62 0, 0, 0, 0, 0⟩ .tret (tf 0 3 false 0 9 0 0 false false false false 0 0 0 0),
  w ⟨r229 3 0 7 6 2 62 0, 0, 0, 0, 0⟩ .xld (tf 0 3 false 6 7 0 0 false false false false 0 0 0 0),
  w ⟨r229 3 0 9 5 3 62 1, r230 1 0 0 0 0 0 1 0 0 0 0, 16, 0, 0⟩ .sigins (tf 1 3 true 5 9 0 0 false false false false 0 1 16 0),
  w ⟨r229 3 0 0 0 4 62 1, r230 0 0 0 0 0 0 1 0 0 0 0, 8, 0, 0⟩ .sigclr (tf 1 3 true 0 0 0 0 false false false false 0 0 8 0),
  w ⟨r229 3 1 9 5 5 62 1, r230 0 0 0 0 1 0 1 0 0 0 0, 0, 0, 0⟩ .rng (tf 1 3 true 5 9 1 0 false true false false 0 0 0 0),
  w ⟨r229 3 33 9 5 6 62 1, r230 0 0 0 0 0 0 1 0 0 0 0, 0, 0, 0⟩ .fold (tf 1 3 true 5 9 33 0 false false false false 0 0 0 0)]

theorem test_decode_flow : decodesAll wordsFlow = true := by decide
theorem test_decode_branch : decodesAll wordsBranch = true := by decide
theorem test_decode_system : decodesAll wordsSystem = true := by decide
theorem test_decode_barrier : decodesAll wordsBarrier = true := by decide
theorem test_decode_frame : decodesAll wordsFrame = true := by decide
theorem test_decode_integer : decodesAll wordsInteger = true := by decide
theorem test_decode_multiply : decodesAll wordsMultiply = true := by decide
theorem test_decode_logic : decodesAll wordsLogic = true := by decide
theorem test_decode_shift : decodesAll wordsShift = true := by decide
theorem test_decode_bit : decodesAll wordsBit = true := by decide
theorem test_decode_predicate : decodesAll wordsPredicate = true := by decide
theorem test_decode_move : decodesAll wordsMove = true := by decide
theorem test_decode_float : decodesAll wordsFloat = true := by decide
theorem test_decode_approx : decodesAll wordsApprox = true := by decide
theorem test_decode_convert : decodesAll wordsConvert = true := by decide
theorem test_decode_half : decodesAll wordsHalf = true := by decide
theorem test_decode_pack : decodesAll wordsPack = true := by decide
theorem test_decode_lane : decodesAll wordsLane = true := by decide
theorem test_decode_load : decodesAll wordsLoad = true := by decide
theorem test_decode_store : decodesAll wordsStore = true := by decide
theorem test_decode_atomic : decodesAll wordsAtomic = true := by decide
theorem test_decode_region : decodesAll wordsRegion = true := by decide
theorem test_decode_tag : decodesAll wordsTag = true := by decide
theorem test_decode_tile : decodesAll wordsTile = true := by decide
theorem test_decode_forest : decodesAll wordsForest = true := by decide
theorem test_decode_search : decodesAll wordsSearch = true := by decide

/-! ### The strand that issues -/

/-- Lanes 0 to 2 stand at 0x10000; p0 holds in lanes 0 and 2, p3 in lane 0. Lane 3 stands elsewhere, the others have exited. -/
def tLanes : List Lane := (List.range 32).map fun l =>
  if l < 3 then { Lane.idle with pcv := 0x10000, st := .ready, p := if l = 0 then 9 else if l = 2 then 1 else 0 }
  else if l = 3 then { Lane.idle with pcv := 0x10040, st := .ready, p := 1 }
  else { Lane.idle with pcv := 0x10000 }

/-- A register in lanes 0 to 2. -/
def tPut (st : Strand) (r : Nat) (v : Nat → Nat) : Strand :=
  [0, 1, 2].foldl (fun st l => writeV st r l { v := BitVec.ofNat 32 (v l), p := false }) st

/-- v8, v9: a pointer on the page; v10: 7 and the lane; v12: the lane. -/
def tSt : Strand :=
  tPut (tPut (tPut { newStrand 0 1 32 (List.range 32) 0x10000 0 0 0 with lanes := tLanes } 8 fun l => 0x10100 + 32 * l) 10 fun l => 7 + l)
    12 fun l => l

def tU : Cur := { core := 0, slot := 0, pc := 0x10000, mask := 7, w0 := 0x12345678, ilen := 1, mm1 := 0, mm2 := 0 }

/-- Core 0 with a strand in slot 0, on the page that a placed program has. -/
def tCore (st : Strand) : Core := newCore 0 0 [(0, st)] 0 0
def tState (x : Core) : State := { placeProgram State.reset [] with cur := some tU, cores := [(0, x)] }

/-- What `Issues` asks of an instruction, its fields, a strand and the issue, computed. -/
def issuesB (i : Instr) (f : Form) (st : Strand) (u : Cur) : Bool :=
  i.wf && (match i.spec with | some sp => fits sp f (curGran st) | none => false) && decide (u.mm1 = 0) && st.wf &&
    (decide (st.st = .running) || decide (st.st = .inHandler)) && decide (st.hold = none) &&
    (List.range 32).all fun l => !inMask u.mask l || !(guardOf f (lane st l)).2

theorem issues_of {i : Instr} {f : Form} {s : State} {x : Core} {st : Strand} {u : Cur} (h : issuer s = some (x, st, u))
    (b : issuesB i f st u = true) : Issues i f s x st u := by
  simp only [issuesB, Bool.and_eq_true, Bool.or_eq_true, decide_eq_true_eq, List.all_eq_true, List.mem_range] at b
  obtain ⟨⟨⟨⟨⟨⟨a, c⟩, d⟩, e⟩, r⟩, o⟩, g⟩ := b
  refine { at_ := h, wf := a, fits := ?_, clean := d, canon := e, runs := r, idle := o, guards := fun l hl => ?_ }
  · split at c
    · exact ⟨_, by assumption, c⟩
    · exact absurd c (by simp)
  · have := g l (inMask_lt hl)
    rw [hl] at this
    simpa using this

/-- Core 0 is x, its strand of slot 0 is st. -/
theorem issuer_tState {x : Core} {st : Strand} (h : aget x.strands 0 = some st) : issuer (tState x) = some (x, st, tU) := by
  simp [issuer, tState, getCore, aget, tU, h]

/-- Every instruction of a list issues for the small strand, and some lane executes it. -/
theorem allIssue {l : List (Words × Instr × Form)}
    (h : l.all (fun p => issuesB p.2.1 p.2.2 tSt tU && decide (execMask p.2.2 tSt tU ≠ 0)) = true) :
    ∀ p ∈ l, Issues p.2.1 p.2.2 (tState (tCore tSt)) (tCore tSt) tSt tU ∧ execMask p.2.2 tSt tU ≠ 0 := by
  intro p hp
  have := List.all_eq_true.1 h p hp
  rw [Bool.and_eq_true, decide_eq_true_eq] at this
  exact ⟨issues_of (issuer_tState rfl) this.1, this.2⟩

theorem met_IntegerArithmetic : ∀ p ∈ wordsInteger ++ wordsMultiply,
    Issues p.2.1 p.2.2 (tState (tCore tSt)) (tCore tSt) tSt tU ∧ execMask p.2.2 tSt tU ≠ 0 := allIssue (by decide)

/-! ### States that meet the hypotheses of the statements -/

theorem met_LogicAndShifts : ∀ p ∈ wordsLogic ++ wordsShift,
    Issues p.2.1 p.2.2 (tState (tCore tSt)) (tCore tSt) tSt tU ∧ execMask p.2.2 tSt tU ≠ 0 := allIssue (by decide)

theorem met_BitFields : (∀ p ∈ wordsBit, Issues p.2.1 p.2.2 (tState (tCore tSt)) (tCore tSt) tSt tU ∧ execMask p.2.2 tSt tU ≠ 0) ∧
    0 < 2 ^ 32 ∧ 2 ^ 32 - 1 < 2 ^ 32 ∧ 2 ^ 64 - 1 < 2 ^ 64 := ⟨allIssue (by decide), by decide, by decide, by decide⟩

theorem met_IntegerDelivery : (32 = 32 ∨ 32 = 64) ∧ (64 = 32 ∨ 64 = 64) := by decide

theorem met_ComparesAndPredicates : ∀ p ∈ wordsPredicate ++ wordsFloat,
    Issues p.2.1 p.2.2 (tState (tCore tSt)) (tCore tSt) tSt tU ∧ execMask p.2.2 tSt tU ≠ 0 := allIssue (by decide)

theorem met_Moves : ∀ p ∈ wordsMove, Issues p.2.1 p.2.2 (tState (tCore tSt)) (tCore tSt) tSt tU ∧ execMask p.2.2 tSt tU ≠ 0 :=
  allIssue (by decide)

/-- A select issues where its selector is poisoned: `IssuesFree` asks nothing of the predicates. -/
def tPois : Strand := modLane tSt 0 fun la => { la with pp := 8 }
theorem met_Moves_select : IssuesFree (.isel (tf 0 3 false 4 8 10 0 false false false false 0 0 0 0))
    (tf 0 3 false 4 8 10 0 false false false false 0 0 0 0) (tState (tCore tPois)) (tCore tPois) tPois tU :=
  ⟨issuer_tState rfl, by decide, ⟨_, rfl, by decide⟩, rfl, by decide, .inl rfl, rfl⟩

theorem met_LaneMoves : ∀ p ∈ wordsLane ++ wordsBarrier,
    Issues p.2.1 p.2.2 (tState (tCore tSt)) (tCore tSt) tSt tU ∧ execMask p.2.2 tSt tU ≠ 0 := allIssue (by decide)

theorem met_FloatArithmetic : ∀ p ∈ wordsFloat ++ wordsApprox ++ wordsConvert,
    Issues p.2.1 p.2.2 (tState (tCore tSt)) (tCore tSt) tSt tU ∧ execMask p.2.2 tSt tU ≠ 0 := allIssue (by decide)

/-- Each format has encodings at both ends of its range that the second clause speaks of. -/
theorem met_Rounding : (0 < 1) ∧ ∀ t ∈ [fmtF32, fmtF16, fmtBf16, fmtE4m3, fmtE5m2], ∀ b ∈ [0, 2 ^ t.bits / 2], b < 2 ^ t.bits ∧ t.read b ≠ .nan ∧
    (t.ftz = true → b / 2 ^ t.mb % 2 ^ t.eb = 0 → b % 2 ^ t.mb = 0) := by decide

theorem met_ApproximateFunctions : ∀ p ∈ wordsApprox,
    Issues p.2.1 p.2.2 (tState (tCore tSt)) (tCore tSt) tSt tU ∧ execMask p.2.2 tSt tU ≠ 0 := allIssue (by decide)

theorem met_Conversions : ∀ p ∈ wordsConvert,
    Issues p.2.1 p.2.2 (tState (tCore tSt)) (tCore tSt) tSt tU ∧ execMask p.2.2 tSt tU ≠ 0 := allIssue (by decide)

theorem met_PairedHalves : ∀ p ∈ wordsHalf,
    Issues p.2.1 p.2.2 (tState (tCore tSt)) (tCore tSt) tSt tU ∧ execMask p.2.2 tSt tU ≠ 0 := allIssue (by decide)

theorem met_PackedForms : ∀ p ∈ wordsPack,
    Issues p.2.1 p.2.2 (tState (tCore tSt)) (tCore tSt) tSt tU ∧ execMask p.2.2 tSt tU ≠ 0 := allIssue (by decide)

/-- A strand in its handler; lanes 0 to 3 have a saved READY state. -/
def tHand : Strand :=
  { tSt with
    handler := some { fid := 9, idx := 1, regs := [], k := [], emask := 1, ecause := 5, eword := 7 }, st := .inHandler, eff := 255,
    lanes := tLanes.mapIdx fun l la => { la with
      epc := BitVec.ofNat 48 (0x4000 + 4 * l), epred := 3, sst := if la.st = LaneState.exited then .exited else .ready } }

def fFrd : Form := tf 1 0 false 4 0 12 0 false false false false 0 0 0x500 0
def fMfs (n : BitVec 32) : Form := tf 1 0 false 4 0 0 0 false false false false 0 0 n 0

/-- A caller's frame below the current one. -/
def tUnder (res : Bool) : Frame :=
  { fid := 7, gran := 3, phys := if res then [40, 41, 42] else [], res := res, regs := [(33, ⟨5, false⟩)], rcnt := 2, rbase := 6, raddr := 0x10200 }
def tHandUnder : Strand := { tHand with frames := tHand.frames ++ [tUnder false] }
def fFrdUnder : Form := tf 1 0 false 4 0 12 0 false false false false 0 0 0x501 0

theorem met_OtherReads :
    Issues (.fold (tf 0 0 false 4 8 10 0 false false false false 0 0 0 0)) (tf 0 0 false 4 8 10 0 false false false false 0 0 0 0)
      (tState (tCore tSt)) (tCore tSt) tSt tU ∧
    (Issues (.frd fFrd) fFrd (tState (tCore tHand)) (tCore tHand) tHand tU ∧ tHand.handler.isSome = true ∧
      ∃ g, tHand.frames[fFrd.aux.toNat % 64]? = some g ∧ fFrd.aux.toNat / 256 % 256 < 8 * g.gran ∧
        ∀ l, l < 32 → executes fFrd tHand tU l = true → (opB fFrd tHand l 1).p = false ∧ (opB fFrd tHand l 1).v.toNat < 32) ∧
    (Issues (.frd fFrdUnder) fFrdUnder (tState (tCore tHandUnder)) (tCore tHandUnder) tHandUnder tU ∧ tHandUnder.handler.isSome = true ∧
      ∃ g, tHandUnder.frames[fFrdUnder.aux.toNat % 64]? = some g ∧ g.res = false ∧ fFrdUnder.aux.toNat / 256 % 256 < 8 * g.gran ∧
        ∀ l, l < 32 → executes fFrdUnder tHandUnder tU l = true →
          (opB fFrdUnder tHandUnder l 1).p = false ∧ (opB fFrdUnder tHandUnder l 1).v.toNat < 32) ∧
    ∀ n ∈ [(0x12 : BitVec 32), 0x4D, 0x40], Issues (.mfs (fMfs n)) (fMfs n) (tState (tCore tSt)) (tCore tSt) tSt tU ∧
      sysAssigned (sysNum (fMfs n) (fMfs n).sa) = true := by
  refine ⟨issues_of (issuer_tState rfl) (by decide), ⟨issues_of (issuer_tState rfl) (by decide), rfl, _, rfl, by decide, by decide⟩,
    ⟨issues_of (issuer_tState rfl) (by decide), rfl, _, rfl, rfl, by decide, by decide⟩, fun n hn => ?_⟩
  simp only [List.mem_cons, List.not_mem_nil, or_false] at hn
  obtain rfl | rfl | rfl := hn <;> exact ⟨issues_of (issuer_tState rfl) (by decide), by decide⟩

/-- A frame of one granule has v0 to v7. -/
def tSmall : Strand := { newStrand 0 1 1 [0] 0x10000 0 0 0 with lanes := tLanes }
theorem met_RegistersBeyondFrame :
    let f := tf 0 0 false 7 8 7 0 false false false false 0 0 0 0
    (Instr.iadd f).wf = true ∧ issuer (tState (tCore tSmall)) = some (tCore tSmall, tSmall, tU) ∧
      ∃ sp, (Instr.iadd f).spec = some sp ∧ fits sp f (curGran tSmall) = false := ⟨by decide, issuer_tState rfl, _, rfl, by decide⟩

/-! Flow -/

/-- p1 holds in no lane: nothing executes. -/
theorem met_NoLaneExecutes : ∀ p ∈ [(Instr.nop, tf 0 1 false 0 0 0 0 false false false false 0 0 0 0),
      (.ld, tf 1 1 false 4 8 0 0 false false false false 0 5 0 0), (.gbar, tf 0 1 false 0 2 0 0 false false false false 0 0 0 0)],
    Issues (p.1 p.2) p.2 (tState (tCore tSt)) (tCore tSt) tSt tU ∧ execMask p.2 tSt tU = 0 := by
  intro p hp
  have h : issuesB (p.1 p.2) p.2 tSt tU = true ∧ execMask p.2 tSt tU = 0 := by
    simp only [List.mem_cons, List.not_mem_nil, or_false] at hp
    obtain rfl | rfl | rfl := hp <;> decide
  exact ⟨issues_of (issuer_tState rfl) h.1, h.2⟩

/-- A form with sources SA and SB, for the lanes where p0 holds. -/
def f0 (dst sa sb : BitVec 8) : Form := tf 0 0 false dst sa sb 0 false false false false 0 0 0 0
/-- As f0, for every lane at the address. -/
def f7 (dst sa sb : BitVec 8) : Form := tf 0 7 false dst sa sb 0 false false false false 0 0 0 0
/-- An extended form, for the lanes where p0 holds. -/
def f1 (dst sa sb sc : BitVec 8) (md : BitVec 11) (aux : BitVec 32) : Form := tf 1 0 false dst sa sb sc false false false false 0 md aux 0

theorem met_NoLaneExecutes_scales :
    let f : Form := tf 1 1 false 5 8 10 0 false false false false 0 2 (6 + 16 * 7) 0
    let n := (tcCols (tcOf (tCore tSt) (f.aux.toNat % 16)) + 15) / 16
    Issues (.mmas f) f (tState (tCore tSt)) (tCore tSt) tSt tU ∧ execMask f tSt tU = 0 ∧ f.sa.toNat + n ≤ 8 * curGran tSt ∧
      f.sb.toNat + n ≤ 8 * curGran tSt := ⟨issues_of (issuer_tState rfl) (by decide), by decide, by decide, by decide⟩

theorem met_StrandFlow : (∀ p ∈ wordsFlow, Issues p.2.1 p.2.2 (tState (tCore tSt)) (tCore tSt) tSt tU ∧ execMask p.2.2 tSt tU ≠ 0) ∧
    Issues (.sleep (f0 0 0 0)) (f0 0 0 0) (tState (tCore tSt)) (tCore tSt) tSt tU := ⟨allIssue (by decide), issues_of (issuer_tState rfl) (by decide)⟩

/-- Every live lane stands at the address. -/
def tAll : Strand := { tSt with lanes := tLanes.mapIdx fun l la => if l = 3 then { la with st := .exited } else la }

theorem met_BranchesAndExits :
    Issues (.bra (f0 0x3F 0x3F 0x3E)) (f0 0x3F 0x3F 0x3E) (tState (tCore tSt)) (tCore tSt) tSt tU ∧
    Issues (.bri (f0 0 8 0)) (f0 0 8 0) (tState (tCore tSt)) (tCore tSt) tSt tU ∧
    (Issues (.exit (f0 0 0 0)) (f0 0 0 0) (tState (tCore tSt)) (tCore tSt) tSt tU ∧ execMask (f0 0 0 0) tSt tU ≠ 0 ∧ staysOut (f0 0 0 0) tSt tU) ∧
    (Issues (.exit (f7 0 0 0)) (f7 0 0 0) (tState (tCore tAll)) (tCore tAll) tAll tU ∧ execMask (f7 0 0 0) tAll tU ≠ 0 ∧ tAll.due = [] ∧
      ∀ l, l < 32 → (lane tAll l).st ≠ .exited → executes (f7 0 0 0) tAll tU l = true) :=
  ⟨issues_of (issuer_tState rfl) (by decide), issues_of (issuer_tState rfl) (by decide),
    ⟨issues_of (issuer_tState rfl) (by decide), by decide, by unfold staysOut; decide⟩,
    issues_of (issuer_tState rfl) (by decide), by decide, rfl, by decide⟩

/-! Frames -/

def fCall : Form := tf 3 0 false 8 4 0 0 false false false false 0 0 0x263 0x12340
def fCalli : Form := f1 8 4 8 0 0 0x263
/-- A core with no granule left. -/
def tFull (st : Strand) : Core := { tCore st with resv := 464 }

theorem met_Calls :
    (∀ x ∈ [tCore tSt, tFull tSt], Issues (.call fCall) fCall (tState x) x tSt tU) ∧ execMask fCall tSt tU ≠ 0 ∧
    (∃ top rest, CallGoes fCall tSt top rest) ∧ (∀ l, l < 32 → inMask tU.mask l = true → (lane tSt l).pcv = tU.pc) ∧
    (∀ x ∈ [tCore tSt, tFull tSt], Issues (.calli fCalli) fCalli (tState x) x tSt tU) ∧ execMask fCalli tSt tU ≠ 0 ∧
    (∃ top rest, CallGoes fCalli tSt top rest) ∧
    (∀ l, l < 32 → executes fCalli tSt tU l = true → (rd64 tSt fCalli.sb.toNat fCalli.kcb l).p = false ∧
      (rd64 tSt fCalli.sb.toNat fCalli.kcb l).v.toNat < 2 ^ 48 ∧ (rd64 tSt fCalli.sb.toNat fCalli.kcb l).v.toNat % 4 = 0) ∧
    grantNow (tCore tSt) { slot := 0, demand := 4, since := 0, eff := 0 } = true ∧
    grantNow (tFull tSt) { slot := 0, demand := 4, since := 0, eff := 0 } = false := by
  refine ⟨?_, by decide, ⟨_, _, rfl, rfl, by decide⟩, by decide, ?_, by decide, ⟨_, _, rfl, rfl, by decide⟩, by decide, by decide, by decide⟩ <;>
    (intro x hx
     simp only [List.mem_cons, List.not_mem_nil, or_false] at hx
     obtain rfl | rfl := hx <;> exact issues_of (issuer_tState rfl) (by decide))

def tTwo (res : Bool) : Strand := { tSt with frames := tSt.frames ++ [tUnder res] }

theorem met_ReturnsAndUnwinds : ∀ b : Bool,
    (Issues (.ret (f0 0 0 0)) (f0 0 0 0) (tState (tCore (tTwo b))) (tCore (tTwo b)) (tTwo b) tU ∧ execMask (f0 0 0 0) (tTwo b) tU ≠ 0 ∧
      (tTwo b).handler = none ∧ ∃ top g rest, (tTwo b).frames = top :: g :: rest) ∧
    (Issues (.unwind (f0 0 1 0)) (f0 0 1 0) (tState (tCore (tTwo b))) (tCore (tTwo b)) (tTwo b) tU ∧ execMask (f0 0 1 0) (tTwo b) tU ≠ 0 ∧
      (tTwo b).handler = none ∧ 0 < (f0 0 1 0).sa.toNat ∧ ∃ g rest, (tTwo b).frames.drop (f0 0 1 0).sa.toNat = g :: rest) := by
  intro b
  cases b <;> exact ⟨⟨issues_of (issuer_tState rfl) (by decide), by decide, rfl, _, _, _, rfl⟩,
    issues_of (issuer_tState rfl) (by decide), by decide, rfl, by decide, _, _, rfl⟩

/-- A chain of 64 frames. -/
def tDeep : Strand := { tSt with frames := tSt.frames ++ List.replicate 63 (tUnder false) }
def fWide : Form := tf 3 0 false 8 250 0 0 false false false false 0 0 0xE3 0x12340

theorem met_StrandFaults :
    (Issues (.bar (f0 0 2 0)) (f0 0 2 0) (tState (tCore tHand)) (tCore tHand) tHand tU ∧ execMask (f0 0 2 0) tHand tU ≠ 0 ∧
      tHand.handler.isSome = true) ∧
    (Issues (.ret (f0 0 0 0)) (f0 0 0 0) (tState (tCore tSt)) (tCore tSt) tSt tU ∧ tSt.frames.length ≤ 1) ∧
    (Issues (.unwind (f0 0 1 0)) (f0 0 1 0) (tState (tCore tSt)) (tCore tSt) tSt tU ∧ tSt.frames.length ≤ 1) ∧
    (Issues (.unwind (f0 0 0 0)) (f0 0 0 0) (tState (tCore tSt)) (tCore tSt) tSt tU ∧ (f0 0 0 0).sa.toNat = 0) ∧
    (Issues (.call fWide) fWide (tState (tCore tSt)) (tCore tSt) tSt tU ∧ tSt.handler = none ∧ ∃ top rest, tSt.frames = top :: rest ∧
      8 * top.gran < fWide.sa.toNat + fWide.aux.toNat / 32 % 16) ∧
    (Issues (.call fCall) fCall (tState (tCore tDeep)) (tCore tDeep) tDeep tU ∧ tDeep.frames.length = 64 ∧ ∃ top rest, tDeep.frames = top :: rest ∧
      fCall.sa.toNat + fCall.aux.toNat / 32 % 16 ≤ 8 * top.gran ∧ fCall.dst.toNat + fCall.aux.toNat / 512 % 16 ≤ 8 * top.gran ∧
      fCall.aux.toNat / 32 % 16 ≤ 8 * (fCall.aux.toNat % 32 + 1) ∧ fCall.aux.toNat / 512 % 16 ≤ 8 * (fCall.aux.toNat % 32 + 1)) ∧
    (Issues (.trap (f0 0 4 0x23)) (f0 0 4 0x23) (tState (tCore tSt)) (tCore tSt) tSt tU ∧ execMask (f0 0 4 0x23) tSt tU ≠ 0) :=
  ⟨⟨issues_of (issuer_tState rfl) (by decide), by decide, rfl⟩, ⟨issues_of (issuer_tState rfl) (by decide), by decide⟩,
    ⟨issues_of (issuer_tState rfl) (by decide), by decide⟩, ⟨issues_of (issuer_tState rfl) (by decide), rfl⟩,
    ⟨issues_of (issuer_tState rfl) (by decide), rfl, _, _, rfl, by decide⟩,
    ⟨issues_of (issuer_tState rfl) (by decide), rfl, _, _, rfl, by decide⟩, issues_of (issuer_tState rfl) (by decide), by decide⟩

/-! System registers, waits, barriers -/

/-- MTS of v12, which holds the lane's number. -/
def fMts (n : BitVec 32) : Form := f1 0 12 0 0 0 n

/-- The same strand, and in a handler, with a word of ones in v12: of lane 1 alone, or of all. -/
def tOnes (st : Strand) (one : Bool) : Strand := tPut st 12 fun l => if one && l != 1 then 0 else 0xFFFFFFFF

/-- Words with reserved bits, for every register that MTS may write. -/
theorem met_SystemWrites_reserved :
    (∀ n ∈ [(0x22 : BitVec 32), 0x40, 0x41, 0x42],
      Issues (.mts (fMts n)) (fMts n) (tState (tCore (tOnes tSt false))) (tCore (tOnes tSt false)) (tOnes tSt false) tU ∧
        execMask (fMts n) (tOnes tSt false) tU ≠ 0 ∧ (opA (fMts n) (tOnes tSt false) 0 1).v.toNat = 2 ^ 32 - 1) ∧
    (Issues (.mts (fMts 0x20)) (fMts 0x20) (tState (tCore (tOnes tSt true))) (tCore (tOnes tSt true)) (tOnes tSt true) tU ∧
      (opA (fMts 0x20) (tOnes tSt true) 0 1).v = 0 ∧ ¬(opA (fMts 0x20) (tOnes tSt true) 1 1).v.toNat < 2 ^ 9) ∧
    (∀ n ∈ [(0x4B : BitVec 32), 0x4C, 0x4F],
      Issues (.mts (fMts n)) (fMts n) (tState (tCore (tOnes tHand true))) (tCore (tOnes tHand true)) (tOnes tHand true) tU ∧
        (opA (fMts n) (tOnes tHand true) 1 1).v.toNat = 2 ^ 32 - 1) := by
  refine ⟨?_, ⟨issues_of (issuer_tState rfl) (by decide), by decide, by decide⟩, ?_⟩ <;> intro n hn <;>
    simp only [List.mem_cons, List.not_mem_nil, or_false] at hn
  · obtain rfl | rfl | rfl | rfl := hn <;> exact ⟨issues_of (issuer_tState rfl) (by decide), by decide, by decide⟩
  · obtain rfl | rfl | rfl := hn <;> exact ⟨issues_of (issuer_tState rfl) (by decide), by decide⟩

theorem met_SystemWrites :
    (∀ n ∈ [(0x20 : BitVec 32), 0x22, 0x40, 0x41, 0x42, 0x200, 0x21, 0x1FF, 0x4B, 0x4F],
      Issues (.mts (fMts n)) (fMts n) (tState (tCore tSt)) (tCore tSt) tSt tU ∧ execMask (fMts n) tSt tU ≠ 0 ∧
      (((executing (fMts n) tSt tU).head?).getD 0 = 0) ∧ (opA (fMts n) tSt 0 1).v = 0) ∧
    (∀ l, l < 32 → executes (fMts 0x20) tSt tU l = true → (opA (fMts 0x20) tSt l 1).v.toNat < 2 ^ 9) ∧ tSt.handler = none ∧
    tHand.handler.isSome = true ∧
    (∀ n ∈ [(0x4B : BitVec 32), 0x4C, 0x4F], Issues (.mts (f1 0 8 0 0 0 n)) (f1 0 8 0 0 0 n) (tState (tCore tHand)) (tCore tHand) tHand tU ∧
      execMask (f1 0 8 0 0 0 n) tHand tU ≠ 0) ∧
    (∀ l, l < 32 → executes (f1 0 8 0 0 0 0x4B) tHand tU l = true → (opA (f1 0 8 0 0 0 0x4B) tHand l 1).v.toNat % 4 = 0) ∧
    (∀ l, l < 32 → executes (fMts 0x4F) tHand tU l = true → (opA (fMts 0x4F) tHand l 1).v.toNat < 2 ^ 7) ∧
    getCore (tState (tCore tSt)) 0 = some (tCore tSt) := by
  refine ⟨?_, by decide, rfl, rfl, ?_, by decide, by decide, rfl⟩ <;> intro n hn <;> simp only [List.mem_cons, List.not_mem_nil, or_false] at hn
  · obtain rfl | rfl | rfl | rfl | rfl | rfl | rfl | rfl | rfl | rfl := hn <;>
      exact ⟨issues_of (issuer_tState rfl) (by decide), by decide, by decide, by decide⟩
  · obtain rfl | rfl | rfl := hn <;> exact ⟨issues_of (issuer_tState rfl) (by decide), by decide⟩

/-- TCFG of tile 3 with the word of v14. -/
def tShape (v : Nat) : Strand := tPut tSt 14 fun _ => v

/-- A core that caches two lines of code, the first pinned. -/
def tPins : Core := { tCore tSt with pins := [1024], ic := [(1024, List.replicate 64 1, false, false), (1025, List.replicate 64 2, false, false)] }

theorem met_CoreState :
    (∀ x ∈ [tCore tSt, tPins], Issues (.fencei (f0 0 0 0)) (f0 0 0 0) (tState x) x tSt tU ∧ execMask (f0 0 0 0) tSt tU ≠ 0) ∧
    1024 ∈ tPins.pins ∧ 1025 ∉ tPins.pins ∧
    Issues (.finfo (f0 4 0 0)) (f0 4 0 0) (tState (tCore tSt)) (tCore tSt) tSt tU ∧
    Issues (.pbar (f0 0 0 0)) (f0 0 0 0) (tState { tCore tSt with segOpen := true }) { tCore tSt with segOpen := true } tSt tU ∧
    (∀ v ∈ [0x403, 0x406], Issues (.tcfg (f0 3 14 0)) (f0 3 14 0) (tState (tCore (tShape v))) (tCore (tShape v)) (tShape v) tU ∧
      execMask (f0 3 14 0) (tShape v) tU ≠ 0 ∧ (rd32 (tShape v) 14 false 0).p = false ∧ (rd32 (tShape v) 14 false 0).v.toNat = v) ∧
    ∀ j ∈ (tCore tSt).jobs, ∀ e ∈ j.ents, e.space = 1 → e.tmask.getLsbD 3 = false := by
  refine ⟨?_, by decide, by decide, issues_of (issuer_tState rfl) (by decide), issues_of (issuer_tState rfl) (by decide), ?_, by decide⟩
  · intro x hx
    simp only [List.mem_cons, List.not_mem_nil, or_false] at hx
    obtain rfl | rfl := hx <;> exact ⟨issues_of (issuer_tState rfl) (by decide), by decide⟩
  intro v hv
  simp only [List.mem_cons, List.not_mem_nil, or_false] at hv
  obtain rfl | rfl := hv <;> exact ⟨issues_of (issuer_tState rfl) (by decide), by decide, by decide, by decide⟩

theorem met_CounterWaits :
    (Issues (.wait (f0 1 2 3)) (f0 1 2 3) (tState (tCore tSt)) (tCore tSt) tSt tU ∧ execMask (f0 1 2 3) tSt tU ≠ 0) ∧
    Issues (.waitt (f0 0 2 3)) (f0 0 2 3) (tState (tCore tSt)) (tCore tSt) tSt tU ∧
    Issues (.sdrain (f0 0 0 0)) (f0 0 0 0) (tState (tCore tSt)) (tCore tSt) tSt tU :=
  ⟨⟨issues_of (issuer_tState rfl) (by decide), by decide⟩, issues_of (issuer_tState rfl) (by decide), issues_of (issuer_tState rfl) (by decide)⟩

/-- A barrier at which one strand of two, or of three, has arrived. -/
def tBar (n : Nat) : Core := { tCore tAll with bars := [(2, { arr := 1, exp := n, gen := 7, all := false, who := [3] })] }

theorem met_Barriers :
    (Issues (.bar (f0 0 2 2)) (f0 0 2 2) (tState (tCore tSt)) (tCore tSt) tSt tU ∧ execMask (f0 0 2 2) tSt tU ≠ 0 ∧ tSt.handler = none ∧
      staysOut (f0 0 2 2) tSt tU) ∧
    (Issues (.gbar (f0 0 2 0)) (f0 0 2 0) (tState (tCore tSt)) (tCore tSt) tSt tU ∧ staysOut (f0 0 2 0) tSt tU) ∧
    ∀ n ∈ [2, 3], Issues (.bar (f7 0 2 2)) (f7 0 2 2) (tState (tBar n)) (tBar n) tAll tU ∧ execMask (f7 0 2 2) tAll tU ≠ 0 ∧ tAll.handler = none ∧
      tAll.arrived = none ∧ (∀ l, l < 32 → (lane tAll l).st ≠ .exited → executes (f7 0 2 2) tAll tU l = true) ∧
      (∃ l, l < 32 ∧ executes (f7 0 2 2) tAll tU l = true ∧ (lane tAll l).st ≠ .exited) ∧
      ((barOf (tBar n).bars 2).arr + 1 = (barOf (tBar n).bars 2).exp ↔ n = 2) ∧ coreLive (tState (tBar n)) (tBar n) = true := by
  refine ⟨⟨issues_of (issuer_tState rfl) (by decide), by decide, rfl, by unfold staysOut; decide⟩,
    ⟨issues_of (issuer_tState rfl) (by decide), by unfold staysOut; decide⟩, ?_⟩
  intro n hn
  simp only [List.mem_cons, List.not_mem_nil, or_false] at hn
  obtain rfl | rfl := hn <;>
    exact ⟨issues_of (issuer_tState rfl) (by decide), by decide, rfl, rfl, by decide, by decide, by decide, by decide⟩

/-- A second strand that has not arrived, and one that has. -/
def tPair (s : SState) : Core := { tCore tSt with strands := [(0, tSt), (1, { tSt with st := s })] }

theorem met_PhaseArrival :
    (Issues (.phase (f0 0 0 0)) (f0 0 0 0) (tState (tPair .running)) (tPair .running) tSt tU ∧ execMask (f0 0 0 0) tSt tU ≠ 0 ∧ tSt.handler = none ∧
      ∃ p ∈ (tPair .running).strands, p.1 ≠ tU.slot ∧ atPhase p.2 = false) ∧
    (Issues (.phase (f0 0 0 0)) (f0 0 0 0) (tState (tPair .atPhase)) (tPair .atPhase) tSt tU ∧ (tPair .atPhase).pst = .running ∧
      ((tPair .atPhase).strands.map fun p => p.1).Nodup ∧ ∀ p ∈ (tPair .atPhase).strands, p.1 ≠ tU.slot → atPhase p.2 = true) :=
  ⟨⟨issues_of (issuer_tState rfl) (by decide), by decide, rfl, by decide⟩, issues_of (issuer_tState rfl) (by decide), rfl, by decide, by decide⟩

/-! Traps -/

def tCtl (a : Word) : Core := { tCore tSt with trapctl := a <<< 24, trapvec := 0x5000 }
def fTrap : Form := f0 0 4 0x23

theorem met_TrapActions :
    (Issues (.trap fTrap) fTrap (tState (tCtl 1)) (tCtl 1) tSt tU ∧ execMask fTrap tSt tU ≠ 0 ∧ tSt.handler = none ∧ tSt.hold = none ∧
      (tCtl 1).trapctl.extractLsb' 24 2 = 1 ∧ (tCtl 1).trapvec ≠ 0 ∧ handlerFree (tCtl 1) tU.slot = true) ∧
    (Issues (.trap fTrap) fTrap (tState (tCtl 0)) (tCtl 0) tSt tU ∧ (tCtl 0).trapctl.extractLsb' 24 2 = 0 ∧ staysOut fTrap tSt tU) ∧
    (Issues (.trap fTrap) fTrap (tState (tCtl 2)) (tCtl 2) tSt tU ∧ (tCtl 2).trapctl.extractLsb' 24 2 = 2 ∧
      ∃ g c, gangOf (tState (tCtl 2)) (tCtl 2) = some g ∧ aget (tState (tCtl 2)).ctxs g.ctx = some c ∧ c.st = .live) :=
  ⟨⟨issues_of (issuer_tState rfl) (by decide), by decide, rfl, rfl, by decide, by decide, by decide⟩,
    ⟨issues_of (issuer_tState rfl) (by decide), by decide, by unfold staysOut; decide⟩,
    issues_of (issuer_tState rfl) (by decide), by decide, _, _, rfl, rfl, rfl⟩

theorem met_TrapReturn :
    (Issues (.eret (f7 0 0 0)) (f7 0 0 0) (tState (tCore tHand)) (tCore tHand) tHand tU ∧ execMask (f7 0 0 0) tHand tU ≠ 0 ∧
      tHand.handler.isSome = true ∧ ∃ l, l < 32 ∧ (lane tHand l).st ≠ .exited ∧ (lane tHand l).sst = .ready) ∧
    Issues (.eret (f7 0 0 0)) (f7 0 0 0) (tState (tCore tSt)) (tCore tSt) tSt tU ∧ tSt.handler = none :=
  ⟨⟨issues_of (issuer_tState rfl) (by decide), by decide, rfl, by decide⟩, issues_of (issuer_tState rfl) (by decide), rfl⟩

def fFwr : Form := f1 0 8 12 0 0 0x500
theorem met_FrameWrites :
    Issues (.fwr fFwr) fFwr (tState (tCore tHand)) (tCore tHand) tHand tU ∧ execMask fFwr tHand tU ≠ 0 ∧ tHand.handler.isSome = true ∧
      (∃ g, tHand.frames[fFwr.aux.toNat % 64]? = some g ∧ fFwr.aux.toNat / 256 % 256 < 8 * g.gran) ∧
      ∀ l, l < 32 → executes fFwr tHand tU l = true → (opB fFwr tHand l 1).p = false ∧ (opB fFwr tHand l 1).v.toNat < 32 :=
  ⟨issues_of (issuer_tState rfl) (by decide), by decide, rfl, ⟨_, rfl, by decide⟩, by decide⟩

/-! Code lines, launches -/

def fSpan : Form := f1 0 8 0 0 0 100
theorem met_CodeLines : ∀ mk ∈ [Instr.ipf, .ipin, .iunpin],
    Issues (mk fSpan) fSpan (tState (tCore tSt)) (tCore tSt) tSt tU ∧ execMask fSpan tSt tU ≠ 0 ∧ (opA fSpan tSt 0 2).p = false ∧
      (opA fSpan tSt 0 2).v.toNat < 2 ^ 48 ∧ (codeLine (tState (tCore tSt)) 0 ((opA fSpan tSt 0 2).v.toNat / 64)).isSome = true ∧
      (∀ i, i < fSpan.aux.toNat / 64 + 2 → (tlbCore (tState (tCore tSt)) 0 0 (64 * ((opA fSpan tSt 0 2).v.toNat / 64 + i))).isSome = true) ∧
      progPte.rem = false ∧
      0 < fSpan.aux.toNat ∧ (tCore tSt).ic.length + (fSpan.aux.toNat / 64 + 2) ≤ 2048 ∧ (tCore tSt).pins.length + (fSpan.aux.toNat / 64 + 2) ≤ 256 := by
  intro mk hmk
  simp only [List.mem_cons, List.not_mem_nil, or_false] at hmk
  obtain rfl | rfl | rfl := hmk <;> exact ⟨issues_of (issuer_tState rfl) (by decide), by decide, by decide, by decide, by decide, by decide +kernel, rfl, by decide, by decide, by decide⟩

/-- A context that may use queue 1. -/
def tLaunch (q : BitVec 128) : State := { tState (tCore tSt) with ctxs := [(0, { progCtx with qmask := q, priocap := 5 })] }
def fLaunch : Form := f1 3 8 0 0 0 1

theorem met_Launches :
    (Issues (.launch fLaunch) fLaunch (tLaunch 2) (tCore tSt) tSt tU ∧ execMask fLaunch tSt tU ≠ 0 ∧ (opA fLaunch tSt 0 2).p = false ∧
      ptrForm (opA fLaunch tSt 0 2).v = true ∧ (∃ cx, ctxOf (tLaunch 2) (tCore tSt) = some cx ∧ cx.qmask.getLsbD fLaunch.aux.toNat = true) ∧
      (∀ o ∈ (tCore tSt).ops, ∀ l ∈ o.lanes, l.done = true) ∧
      let s0 := withStrand (tLaunch 2) tU (skipped fLaunch tSt tU)
      (∃ e, xlate s0 tU.core 0 (ptrVa (opA fLaunch tSt 0 2).v) = .hit e) ∧
      (∃ e, xlate s0 tU.core 0 (ptrVa (ptrAdd (opA fLaunch tSt 0 2).v 127)) = .hit e) ∧
      ((match readPieces tU.core 0 { lane := 0, ptr := (opA fLaunch tSt 0 2).v, n := 128, data := [], b := wz, c := wz } s0
          (recPieces (opA fLaunch tSt 0 2).v) with | .ok _ r => !r.2 | _ => false) = true)) ∧
    (Issues (.launch fLaunch) fLaunch (tLaunch 0) (tCore tSt) tSt tU ∧
      ∃ cx, ctxOf (tLaunch 0) (tCore tSt) = some cx ∧ cx.qmask.getLsbD fLaunch.aux.toNat = false) :=
  ⟨⟨issues_of rfl (by decide), by decide, by decide, by decide, ⟨_, rfl, by decide⟩, by decide, ⟨_, rfl⟩, ⟨_, rfl⟩, by decide +kernel⟩, issues_of rfl (by decide), _, rfl,
    by decide⟩

/-! Accesses -/

/-- What holds of every executing lane below 32 holds of every executing lane. -/
theorem all_exec {f : Form} {st : Strand} {u : Cur} {P : Nat → Prop} (h : ∀ l, l < 32 → executes f st u l = true → P l) :
    ∀ l, executes f st u l = true → P l := fun l hl =>
  h l (inMask_lt (by simp only [executes, Bool.and_eq_true] at hl; exact hl.1)) hl

def accB (s : State) (x : Core) (u : Cur) (p : DWord) (n : Nat) (wr : Bool) (e : Pte) : Bool :=
  ptrForm p && decide (p.toNat % n = 0) && decide (xlate s u.core (ctxNumOf s x) (ptrVa p) = .hit e) && !e.priv &&
    !locked x 2 (ptrVa p) n wr

theorem accOk {s : State} {x : Core} {u : Cur} {p : DWord} {n : Nat} {wr : Bool} {e : Pte} (h : accB s x u p n wr e = true) :
    AccessOk s x u p n wr e := by
  simp only [accB, Bool.and_eq_true, decide_eq_true_eq, Bool.not_eq_true'] at h
  exact ⟨h.1.1.1.1, h.1.1.1.2, h.1.1.2, h.1.2, h.2⟩

/-- A pointer's byte address in lane l, and what a load asks of it, of progPte's page. -/
def tPtr (f : Form) (st : Strand) (l : Nat) : DWord := ptrAdd (opA f st l 2).v f.aux.toInt

def loadB (s : State) (x : Core) (p : DWord) (n : Nat) (held : Bool) : Bool :=
  accB s x tU p n false progPte && (tagFails s x progPte p (paOf progPte (ptrVa p)) n false (held && progPte.cache != 2)).isNone

theorem loadOk {s : State} {x : Core} {p : DWord} {n : Nat} {held : Bool} (h : loadB s x p n held = true) :
    LoadOk s x tU p n held progPte := by
  simp only [loadB, Bool.and_eq_true, Option.isNone_iff_eq_none] at h
  exact ⟨accOk h.1, h.2⟩

/-- Loads of each width, ordinary and by `.dir`. -/
def fLoad (md : BitVec 11) : Form := f1 4 8 0 0 md 16
def mdLoads : List (BitVec 11) := [5, 6, 9, 12, 15, 0x405, 0x40B]

/-- A descriptor in k4 to k7: base 0x10100, limit 36, scale 4, zeros beyond the limit when z. -/
def tDesc (z : Bool) : Strand :=
  { tSt with k := [(4, ⟨0x10100, false⟩), (6, ⟨36, false⟩), (7, ⟨if z then 0x12 else 2, false⟩)] }
def fLdb : Form := f1 4 4 12 0 0 32

theorem met_Loads :
    (∀ md ∈ mdLoads, Issues (.ld (fLoad md)) (fLoad md) (tState (tCore tSt)) (tCore tSt) tSt tU ∧ execMask (fLoad md) tSt tU ≠ 0 ∧
      RoomLoad (tCore tSt) tSt ∧ ∀ l, executes (fLoad md) tSt tU l = true → (opA (fLoad md) tSt l 2).p = false ∧
        LoadOk (tState (tCore tSt)) (tCore tSt) tU (tPtr (fLoad md) tSt l) (fLoad md).memBytes (!(fLoad md).dir) progPte) ∧
    (let st := tDesc true
     let base : DWord := (readK st 5).v ++ (readK st 4).v
     let off (l : Nat) : Int := ((opB fLdb st l 1).v.toNat * 2 ^ (((readK st 7).v).toNat % 8) : Nat) + fLdb.aux.toInt
     Issues (.ldb fLdb) fLdb (tState (tCore st)) (tCore st) st tU ∧ execMask fLdb st tU ≠ 0 ∧ RoomLoad (tCore st) st ∧ fLdb.sa = 4 ∧
      (∀ i, i < 4 → (readK st (4 + i)).p = false) ∧ (readK st 7).v.toNat < 2 ^ 5 ∧ (readK st 7).v.getLsbD 3 = false ∧
      (readK st 7).v.toNat % 8 ≤ 4 ∧
      (∀ l, executes fLdb st tU l = true → (opB fLdb st l 1).p = false ∧ ptrForm (ptrAdd base (off l)) = true ∧
        if 0 ≤ off l ∧ off l + fLdb.memBytes ≤ (readK st 6).v.toNat then
          LoadOk (tState (tCore st)) (tCore st) tU (ptrAdd base (off l)) fLdb.memBytes (!fLdb.dir) progPte
        else (readK st 7).v.getLsbD 4 = true) ∧
      (0 ≤ off 0 ∧ off 0 + fLdb.memBytes ≤ (readK st 6).v.toNat) ∧ ¬ (off 2 + fLdb.memBytes ≤ (readK st 6).v.toNat)) ∧
    (∀ md ∈ mdLoads, let f := { fLoad md with dst := 8 }
      Issues (.ldk f) f (tState (tCore tSt)) (tCore tSt) tSt tU ∧ execMask f tSt tU ≠ 0 ∧ RoomLoad (tCore tSt) tSt ∧
        (executing f tSt tU).head? = some 0 ∧ (opA f tSt 0 2).p = false ∧
        LoadOk (tState (tCore tSt)) (tCore tSt) tU (tPtr f tSt 0) f.memBytes (!f.dir) progPte) := by
  refine ⟨?_, ?_, ?_⟩
  · intro md hm
    simp only [mdLoads, List.mem_cons, List.not_mem_nil, or_false] at hm
    obtain rfl | rfl | rfl | rfl | rfl | rfl | rfl := hm <;>
      exact ⟨issues_of (issuer_tState rfl) (by decide), by decide, by unfold RoomLoad; decide,
        all_exec fun l hl he => ⟨by revert l; decide, loadOk (by revert l; decide)⟩⟩
  · refine ⟨issues_of (issuer_tState rfl) (by decide), by decide, by unfold RoomLoad; decide, rfl, by decide, by decide, by decide, by decide, ?_,
      by decide, by decide⟩
    refine all_exec fun l hl he => ⟨by revert l; decide, by revert l; decide, ?_⟩
    have h02 : l = 0 ∨ l = 2 := by revert l; decide
    obtain rfl | rfl := h02
    · rw [if_pos (by decide)]; exact loadOk (by decide)
    · rw [if_neg (by decide)]; decide
  · intro md hm
    simp only [mdLoads, List.mem_cons, List.not_mem_nil, or_false] at hm
    obtain rfl | rfl | rfl | rfl | rfl | rfl | rfl := hm <;>
      exact ⟨issues_of (issuer_tState rfl) (by decide), by decide, by unfold RoomLoad; decide, by decide, by decide, loadOk (by decide)⟩

/-- A local address in v8. -/
def tLocal : Strand := tPut tSt 8 fun l => 64 * l
def tAddr (f : Form) (st : Strand) (l : Nat) : Nat := (BitVec.ofInt 32 (((opA f st l 1).v.toNat : Int) + f.aux.toInt)).toNat

/-- What LDR asks: the address in the window and the far array, aligned, the ticket the same. -/
def remB (f : Form) (s : State) (x : Core) (a : Nat) : Bool :=
  decide (a < 2 ^ 22) && decide (a % 2 ^ 20 + f.memBytes ≤ scrOf s x) && decide (a % f.memBytes = 0) && ticketOk s tU.core x a

theorem met_LocalLoads : ∀ md ∈ mdLoads.take 5,
    (Issues (.lds (fLoad md)) (fLoad md) (tState (tCore tLocal)) (tCore tLocal) tLocal tU ∧ execMask (fLoad md) tLocal tU ≠ 0 ∧
      outCount tLocal .ld < 63 ∧ ∀ l, executes (fLoad md) tLocal tU l = true → (opA (fLoad md) tLocal l 1).p = false ∧
        LocalOk (tState (tCore tLocal)) (tCore tLocal) (tAddr (fLoad md) tLocal l) (fLoad md).memBytes false) ∧
    (Issues (.ldr (fLoad md)) (fLoad md) (tState (tCore tLocal)) (tCore tLocal) tLocal tU ∧
      ∀ l, executes (fLoad md) tLocal tU l = true → (opA (fLoad md) tLocal l 1).p = false ∧
        remB (fLoad md) (tState (tCore tLocal)) (tCore tLocal) (tAddr (fLoad md) tLocal l) = true) := by
  intro md hm
  simp only [mdLoads, List.take, List.mem_cons, List.not_mem_nil, or_false] at hm
  obtain rfl | rfl | rfl | rfl | rfl := hm <;>
    exact ⟨⟨issues_of (issuer_tState rfl) (by decide), by decide, by decide, all_exec fun l hl he => ⟨by revert l; decide, by unfold LocalOk; revert l; decide⟩⟩,
      issues_of (issuer_tState rfl) (by decide), all_exec fun l hl he => ⟨by revert l; decide, by revert l; decide⟩⟩

/-- The core's own STR of three bytes in its queue. -/
def tOwn : SEntry :=
  { id := 8, slot := 0, sid := 0, pc := 0x10000, w0 := 0, seq := 0, dir := false, str := true,
    lanes := [{ lane := 0, ptr := 0, pa := 64, e := progPte, data := [1, 2, 3], pw := [false], seg := 0, bound := none }] }
theorem met_LocalLoads_queued :
    ((∀ q ∈ (tCore tSt).sq, q.str = false) ∧ (tState (tCore tSt)).msgs = []) ∧
    ({ tCore tSt with sq := [tOwn] } : Core).sq = [] ++ [tOwn] ∧ tOwn.str = true ∧ windowCore 0 64 = 0 ∧
    ∀ i, i < 3 → 64 % 2 ^ 20 ≤ 64 + i ∧ 64 + i < 64 % 2 ^ 20 + 3 := by decide

def fStore (md : BitVec 11) : Form := f1 0 8 10 0 md 16
def fStb : Form := f1 0 4 12 10 0 32

theorem met_Stores :
    (∀ md ∈ ([6, 9, 0x40B] : List (BitVec 11)), Issues (.st (fStore md)) (fStore md) (tState (tCore tSt)) (tCore tSt) tSt tU ∧
      execMask (fStore md) tSt tU ≠ 0 ∧ RoomStore (tCore tSt) tSt ∧ AllDone (tCore tSt) ∧
      ∀ l, executes (fStore md) tSt tU l = true → (opA (fStore md) tSt l 2).p = false ∧
        AccessOk (tState (tCore tSt)) (tCore tSt) tU (tPtr (fStore md) tSt l) (fStore md).memBytes true progPte ∧
        ((storeData (fStore md) tSt l).2.any id = true → progPte.nv = false ∧ progPte.rem = false ∧ progPte.cache ≠ 2)) ∧
    (∀ z ∈ [false, true], let st := tDesc z
     let base : DWord := (readK st 5).v ++ (readK st 4).v
     let off (l : Nat) : Int := ((opB fStb st l 1).v.toNat * 2 ^ (((readK st 7).v).toNat % 8) : Nat) + fStb.aux.toInt
     let inside (l : Nat) : Bool := decide (0 ≤ off l ∧ off l + fStb.memBytes ≤ (readK st 6).v.toNat)
     Issues (.stb fStb) fStb (tState (tCore st)) (tCore st) st tU ∧ execMask fStb st tU ≠ 0 ∧ RoomStore (tCore st) st ∧ AllDone (tCore st) ∧
      fStb.sa = 4 ∧ (∀ i, i < 4 → (readK st (4 + i)).p = false) ∧ (readK st 7).v.toNat < 2 ^ 5 ∧ (readK st 7).v.getLsbD 3 = false ∧
      (readK st 7).v.toNat % 8 ≤ 4 ∧ (readK st 7).v.getLsbD 4 = z ∧
      (∀ l, executes fStb st tU l = true → (opB fStb st l 1).p = false ∧ ptrForm (ptrAdd base (off l)) = true ∧
        (inside l = true → AccessOk (tState (tCore st)) (tCore st) tU (ptrAdd base (off l)) fStb.memBytes true progPte ∧
          (dataOf st fStb.sc.toNat fStb.kcc l fStb.memW fStb.memBytes).2.any id = false)) ∧ inside 0 = true ∧ inside 2 = false ∧
      ((executing fStb st tU).filter fun l => inside l || !(readK st 7).v.getLsbD 4) ≠ []) ∧
    ∀ md ∈ ([6, 9] : List (BitVec 11)), Issues (.str (fStore md)) (fStore md) (tState (tCore tLocal)) (tCore tLocal) tLocal tU ∧
      RoomStore (tCore tLocal) tLocal ∧
      ∀ l, executes (fStore md) tLocal tU l = true → (opA (fStore md) tLocal l 1).p = false ∧ tAddr (fStore md) tLocal l < 2 ^ 22 ∧
        tAddr (fStore md) tLocal l % 2 ^ 20 + (fStore md).memBytes ≤ scrOf (tState (tCore tLocal)) (tCore tLocal) ∧
        tAddr (fStore md) tLocal l % (fStore md).memBytes = 0 := by
  refine ⟨?_, ?_, ?_⟩
  · intro md hm
    simp only [List.mem_cons, List.not_mem_nil, or_false] at hm
    obtain rfl | rfl | rfl := hm <;>
      exact ⟨issues_of (issuer_tState rfl) (by decide), by decide, by unfold RoomStore; decide, by unfold AllDone; decide,
        all_exec fun l hl he => ⟨by revert l; decide, accOk (by revert l; decide), by revert l; decide⟩⟩
  · intro z hz
    simp only [List.mem_cons, List.not_mem_nil, or_false] at hz
    obtain rfl | rfl := hz <;>
      exact ⟨issues_of (issuer_tState rfl) (by decide), by decide, by unfold RoomStore; decide, by unfold AllDone; decide, rfl, by decide, by decide,
        by decide, by decide, by decide, all_exec fun l hl he => ⟨by revert l; decide, by revert l; decide, fun hi => by
          have h02 : l = 0 := by revert l; decide
          subst h02
          exact ⟨accOk (by decide), by decide⟩⟩, by decide, by decide, by decide⟩
  · intro md hm
    simp only [List.mem_cons, List.not_mem_nil, or_false] at hm
    obtain rfl | rfl := hm <;>
      exact ⟨issues_of (issuer_tState rfl) (by decide), by unfold RoomStore; decide, all_exec fun l hl he => by revert l; decide⟩

/-- Beyond the limit in every lane, and dropped. -/
theorem met_Stores_none :
    let st : Strand := { tSt with k := [(4, ⟨0x10100, false⟩), (6, ⟨35, false⟩), (7, ⟨0x12, false⟩)] }
    let off (l : Nat) : Int := ((opB fStb st l 1).v.toNat * 2 ^ (((readK st 7).v).toNat % 8) : Nat) + fStb.aux.toInt
    let base : DWord := (readK st 5).v ++ (readK st 4).v
    let inside (l : Nat) : Bool := decide (0 ≤ off l ∧ off l + fStb.memBytes ≤ (readK st 6).v.toNat)
    Issues (.stb fStb) fStb (tState (tCore st)) (tCore st) st tU ∧ execMask fStb st tU ≠ 0 ∧
      (∀ l, executes fStb st tU l = true → (opB fStb st l 1).p = false ∧ ptrForm (ptrAdd base (off l)) = true ∧ inside l = false) ∧
      ((executing fStb st tU).filter fun l => inside l || !(readK st 7).v.getLsbD 4) = [] :=
  ⟨issues_of (issuer_tState rfl) (by decide), by decide, all_exec fun l hl he => by revert l; decide, by decide⟩

def fAtom (md : BitVec 11) : Form := f1 4 8 10 12 md 16

theorem met_LocalUpdates :
    (∀ md ∈ ([6, 9] : List (BitVec 11)), Issues (.sts (fStore md)) (fStore md) (tState (tCore tLocal)) (tCore tLocal) tLocal tU ∧
      execMask (fStore md) tLocal tU ≠ 0 ∧ (tCore tLocal).wf = true ∧ outCount tLocal .st < 63 ∧
      ∀ l, executes (fStore md) tLocal tU l = true → (opA (fStore md) tLocal l 1).p = false ∧
        LocalOk (tState (tCore tLocal)) (tCore tLocal) (tAddr (fStore md) tLocal l) (fStore md).memBytes true) ∧
    (∀ i ∈ [Instr.atoms { fAtom 0 with sc := 0 }, .atoms { fAtom 3 with sc := 0 }, .acass (fAtom 0), .acass (fAtom 3)],
      ∃ f, i.form = some f ∧ Issues i f (tState (tCore tLocal)) (tCore tLocal) tLocal tU ∧ execMask f tLocal tU ≠ 0 ∧ outCount tLocal .ld < 63 ∧
        ∀ l, executes f tLocal tU l = true → (opA f tLocal l 1).p = false ∧
          LocalOk (tState (tCore tLocal)) (tCore tLocal) (tAddr f tLocal l) (atomBytes f.ty) true) := by
  refine ⟨?_, ?_⟩
  · intro md hm
    simp only [List.mem_cons, List.not_mem_nil, or_false] at hm
    obtain rfl | rfl := hm <;>
      exact ⟨issues_of (issuer_tState rfl) (by decide), by decide, by decide, by decide,
        all_exec fun l hl he => ⟨by revert l; decide, by unfold LocalOk; revert l; decide⟩⟩
  · intro i hi
    simp only [List.mem_cons, List.not_mem_nil, or_false] at hi
    obtain rfl | rfl | rfl | rfl := hi <;>
      exact ⟨_, rfl, issues_of (issuer_tState rfl) (by decide), by decide, by decide,
        all_exec fun l hl he => ⟨by revert l; decide, by unfold LocalOk; revert l; decide⟩⟩

def atomB (s : State) (x : Core) (p : DWord) (n : Nat) (pois : Bool) : Bool :=
  accB s x tU p n true progPte && !progPte.ro && (!pois || (!progPte.nv && !progPte.rem && progPte.cache != 2)) &&
    (tagFails s x progPte p (paOf progPte (ptrVa p)) n true false).isNone

theorem atomOk {s : State} {x : Core} {p : DWord} {n : Nat} {pois : Bool} (h : atomB s x p n pois = true) :
    AtomicOk s x tU p n pois progPte := by
  simp only [atomB, Bool.and_eq_true, Bool.or_eq_true, Bool.not_eq_true', bne_iff_ne, Option.isNone_iff_eq_none] at h
  obtain ⟨⟨⟨a, b⟩, c⟩, d⟩ := h
  refine ⟨accOk a, b, fun hp => ?_, d⟩
  rcases c with c | c
  · exact absurd (hp.symm.trans c) (by decide)
  · exact ⟨c.1.1, c.1.2, c.2⟩

theorem met_Atomics :
    (∀ i ∈ [Instr.atom { fAtom 3 with sc := 0 }, .atom { fAtom 0x280 with sc := 0 }, .acas (fAtom 0), .acas (fAtom 3),
        .red { fAtom 0 with sc := 0, dst := 0 }, .red { fAtom 0x281 with sc := 0, dst := 0 }],
      ∃ f, i.form = some f ∧ Issues i f (tState (tCore tSt)) (tCore tSt) tSt tU ∧ execMask f tSt tU ≠ 0 ∧ outCount tSt .ld < 63 ∧
        outCount tSt .st < 63 ∧ ∀ l, executes f tSt tU l = true → (opA f tSt l 2).p = false ∧
          ∀ b : Bool, AtomicOk (tState (tCore tSt)) (tCore tSt) tU (tPtr f tSt l) (atomBytes f.ty) b progPte) ∧
    (∀ md ∈ ([4, 5, 6] : List (BitVec 11)), let f := { fAtom md with sc := 0 }
      Issues (.afadd f) f (tState (tCore tSt)) (tCore tSt) tSt tU ∧ execMask f tSt tU ≠ 0 ∧
        ∀ l, executes f tSt tU l = true → (opA f tSt l 2).p = false ∧
          ∀ b : Bool, AtomicOk (tState (tCore tSt)) (tCore tSt) tU (tPtr f tSt l) 4 b progPte) := by
  refine ⟨?_, ?_⟩
  · intro i hi
    simp only [List.mem_cons, List.not_mem_nil, or_false] at hi
    obtain rfl | rfl | rfl | rfl | rfl | rfl := hi <;>
      exact ⟨_, rfl, issues_of (issuer_tState rfl) (by decide), by decide, by decide, by decide,
        all_exec fun l hl he => ⟨by revert l; decide, fun b => atomOk (by revert l b; decide)⟩⟩
  · intro i hi
    simp only [List.mem_cons, List.not_mem_nil, or_false] at hi
    obtain rfl | rfl | rfl := hi <;>
      exact ⟨issues_of (issuer_tState rfl) (by decide), by decide, all_exec fun l hl he => ⟨by revert l; decide, fun b => atomOk (by revert l b; decide)⟩⟩

/-! Copies, regions, tags -/

/-- v10: a local address; v12: how many bytes, 0 in lane 0. -/
def tCopy : Strand := tPut (tPut tSt 10 fun l => 64 * l) 12 fun l => 16 * (l / 2)
def fCopy : Form := f1 10 8 12 0 2 0

theorem met_Copies :
    Issues (.cpa fCopy) fCopy (tState (tCore tCopy)) (tCore tCopy) tCopy tU ∧ execMask fCopy tCopy tU ≠ 0 ∧ outCount tCopy (.tag 2) < 255 ∧
      ((tCore tCopy).cpas.filter fun q => q.sid = tCopy.sid).length < 8 ∧
      (∀ l, executes fCopy tCopy tU l = true → (rd32 tCopy 10 false l).p = false ∧ (opA fCopy tCopy l 2).p = false ∧
        (opB fCopy tCopy l 1).p = false ∧ (opB fCopy tCopy l 1).v.toNat ≤ 32 ∧ (rd32 tCopy 10 false l).v.toNat % 32 = 0 ∧
        LocalOk (tState (tCore tCopy)) (tCore tCopy) (rd32 tCopy 10 false l).v.toNat 32 true ∧
        (0 < (opB fCopy tCopy l 1).v.toNat → ptrForm (opA fCopy tCopy l 2).v = true ∧
          ptrVa (opA fCopy tCopy l 2).v % 64 + (opB fCopy tCopy l 1).v.toNat ≤ 64 ∧
          xlate (tState (tCore tCopy)) 0 (ctxNumOf (tState (tCore tCopy)) (tCore tCopy)) (ptrVa (opA fCopy tCopy l 2).v) = .hit progPte ∧
          progPte.priv = false ∧ tagFails (tState (tCore tCopy)) (tCore tCopy) progPte (opA fCopy tCopy l 2).v
            (paOf progPte (ptrVa (opA fCopy tCopy l 2).v)) (opB fCopy tCopy l 1).v.toNat false true = none)) ∧
      (opB fCopy tCopy 0 1).v.toNat = 0 ∧ (opB fCopy tCopy 2 1).v.toNat = 16 :=
  ⟨issues_of (issuer_tState rfl) (by decide), by decide, by decide, by decide,
    all_exec fun l hl he => ⟨by revert l; decide, by revert l; decide, by revert l; decide, by revert l; decide, by revert l; decide,
      by unfold LocalOk; revert l; decide, by revert l; decide⟩, by decide, by decide⟩

/-- A block that describes a region of 2 chunks from 0x10000 (R330), and one whose bytes are copied out when written. -/
def tBlk : List Byte := (List.range 128).map fun i =>
  if i = 2 then 2 else if i = 9 then 2 else if i = 16 then 16 else if i = 20 then 2 else if i = 24 then 1 else if i = 14 then 0xA else 0
def nvPte : Pte := { progPte with cache := 2 }
def tBlock : State := { tState (tCore tSt) with tlbs := [{ die := 0, ctx := 0, base := progBase, e := nvPte }], mem := writeBytes [] 0x10100 tBlk }
def fSet : Form := f1 0 8 0 0 0 3
def fClr : Form := f1 0 0 0 0 0 3

/-- The region that the block gives, in a state; a core that has it as entry 3. -/
def tRegion (q : RState) (wr : Bool) (bm : BitVec 512) : Region :=
  let z : Region := Region.mk 0 0 0 0 false false false .absent 1 1 1 0 0 0 false false 0 0 false [] (0, 0, 0) []
  { (regionFrom 786432 tBlk 0 false).getD z with st := q, wr := wr, bitmap := bm }
def tHas (st : Strand) (g : Region) : Core := { tCore st with regions := [(3, g)] }
def fChk (dst : BitVec 8) : Form := f1 dst 0 12 0 0 (3 + 32)

set_option maxRecDepth 10000 in
theorem met_Regions_set :
    Issues (.rgnset fSet) fSet tBlock (tCore tSt) tSt tU ∧ execMask fSet tSt tU ≠ 0 ∧ AllDone (tCore tSt) ∧
      heldCount (tCore tSt) + 32 ≤ Config.heldMax ∧ (executing fSet tSt tU).head? = some 0 ∧ (opA fSet tSt 0 2).p = false ∧
      (opA fSet tSt 0 2).v.toNat % 128 = 0 ∧
      AccessOk (withStrand tBlock tU (skipped fSet tSt tU)) (tCore tSt) tU (opA fSet tSt 0 2).v 128 false nvPte ∧ nvPte.cache = 2 ∧
      lateRead tBlock nvPte = false ∧
      tagFails tBlock (tCore tSt) nvPte (opA fSet tSt 0 2).v 0x10100 128 false false = none ∧
      paOf nvPte (ptrVa (opA fSet tSt 0 2).v) = 0x10100 ∧
      (viewRead tBlock (tCore tSt) nvPte 0x10100 128 false).2 = false ∧ aget (tCore tSt).regions fSet.aux.toNat = none ∧
      ∃ g, regionFrom (scrOf tBlock (tCore tSt)) (viewRead tBlock (tCore tSt) nvPte 0x10100 128 false).1 tU.slot false = some g ∧
        windowMeets (tCore tSt) g = false :=
  ⟨issues_of rfl (by decide), by decide, by unfold AllDone; decide, by decide, by decide, by decide, by decide, accOk (by decide), rfl, rfl, by decide,
    by decide, by decide, rfl, _, rfl, by decide⟩

theorem met_Regions_clear :
    (∀ q ∈ [RState.absent, .filling, .present, .flushing], Issues (.rgnclr fClr) fClr (tState (tHas tSt (tRegion q true 0))) (tHas tSt (tRegion q true 0)) tSt tU ∧
      execMask fClr tSt tU ≠ 0 ∧ aget (tHas tSt (tRegion q true 0)).regions fClr.aux.toNat = some (tRegion q true 0)) ∧
    (Issues (.rgnclr fClr) fClr (tState (tCore tSt)) (tCore tSt) tSt tU ∧ aget (tCore tSt).regions fClr.aux.toNat = none) ∧
    (Issues (.rgnfl fClr) fClr (tState (tHas tSt (tRegion .present true 0))) (tHas tSt (tRegion .present true 0)) tSt tU ∧
      (tRegion .present true 0).wr = true ∧ (tRegion .present true 0).st = .present ∧ outCount tSt .cp < 63 ∧
      lockRoom (tHas tSt (tRegion .present true 0)) 2 = true) ∧
    (Issues (.rgnfl fClr) fClr (tState (tHas tSt (tRegion .present false 0))) (tHas tSt (tRegion .present false 0)) tSt tU ∧
      ∀ r, aget (tHas tSt (tRegion .present false 0)).regions fClr.aux.toNat = some r → r.wr = false) := by
  refine ⟨?_, ⟨issues_of (issuer_tState rfl) (by decide), by decide⟩,
    ⟨issues_of (issuer_tState rfl) (by decide), rfl, rfl, by decide, by decide⟩, issues_of (issuer_tState rfl) (by decide), ?_⟩
  · intro q hq
    simp only [List.mem_cons, List.not_mem_nil, or_false] at hq
    obtain rfl | rfl | rfl | rfl := hq <;> exact ⟨issues_of (issuer_tState rfl) (by decide), by decide, rfl⟩
  · rintro r h
    obtain rfl := Option.some.inj h
    rfl

/-- With no chunk present lane 2, which asks for chunk 33, parks; lane 0 asks for none. With all present both pass. -/
theorem met_Regions_check : ∀ bm ∈ [(0 : BitVec 512), BitVec.allOnes 512],
    Issues (.chkw (fChk 0)) (fChk 0) (tState (tHas tSt (tRegion .filling true bm))) (tHas tSt (tRegion .filling true bm)) tSt tU ∧
    Issues (.chkt (fChk 2)) (fChk 2) (tState (tHas tSt (tRegion .filling true bm))) (tHas tSt (tRegion .filling true bm)) tSt tU ∧
    (∀ l, executes (fChk 0) tSt tU l = true → (opB (fChk 0) tSt l 1).p = false) ∧ (opB (fChk 0) tSt 0 1).v = 0 ∧ (opB (fChk 0) tSt 2 1).v = 2 ∧
    (∀ l, executes (fChk 2) tSt tU l = true → (opB (fChk 2) tSt l 1).p = false) ∧
    (∀ r, aget (tHas tSt (tRegion .filling true bm)).regions ((fChk 0).aux.toNat % 32) = some r → r.st ≠ .absent) := by
  intro bm h
  simp only [List.mem_cons, List.not_mem_nil, or_false] at h
  obtain rfl | rfl := h <;>
    exact ⟨issues_of (issuer_tState rfl) (by decide), issues_of (issuer_tState rfl) (by decide), all_exec (by decide), by decide, by decide,
      all_exec (by decide), fun r h => by obtain rfl := Option.some.inj h; decide⟩

/-- The page is tagged; lanes 0 and 2 name one granule's two halves or two granules. -/
def tagPte : Pte := { progPte with tag := true }
def tTag (k : Nat) : Strand := tPut tSt 8 fun l => 0x10100 + k * l
def tTagged (st : Strand) : State :=
  { tState (tCore st) with tlbs := [{ die := 0, ctx := 0, base := progBase, e := tagPte }], tags := [(0x808, 3)], gpois := [(0x808, true)] }

theorem met_Tags : ∀ k ∈ [8, 16],
    Issues (.tset (f1 0 8 10 0 0 0)) (f1 0 8 10 0 0 0) (tTagged (tTag k)) (tCore (tTag k)) (tTag k) tU ∧ (tTagged (tTag k)).MemInv ∧ (∀ p ∈ (tTagged (tTag k)).cores, AllDone p.2) ∧
    (∀ l, executes (f1 0 8 10 0 0 0) (tTag k) tU l = true → (opA (f1 0 8 10 0 0 0) (tTag k) l 2).p = false ∧ (opB (f1 0 8 10 0 0 0) (tTag k) l 1).p = false ∧
      AccessOk (tTagged (tTag k)) (tCore (tTag k)) tU (tPtr (f1 0 8 10 0 0 0) (tTag k) l) 1 true tagPte ∧ tagPte.ro = false ∧ tagPte.tag = true ∧
      tagPte.rem = false ∧ isDev (32 * (paOf tagPte (ptrVa (tPtr (f1 0 8 10 0 0 0) (tTag k) l)) / 32)) = false ∧
      tagAwaited (tTagged (tTag k)) 0 tagPte (paOf tagPte (ptrVa (tPtr (f1 0 8 10 0 0 0) (tTag k) l)) / 32) = false) ∧
    Issues (.tget (f1 4 8 0 0 0 0)) (f1 4 8 0 0 0 0) (tTagged (tTag k)) (tCore (tTag k)) (tTag k) tU ∧
    (∀ l, executes (f1 4 8 0 0 0 0) (tTag k) tU l = true → (opA (f1 4 8 0 0 0 0) (tTag k) l 2).p = false ∧
      AccessOk (tTagged (tTag k)) (tCore (tTag k)) tU (tPtr (f1 4 8 0 0 0 0) (tTag k) l) 1 false tagPte) := by
  intro k hk
  simp only [List.mem_cons, List.not_mem_nil, or_false] at hk
  obtain rfl | rfl := hk <;>
    exact ⟨issues_of rfl (by decide), ⟨by decide, by decide, by decide⟩, by unfold AllDone; decide,
      all_exec fun l hl he => ⟨by revert l; decide, by revert l; decide, accOk (by revert l; decide), rfl, rfl, rfl, by revert l; decide, by revert l; decide⟩,
      issues_of rfl (by decide), all_exec fun l hl he => ⟨by revert l; decide, accOk (by revert l; decide)⟩⟩

/-- The page is a remote device's. -/
def farPte : Pte := { tagPte with rem := true, dev := 3 }
def tFar : State := { tState (tCore tSt) with tlbs := [{ die := 0, ctx := 0, base := progBase, e := farPte }] }
theorem met_Tags_remote :
    (∀ i ∈ [Instr.tset (f1 0 8 10 0 0 0), .tget (f1 4 8 0 0 0 0)], ∃ f, i.form = some f ∧ Issues i f tFar (tCore tSt) tSt tU ∧ execMask f tSt tU ≠ 0 ∧
      ∀ l, executes f tSt tU l = true → (opA f tSt l 2).p = false ∧ (opB f tSt l 1).p = false ∧
        (∀ w, AccessOk tFar (tCore tSt) tU (tPtr f tSt l) 1 w farPte) ∧
        (lineOf (tCore tSt) (lineKey farPte (32 * (paOf farPte (ptrVa (tPtr f tSt l)) / 32)))).read.isNone = true) ∧
    farPte.ro = false ∧ farPte.tag = true ∧ farPte.rem = true := by
  refine ⟨fun i hi => ?_, rfl, rfl, rfl⟩
  simp only [List.mem_cons, List.not_mem_nil, or_false] at hi
  obtain rfl | rfl := hi <;>
    exact ⟨_, rfl, issues_of rfl (by decide), by decide, all_exec fun l hl he => ⟨by revert l; decide, by revert l; decide,
      fun w => accOk (by revert l w; decide), by revert l; decide⟩⟩

/-! ### Waits on words, tiles, engines -/

/-- A word of memory that equals v10 in lane 0, and not in lane 2. -/
def tWord : State := { tState (tCore tSt) with mem := writeBytes [] 0x10110 [7, 0, 0, 0, 0, 0, 0, 0] }
def fWaitw (ty c : Nat) : Form := f1 0 8 10 0 (BitVec.ofNat 11 (ty + 16 * c)) 16

theorem met_WaitsOnWords : AllDone (tCore tSt) ∧ ∀ ty, ty < 4 → ∀ c, c < 7 →
    Issues (.waitw (fWaitw ty c)) (fWaitw ty c) tWord (tCore tSt) tSt tU ∧
    let n := if (fWaitw ty c).ty.toNat < 2 then 4 else 8
    ∀ l, executes (fWaitw ty c) tSt tU l = true → (opA (fWaitw ty c) tSt l 2).p = false ∧ (opB (fWaitw ty c) tSt l (n / 4)).p = false ∧
      LoadOk tWord (tCore tSt) tU (tPtr (fWaitw ty c) tSt l) n false progPte ∧ lateRead tWord progPte = false ∧
      (viewRead tWord (tCore tSt) progPte (paOf progPte (ptrVa (tPtr (fWaitw ty c) tSt l))) n false).2 = false := by
  refine ⟨by unfold AllDone; decide, fun ty h1 c h2 => ⟨issues_of rfl (by revert ty c; decide), ?_⟩⟩
  refine all_exec fun l hl he => ⟨by revert ty c l; decide, by revert ty c l; decide, loadOk (by revert ty c l; decide), rfl, by revert ty c l; decide⟩

/-- Widths, rows and columns of tiles: 1 is 3 by 20 bytes; 2, 3, 4 fit MMA; 5, 6, 7 fit MTRN; 5, 8, 7 fit MMAS. -/
def tcv (ew rows cols : Nat) : Word := BitVec.ofNat 32 (ew + 16 * (rows - 1) + 1024 * (cols - 1))
def tTiles (st : Strand) : Core :=
  { tCore st with tc := [(1, tcv 3 3 20), (2, tcv 4 2 4), (3, tcv 4 2 3), (4, tcv 4 3 4), (5, tcv 5 2 4), (6, tcv 1 2 3), (7, tcv 3 3 4), (8, tcv 3 2 3)] }

/-- v10: how far the rows are apart. -/
def tRows (n : Nat) : Strand := tPut tSt 10 fun _ => n
def fTld : Form := f1 1 8 10 0 0 8
def fTst : Form := f1 0 8 10 1 0 8

/-- What TLD and TST ask of each byte of the tile's rows, on progPte's page. -/
def rowsB (st : Strand) : Bool :=
  let s := tState (tTiles st)
  let a := ptrAdd (opA fTld st 0 2).v fTld.aux.toInt
  let stride : Int := ((opB fTld st 0 1).v.setWidth 32 : Word).toInt
  (List.range 3).all fun i => (List.range 20).all fun k =>
    let p := ptrAdd (ptrAdd a ((i : Int) * stride)) k
    decide (xlate s 0 (ctxNumOf s (tTiles st)) (ptrVa p) = .hit progPte) &&
      (tagFails s (tTiles st) progPte p (paOf progPte (ptrVa p)) 1 false true).isNone

set_option maxRecDepth 10000 in
theorem met_TileAccesses_global : ∀ n ∈ [24, 4, 0xFFFFFFE8],
    Issues (.tld fTld) fTld (tState (tTiles (tRows n))) (tTiles (tRows n)) (tRows n) tU ∧
    Issues (.tst fTst) fTst (tState (tTiles (tRows n))) (tTiles (tRows n)) (tRows n) tU ∧ execMask fTld (tRows n) tU ≠ 0 ∧
    outCount (tRows n) .tl < 63 ∧ lockRoom (tTiles (tRows n)) 2 = true ∧ tcW (tcOf (tTiles (tRows n)) 1) = 8 ∧ tcRows (tcOf (tTiles (tRows n)) 1) = 3 ∧
    tcCols (tcOf (tTiles (tRows n)) 1) = 20 ∧ (executing fTld (tRows n) tU).head? = some 0 ∧ (opA fTld (tRows n) 0 2).p = false ∧
    (opB fTld (tRows n) 0 1).p = false ∧ ptrForm (tPtr fTld (tRows n) 0) = true ∧ (tPtr fTld (tRows n) 0).toNat % 4 = 0 ∧
    (opB fTld (tRows n) 0 1).v.toNat % 4 = 0 ∧ rowsB (tRows n) = true ∧ progPte.priv = false ∧ progPte.ro = false ∧ progPte.nv = false ∧
    progPte.rem = false ∧ progPte.cache ≠ 2 := by
  intro n h
  simp only [List.mem_cons, List.not_mem_nil, or_false] at h
  obtain rfl | rfl | rfl := h <;>
    exact ⟨issues_of (issuer_tState rfl) (by decide), issues_of (issuer_tState rfl) (by decide), by decide, by decide, by decide, by decide,
      by decide, by decide, by decide, by decide, by decide, by decide, by decide, by decide, by decide, by decide⟩

/-- The tile's rows lie in the local array. -/
def rowsL (st : Strand) (a : Nat) : Bool :=
  (List.range 3).all fun i =>
    let r := (BitVec.ofInt 32 ((a : Int) + (i : Int) * ((opB fTld st 0 1).v.setWidth 32 : Word).toInt)).toNat
    decide (r + 20 ≤ scrOf (tState (tTiles st)) (tTiles st)) && decide (r + 20 ≤ 0xC0000)

theorem met_TileAccesses_local : ∀ n ∈ [24, 4, 0xFFFFFFE8],
    let f : Form := { fTld with md := 1 }
    let g : Form := { fTst with md := 1 }
    let a := (BitVec.ofInt 32 (((opA f (tRows n) 0 1).v.toNat : Int) + f.aux.toInt)).toNat
    Issues (.tld f) f (tState (tTiles (tRows n))) (tTiles (tRows n)) (tRows n) tU ∧
    Issues (.tst g) g (tState (tTiles (tRows n))) (tTiles (tRows n)) (tRows n) tU ∧ a % 4 = 0 ∧
    rowsL (tRows n) a = true ∧
    (∀ r ∈ (tTiles (tRows n)).regions, r.2.st ≠ .absent) := by
  intro n h
  simp only [List.mem_cons, List.not_mem_nil, or_false] at h
  obtain rfl | rfl | rfl := h <;>
    exact ⟨issues_of (issuer_tState rfl) (by decide), issues_of (issuer_tState rfl) (by decide), by decide, by decide, by decide⟩

def tX : Core := tTiles tSt
def fMmas : Form := f1 5 8 10 0 2 (8 + 16 * 7 + 0x300)

/-- Jobs whose shapes fit. -/
theorem met_TileJobs :
    outCount tSt .tl < 63 ∧ lockRoom tX 1 = true ∧
    (∀ i ∈ [Instr.tzero (f0 1 0 0), .tmov (f1 1 8 0 0 1 3), .tmov (f1 8 1 0 0 0 3), .tmov { f1 8 1 0 0 0 3 with dk := true }, .mma (f1 2 3 4 0 8 0),
        .mmas fMmas, .mtrn (f0 5 6 7)], ∃ f, i.form = some f ∧ Issues i f (tState tX) tX tSt tU ∧ execMask f tSt tU ≠ 0) ∧
    tcW (tcOf tX 1) ≠ 0 ∧ MatrixShapes tX 2 3 4 (mmaFmtD 8).bits (mmaFmtA 8).bits (mmaFmtB 8).bits ∧
    MatrixShapes tX 5 8 7 (mmaFmtD 2).bits (mmaFmtA 2).bits (mmaFmtB 2).bits ∧ (tcCols (tcOf tX 8) + 15) / 16 = 1 ∧
    8 + 1 ≤ 8 * curGran tSt ∧ 10 + 1 ≤ 8 * curGran tSt ∧ MatrixShapes tX 5 6 7 32 2 8 := by
  refine ⟨by decide, by decide, ?_, by decide, by unfold MatrixShapes; decide, by unfold MatrixShapes; decide, by decide, by decide, by decide,
    by unfold MatrixShapes; decide⟩
  intro i hi
  simp only [List.mem_cons, List.not_mem_nil, or_false] at hi
  obtain rfl | rfl | rfl | rfl | rfl | rfl | rfl := hi <;> exact ⟨_, rfl, issues_of (issuer_tState rfl) (by decide), by decide⟩

/-- Jobs whose shapes do not: no shape, a source that is the destination, rows that differ, scales beyond the frame. -/
theorem met_TileJobs_illegal :
    (∀ i ∈ [Instr.tzero (f0 9 0 0), .tmov (f1 9 8 0 0 1 3), .mma (f1 2 3 2 0 8 0),
        .mmas (f1 5 8 10 0 2 (6 + 16 * 7)), .mtrn (f0 5 6 4)], ∃ f, i.form = some f ∧ Issues i f (tState tX) tX tSt tU ∧ execMask f tSt tU ≠ 0) ∧
    tcW (tcOf tX 9) = 0 ∧ ¬ MatrixShapes tX 2 3 2 (mmaFmtD 8).bits (mmaFmtA 8).bits (mmaFmtB 8).bits ∧
    ¬ MatrixShapes tX 5 6 7 (mmaFmtD 2).bits (mmaFmtA 2).bits (mmaFmtB 2).bits ∧ ¬ MatrixShapes tX 5 6 4 32 2 8 ∧
    8 + (tcCols (tcOf tX 6) + 15) / 16 ≤ 8 * curGran tSt ∧ 10 + (tcCols (tcOf tX 6) + 15) / 16 ≤ 8 * curGran tSt := by
  refine ⟨?_, by decide, by unfold MatrixShapes; decide, by unfold MatrixShapes; decide, by unfold MatrixShapes; decide, by decide, by decide⟩
  intro i hi
  simp only [List.mem_cons, List.not_mem_nil, or_false] at hi
  obtain rfl | rfl | rfl | rfl | rfl := hi <;> exact ⟨_, rfl, issues_of (issuer_tState rfl) (by decide), by decide⟩

/-- Two registers of scales of which the frame has only the first. -/
theorem met_TileJobs_frame :
    let f := f1 5 255 10 0 2 (1 + 16 * 7 + 0x300)
    IssuesFree (.mmas f) f (tState tX) tX tSt tU ∧ tcW (tcOf tX 1) ≠ 0 ∧ ¬ 255 + (tcCols (tcOf tX 1) + 15) / 16 ≤ 8 * curGran tSt :=
  ⟨(issues_of (issuer_tState rfl) (by decide)).toIssuesFree, by decide, by decide⟩

theorem met_TernaryProducts : ∀ md ∈ ([0, 1, 0x3F] : List (BitVec 11)), md.getLsbD 6 = false := by decide

/-! Forests -/

/-- Descriptors of a forest of 8 elements at 0x10000: without a log, and with one (R156, R345). -/
def kfw : List Word := [1, 1, 7, 0]
def kfl : List Word := [1, 1, 7, 0x31]
def tForest (kf : List Word) : Strand :=
  let st := tPut (tPut (tPut tSt 8 fun l => 1 + l) 9 fun _ => 0) 10 fun l => 4 + l
  { st with k := kf.zipIdx.foldl (fun m p => sset RVal.zero m (4 + p.2) { v := p.1, p := false }) [] }
def fFor (dst sa sb : BitVec 8) : Form := f1 dst sa sb 0 0 4
def fKf (st : Strand) : List Word := (List.range 4).map fun i => (readK st (4 + i)).v

def homeB (s : State) (x : Core) (p : DWord) (n : Nat) : Bool :=
  decide (xlate s 0 (ctxNumOf s x) (ptrVa p) = .hit progPte) && !locked x 2 (ptrVa p) n false &&
    (tagFails s x progPte p (paOf progPte (ptrVa p)) n true false).isNone

theorem homeOk {s : State} {x : Core} {p : DWord} {n : Nat} {wr : Bool} (h : homeB s x p n = true) : HomeOk s x tU p n wr progPte := by
  simp only [homeB, Bool.and_eq_true, decide_eq_true_eq, Bool.not_eq_true', Option.isNone_iff_eq_none] at h
  exact ⟨h.1.1, rfl, fun _ => rfl, fun _ => h.1.2, h.2⟩

def tPar (st : Strand) (i : DWord) : DWord := fPtr (fKf st) (fParent (fKf st) + 4 * i.toNat)

theorem met_EngineIssues_elements : ∀ kf ∈ [kfw, kfl],
    let st := tForest kf
    let s := tState (tCore st)
    (∀ i ∈ [Instr.unite (fFor 2 8 10), .find (fFor 2 8 0), .dsize (fFor 2 8 0), .dinit (fFor 0 8 10)],
      ∃ f, i.form = some f ∧ Issues i f s (tCore st) st tU ∧ execMask f st tU ≠ 0) ∧ outCount st .ld < 63 ∧
    (∀ i, i < 4 → (readK st (4 + i)).p = false) ∧ fKf st = kf ∧ forestBad kf false = false ∧
    (∀ l, executes (fFor 2 8 10) st tU l = true →
      ((opA (fFor 2 8 10) st l 1).p = false ∧ (opA (fFor 2 8 10) st l 1).v.toNat < fCount kf) ∧
      ((opB (fFor 2 8 10) st l 1).p = false ∧ (opB (fFor 2 8 10) st l 1).v.toNat < fCount kf) ∧
      (∀ wr, HomeOk s (tCore st) tU (tPar st (opA (fFor 2 8 10) st l 1).v) 4 wr progPte) ∧
      HomeOk s (tCore st) tU (tPar st (opB (fFor 2 8 10) st l 1).v) 4 true progPte) ∧
    (opA (fFor 0 8 10) st 0 1).v.toNat + (opB (fFor 0 8 10) st 0 1).v.toNat ≤ fCount kf := by
  intro kf h
  simp only [List.mem_cons, List.not_mem_nil, or_false] at h
  obtain rfl | rfl := h <;>
    (refine ⟨fun i hi => ?_, by decide, by decide, by decide, by decide, all_exec fun l hl he => ?_, by decide⟩
     · simp only [List.mem_cons, List.not_mem_nil, or_false] at hi
       obtain rfl | rfl | rfl | rfl := hi <;> exact ⟨_, rfl, issues_of (issuer_tState rfl) (by decide), by decide⟩
     · exact ⟨by revert l; decide, by revert l; decide, fun _ => homeOk (by revert l; decide), homeOk (by revert l; decide)⟩)

theorem met_EngineIssues_log :
    let st := tForest kfl
    let s := tState (tCore st)
    Issues (.dsnap (fFor 4 0 0)) (fFor 4 0 0) s (tCore st) st tU ∧ Issues (.dundo (fFor 0 8 0)) (fFor 0 8 0) s (tCore st) st tU ∧
    forestBad kfl true = false ∧ (opA (fFor 0 8 0) st 0 2).p = false ∧ ∀ wr, HomeOk s (tCore st) tU (fPtr kfl (fLog kfl)) 8 wr progPte :=
  ⟨issues_of (issuer_tState rfl) (by decide), issues_of (issuer_tState rfl) (by decide), by decide, by decide, fun _ => homeOk (by decide)⟩

/-- RELABEL: source, result and table on the page. -/
def tRelab : Strand := tPut (tPut (tPut (tForest kfw) 8 fun _ => 0x10100) 10 fun _ => 0x10200) 12 fun _ => 0x10404
def fRelab (op : Nat) (tab : Bool) : Form :=
  f1 0 (if op = 3 then 0 else 8) 10 (if tab then 12 else 0) 0 (BitVec.ofNat 32 (4 + 64 * op + if tab then 256 else 0))

theorem met_EngineIssues_relabel : ∀ op, op < 4 → ∀ tab : Bool,
    let f := fRelab op tab
    let s := tState (tCore tRelab)
    Issues (.relabel f) f s (tCore tRelab) tRelab tU ∧ execMask f tRelab tU ≠ 0 ∧ outCount tRelab .cp < 63 ∧ lockRoom (tCore tRelab) 3 = true ∧
    forestBad (fKf tRelab) false = false ∧
    (f.relabelOp.toNat ≠ 3 → (opA f tRelab 0 2).p = false ∧ ptrForm (opA f tRelab 0 2).v = true ∧ (opA f tRelab 0 2).v.toNat % 4 = 0 ∧
      xlate s 0 (ctxNumOf s (tCore tRelab)) (ptrVa (opA f tRelab 0 2).v) = .hit progPte ∧
      tagFails s (tCore tRelab) progPte (opA f tRelab 0 2).v (paOf progPte (ptrVa (opA f tRelab 0 2).v)) 4 false true = none) ∧
    ((opB f tRelab 0 2).p = false ∧ ptrForm (opB f tRelab 0 2).v = true ∧ (opB f tRelab 0 2).v.toNat % 64 = 0 ∧
      HomeOk s (tCore tRelab) tU (opB f tRelab 0 2).v 4 true progPte) ∧
    (f.aux.getLsbD 8 = true → (opC f tRelab 0 2).p = false ∧ ptrForm (opC f tRelab 0 2).v = true ∧ (opC f tRelab 0 2).v.toNat % 4 = 0 ∧
      HomeOk s (tCore tRelab) tU (opC f tRelab 0 2).v 4 true progPte) := by
  intro op h tab
  exact ⟨issues_of (issuer_tState rfl) (by revert op tab; decide), by revert op tab; decide, by decide, by decide, by decide,
    by revert op tab; decide, ⟨by revert op tab; decide, by revert op tab; decide, by revert op tab; decide, homeOk (by revert op tab; decide)⟩,
    fun h8 => ⟨by revert op tab; decide, by revert op tab; decide, by revert op tab; decide, homeOk (by revert op tab; decide)⟩⟩

/-! Sets, draws, trials -/

def tKs (st : Strand) (ks : List Word) : Strand :=
  { st with k := ks.zipIdx.foldl (fun m p => sset RVal.zero m (4 + p.2) { v := p.1, p := false }) [] }

/-- Both lanes insert 5; the lanes insert 5 and 6. A set of 64 entries at 0x10400 of memory, or at 64 of the local array. -/
def tSetD : Strand := tKs (tPut (tPut tSt 8 fun _ => 5) 9 fun _ => 0) [0x10400, 0, 6]
def tSetL : Strand := tKs (tPut (tPut tSt 8 fun l => 5 + l / 2) 9 fun _ => 0) [BitVec.ofNat 32 (64 + 6 * 2 ^ 20)]
def fIns (md : BitVec 11) : Form := f1 2 8 0 0 md 4
def fSclr (md : BitVec 11) : Form := f1 0 0 0 0 md 4

theorem met_SetsAndDraws_device :
    (∀ md ∈ ([0x180, 0x181] : List (BitVec 11)),
      Issues (.sigins (fIns md)) (fIns md) (tState (tCore tSetD)) (tCore tSetD) tSetD tU ∧ execMask (fIns md) tSetD tU ≠ 0 ∧ (fIns md).scope = 3 ∧
      ∀ l, executes (fIns md) tSetD tU l = true → (opA (fIns md) tSetD l 2).p = false ∧ ∀ o ∈ sigOffs (opA (fIns md) tSetD l 2).v 6,
        HomeOk (tState (tCore tSetD)) (tCore tSetD) tU (ptrAdd 0x10400 o.1) o.2 true progPte) ∧
    Issues (.sigclr (fSclr 0x180)) (fSclr 0x180) (tState (tCore tSetD)) (tCore tSetD) tSetD tU ∧ outCount tSetD .ld < 63 ∧
    (∀ i, i < 3 → (readK tSetD (4 + i)).p = false) ∧ (readK tSetD 6).v.toNat = 6 ∧
    ((readK tSetD 5).v ++ (readK tSetD 4).v : DWord) = 0x10400 ∧ ptrForm 0x10400 = true ∧ (tState (tCore tSetD)).MemInv ∧
    AllDone (tCore tSetD) ∧ (tCore tSetD).sq = [] ∧ (tCore tSetD).held = [] ∧
    ∀ i, i ≤ 2 ^ (6 - 3) → HomeOk (tState (tCore tSetD)) (tCore tSetD) tU (ptrAdd 0x10400 (if i = 0 then 0 else 64 * i : Nat)) (if i = 0 then 8 else 64)
      true progPte ∧ progPte.rem = false ∧ isDev (paOf progPte (ptrVa (ptrAdd 0x10400 (if i = 0 then 0 else 64 * i : Nat)))) = false := by
  refine ⟨fun md hm => ?_, issues_of (issuer_tState rfl) (by decide), by decide, by decide, by decide, by decide, by decide,
    ⟨by decide, by decide, by decide⟩, by unfold AllDone; decide, rfl, rfl, fun i hi => ⟨homeOk ?_, rfl, ?_⟩⟩
  · simp only [List.mem_cons, List.not_mem_nil, or_false] at hm
    obtain rfl | rfl := hm <;>
      exact ⟨issues_of (issuer_tState rfl) (by decide), by decide, by decide, all_exec fun l hl he => ⟨by revert l; decide,
        fun o ho => homeOk (by revert o; revert l; decide)⟩⟩
  · have h9 : i < 9 := by omega
    clear hi; revert i; decide
  · have h9 : i < 9 := by omega
    clear hi; revert i; decide

theorem met_SetsAndDraws_local :
    (∀ md ∈ ([0, 1] : List (BitVec 11)),
      Issues (.sigins (fIns md)) (fIns md) (tState (tCore tSetL)) (tCore tSetL) tSetL tU ∧ execMask (fIns md) tSetL tU ≠ 0 ∧ (fIns md).scope ≠ 3 ∧
      ∀ l, executes (fIns md) tSetL tU l = true → (opA (fIns md) tSetL l 2).p = false ∧
        ∀ o ∈ sigOffs (opA (fIns md) tSetL l 2).v 6, localLock (tCore tSetL) (64 + o.1) o.2 true = .free) ∧
    Issues (.sigclr (fSclr 0)) (fSclr 0) (tState (tCore tSetL)) (tCore tSetL) tSetL tU ∧ (tCore tSetL).wf = true ∧ outCount tSetL .ld < 63 ∧
    (readK tSetL 4).p = false ∧ (readK tSetL 4).v.toNat = 64 + 6 * 2 ^ 20 ∧ 64 + 64 + 8 * 2 ^ 6 ≤ scrOf (tState (tCore tSetL)) (tCore tSetL) ∧
    localLock (tCore tSetL) 64 (64 + 8 * 2 ^ 6) true = .free ∧
    Issues (.rng (tf 1 0 false 4 8 10 0 false true false false 0 0 0 0)) (tf 1 0 false 4 8 10 0 false true false false 0 0 0 0)
      (tState (tCore tSetL)) (tCore tSetL) tSetL tU := by
  refine ⟨fun md hm => ?_, issues_of (issuer_tState rfl) (by decide), by decide, by decide, by decide, by decide, by decide, by decide,
    issues_of (issuer_tState rfl) (by decide)⟩
  simp only [List.mem_cons, List.not_mem_nil, or_false] at hm
  obtain rfl | rfl := hm <;>
    exact ⟨issues_of (issuer_tState rfl) (by decide), by decide, by decide, all_exec fun l hl he => ⟨by revert l; decide,
      fun o ho => by revert o; revert l; decide⟩⟩

/-- 3 examples of 8 words from 0x100, fuel 9, from slot 2, with a seed. -/
def tTrial : Strand := tKs tSt [BitVec.ofNat 32 (9 + 3 * 65536), BitVec.ofNat 32 (0x100 + 7 * 2 ^ 20 + 2 * 2 ^ 26), 0x1111, 0x2222]
def fTrial : Form := f1 4 0 0 0 0 4
/-- Two lanes of a trial have passed all examples. -/
def tDone : Trial :=
  Trial.mk 0 4 false 3 9 2 8 256 1 [(0, 5, 0), (2, 9, 1)] [{ lane := 0, next := 3, sig := 0x500000007, fuel := 4 }, { lane := 2, next := 3, sig := 0x600000008, fuel := 5 }] 0 []
def tInTrial (dk : Bool) : Strand := { tTrial with st := .inTrial, trial := some { tDone with dk := dk } }

theorem met_Trials :
    (Issues (.trial fTrial) fTrial (tState (tCore tTrial)) (tCore tTrial) tTrial tU ∧ execMask fTrial tTrial tU ≠ 0 ∧ tTrial.handler = none ∧
      4 ≤ curGran tTrial ∧ (∀ i, i < 4 → (readK tTrial (4 + i)).p = false) ∧ (readK tTrial 4).v.toNat = 9 + 3 * 2 ^ 16 ∧
      (readK tTrial 5).v.toNat = 0x100 + 7 * 2 ^ 20 + 2 * 2 ^ 26 ∧ 0x100 + 4 * 8 * 3 ≤ scrOf (tState (tCore tTrial)) (tCore tTrial) ∧
      localLock (tCore tTrial) 0x100 (4 * 8 * 3) false = .free ∧ bankBusy (tCore tTrial) 0 = false ∧ lockRoom (tCore tTrial) 1 = true) ∧
    (∀ i ∈ [Instr.tret (f0 0 0 0), .xld (f0 4 8 0)], issuer (tState (tCore tSt)) = some (tCore tSt, tSt, tU) ∧ i.wf = true) ∧
    (∀ dk, (tState (tCore (tInTrial dk))).power = .run ∧ getCore (tState (tCore (tInTrial dk))) 0 = some (tCore (tInTrial dk)) ∧
      getStrand (tState (tCore (tInTrial dk))) 0 0 = some (tInTrial dk) ∧ (tInTrial dk).wf = true ∧ (tInTrial dk).st = .inTrial ∧
      (tInTrial dk).trial = some { tDone with dk := dk } ∧
      (∀ l ∈ tDone.lanes, l.lane < 32 ∧ l.next = tDone.nex) ∧ (tDone.lanes.map fun l => l.lane).Nodup ∧ (tInTrial dk).handler = none ∧
      tDone.dst + 2 ≤ 64) :=
  ⟨⟨issues_of (issuer_tState rfl) (by decide), by decide, rfl, by decide, by decide, by decide, by decide, by decide, by decide, by decide, by decide⟩,
    fun i hi => ⟨issuer_tState rfl, by revert i; decide⟩, fun dk => ⟨rfl, rfl, rfl, by revert dk; decide, rfl, rfl, by decide, by decide, rfl, by decide⟩⟩

/-- A lane before its last example: `xld c2, c0; tret c2` in slot 1 of bank 0; the record's words are 5, 0, 0, 0, 0, 0x77, 0, 0. -/
def tLast : Trial := Trial.mk 0 4 false 3 9 1 8 256 1 [(0, 5, 0)] [{ lane := 0, next := 2, sig := 0x500000007, fuel := 0 }] 0 []
def tCandS : Strand := { tTrial with st := .inTrial, trial := some tLast }
def tCandC : Core :=
  { tCore tCandS with loc := [(320, 5), (340, 0x77), (0xC0100, 0xF8), (0xC0101, 0x12), (0xC0103, 0xE0), (0xC0104, 0xF8), (0xC0105, 1), (0xC0106, 4), (0xC0107, 0xE0)] }
theorem met_Trials_candidate :
    (tState tCandC).power = .run ∧ getCore (tState tCandC) 0 = some tCandC ∧ getStrand (tState tCandC) 0 0 = some tCandS ∧ tCandS.wf = true ∧
    tCandS.trial = some tLast ∧ tLast.bad = [] ∧ tLast.dk = false ∧ (∀ i, i < 8 → (localWord tCandC (256 + 4 * 8 * 2 + 4 * i)).p = false) ∧
    localWord tCandC 0xC0100 = ⟨BitVec.ofNat 32 (0xE00002F8 + 0x800 * 2 + 0x20000 * 0), false⟩ ∧
    localWord tCandC 0xC0104 = ⟨BitVec.ofNat 32 (0xE00001F8 + 0x20000 * 2), false⟩ ∧ (localWord tCandC 320).v.toNat < 8 :=
  ⟨rfl, rfl, rfl, by decide, rfl, rfl, rfl, by decide, by decide, by decide, by decide⟩
/-- With index 8 the same candidate ends with outcome 4. -/
theorem met_Trials_beyond : (localWord { tCandC with loc := sset 0 tCandC.loc 320 8 } 320).v.toNat = 8 := by decide

/-! ### Happenings -/

theorem runs {x : Core} (h : x.wf = true) : Runs (tState x) 0 x := ⟨rfl, rfl, h⟩

def tLane (l : Nat) (vals : List RVal) (done : Bool) (pa : Nat) : OLane :=
  { lane := l, ptr := 0, pa := pa, e := progPte, b := wz, c := wz, data := [], done := done, vals := vals, landed := 0 }
def tOp (k : OpK) (lanes : List OLane) (d : Dest) : Op :=
  { id := 50, slot := 0, sid := 0, pc := 0, w0 := 0, k := k, dest := d, seq := 0, dur := false, wait := none, at_ := (0, 0), refused := [], lanes := lanes }
def tOpV : Op := tOp .value [tLane 0 [⟨7, false⟩, ⟨0, true⟩] true 0, tLane 2 [⟨5, false⟩, ⟨6, false⟩] true 0] (.v (curFid tSt) 5 2)
def tOpL : Op := tOp (.load false 6) [tLane 0 [] false 0x10100, tLane 3 [] false 0x10120] (.v (curFid tSt) 5 4)
def tHasOp (o : Op) : Core := { tCore { tSt with out := [{ cls := .ld, id := 50, done := false }] } with ops := [o] }

theorem met_Landings_ops : ∀ o ∈ [tOpV, tOpL], Runs (tState (tHasOp o)) 0 (tHasOp o) ∧
    ∃ st, aget (tHasOp o).strands 0 = some st ∧ st.hold = none ∧ (tHasOp o).ops.find? (fun p => decide (p.id = o.id)) = some o ∧ o.slot = 0 ∧
      o.sid = st.sid ∧ o.wait = none ∧ o.dur = false ∧ (∀ p ∈ (tHasOp o).ops, p.id < o.id → ∀ l ∈ p.lanes, l.done = true) ∧
      (∀ l ∈ o.lanes, l.lane < 32 ∧ l.landed = 0) ∧ (o.lanes.map fun l => l.lane).Nodup ∧ st.out = [{ cls := .ld, id := o.id, done := false }] ∧
      ((o.dest = .v (curFid st) 5 2 ∧ o.k = .value ∧ (∀ l ∈ o.lanes, l.done = true ∧ l.vals.length = 2) ∧ remoteDue (tState (tHasOp o)) o.id = false) ∨
        o.dest = .v (curFid st) 5 (tyWords 6) ∧ tyWords 6 ≤ 4 ∧ o.k = .load false 6 ∧ (∀ l ∈ o.lanes, l.done = false) ∧
          ∀ w ∈ (tState (tHasOp o)).remote, ∀ q, w.op = some q → q.1 = o.id → w.ask = true ∧ q.2 ∈ o.lanes.map fun l => l.lane) := by
  intro o h
  simp only [List.mem_cons, List.not_mem_nil, or_false] at h
  obtain rfl | rfl := h
  · exact ⟨runs (by decide), _, rfl, rfl, rfl, rfl, rfl, rfl, rfl, by decide, by decide, by decide, rfl, .inl ⟨rfl, rfl, by decide, by decide⟩⟩
  · exact ⟨runs (by decide), _, rfl, rfl, rfl, rfl, rfl, rfl, rfl, by decide, by decide, by decide, rfl,
      .inr ⟨rfl, by decide, rfl, by decide, fun w hw => absurd hw List.not_mem_nil⟩⟩

/-- A tile job of number 60, alone. -/
def tHasJob (k : JobK) : Core :=
  { tCore tSt with
    tiles := [(4096, ⟨5, true⟩)], loc := [(0x1000, 9)],
    jobs := [{ id := 60, slot := 0, sid := 0, pc := 0, ents := [tileEnt [1, 2] [3]], k := k, sent := false, raced := false, wait := none, at_ := (0, 0), refused := [] }] }
def tRun : List (Nat × Nat) := [(0x1000, 6), (0x1020, 6), (0x1006, 6)]

theorem met_Landings_jobs :
    (∀ k ∈ [JobK.tzero 1, .tldL 1 (tcv 3 3 6) tRun, .tstL 1 (tcv 3 3 6) tRun, .mtrn 3 1 2 (tcv 5 5 3) (tcv 1 5 20) (tcv 3 20 3) 0 [0, 1, 2, 3],
        .mma 3 1 2 (tcv 5 5 3) (tcv 4 5 20) (tcv 4 20 3) 1 [0, 1, 2, 3]],
      Runs (tState (tHasJob k)) 0 (tHasJob k) ∧ jobPending (tHasJob k) 60 = false ∧ remoteDue (tState (tHasJob k)) 60 = false ∧
        ∃ j, (tHasJob k).jobs.find? (fun i => decide (i.id = 60) && isTileJob i.k) = some j ∧ j.id = 60 ∧ j.k = k ∧ j.sent = false) ∧
    (∀ r ∈ tRun, r.2 = tcCols (tcv 3 3 6) * tcW (tcv 3 3 6) / 8) ∧ tRun.length * (tcCols (tcv 3 3 6) * tcW (tcv 3 3 6) / 8) ≤ 16384 ∧
    tRun.Pairwise (fun p q => p.1 + p.2 ≤ q.1 ∨ q.1 + q.2 ≤ p.1) ∧ mmaFmtD 1 = fmtF32 ∧ tcW (tcv 5 5 3) = 32 ∧ tcBad (tcv 5 5 3) = false := by
  refine ⟨fun k hk => ?_, by decide, by decide, by decide, by decide, by decide, by decide⟩
  simp only [List.mem_cons, List.not_mem_nil, or_false] at hk
  obtain rfl | rfl | rfl | rfl | rfl := hk <;> exact ⟨runs (by decide), by decide, by decide, _, rfl, rfl, rfl, rfl⟩

/-- A copy of two runs into lane 2's bytes. -/
def tSpan (a n : Nat) : Span := { ptr := BitVec.ofNat 64 a, pa := a, n := n, e := progPte }
def tCl : CLane := ⟨2, 0x1010, [tSpan 0x10103 5, tSpan 0x10110 7], 3, 0, false⟩
def tHasCpa : Core := { tCore tSt with cpas := [⟨9, 0, 0, 1, [tCl]⟩] }

theorem met_Landings_copies : Runs (tState tHasCpa) 0 tHasCpa ∧
    (∃ q, tHasCpa.cpas.find? (fun p => decide (p.id = 9)) = some q ∧ q.id = 9 ∧ q.lanes = [tCl]) ∧ tCl.done = false ∧ inMask 4 tCl.lane = true ∧
    AllDone tHasCpa ∧ (tCl.spans.map fun p => p.n).sum ≤ 32 ∧ (∀ p ∈ tCl.spans, p.e.rem = false) ∧ tCl.dst % 4 = 0 :=
  ⟨runs (by decide), ⟨_, rfl, rfl, rfl⟩, rfl, by decide, by unfold AllDone; decide, by decide, by decide, by decide⟩

/-! Arrivals -/

def tJob (k : JobK) : Job :=
  { id := 60, slot := 0, sid := 0, pc := 0, ents := [REnt.mk 0 true (some 4) 0x2000 1024 0 0], k := k, sent := false, raced := false, wait := none,
    at_ := (0, 0), refused := [] }
/-- A transposed region of 30 by 20 halfwords whose chunks are asked for, the last first; or 20 by 3 elements to copy out. -/
def tFill : Region := Region.mk 0x10100 0x2000 1 1 true true false .filling 30 20 1 40 0 0 false false 0 0 false [1, 0] (1, 0, 1) []
def tOut : Region := Region.mk 0x10100 0x2000 1 1 true true false .flushing 6 3 1 64 0 3 false false 0 0 false [] (0, 0, 0) []
def tHasReg (r : Region) (k : JobK) : Core := { tCore tSt with regions := [(4, r)], jobs := [tJob k] }

/-- Its strand waits to clear the region. -/
def tClears : Core := { tHasReg tOut (.copyout 4 70) with strands := [(0, { tSt with hold := some { k := .rgnclr 4, mask := 1, len := 8 } })] }

set_option maxRecDepth 20000 in
theorem met_Arrivals_chunks :
    let x := tHasReg tFill (.fill 4)
    Runs (tState x) 0 x ∧ aget x.regions 4 = some tFill ∧ x.jobs.find? (fun j => j.k == .fill 4) = some (tJob (.fill 4)) ∧ tFill.st = .filling ∧
      jobPending x 60 = false ∧ tFill.order.head? = some 1 ∧ tFill.order.Nodup ∧ tFill.flush = [] ∧ x.ops = [] ∧ x.sq = [] ∧
      chunkRes (tState x) 0 tFill 1 (tJob (.fill 4)) = .ready ∧ fillFails (tState x) 0 x (chunkGranules tFill 1) = none :=
  ⟨runs (by decide), rfl, rfl, rfl, by decide, rfl, by decide, rfl, rfl, rfl, by decide, by decide⟩

theorem met_Arrivals_copyout : ∀ w : Bool,
    let x := if w then tClears else tHasReg tOut (.copyout 4 70)
    clearWaits x 4 = w ∧ Runs (tState x) 0 x ∧ aget x.regions 4 = some tOut ∧ ctxOf (tState x) x = some progCtx ∧ (tState x).MemInv ∧
      x.jobs.find? (fun j => match j.k with | .copyout q _ => decide (q = 4) | _ => false) = some (tJob (.copyout 4 70)) ∧
      jobPending x 60 = false ∧ remoteDue (tState x) 60 = false ∧ tOut.flush = [] ∧ x.ops = [] ∧ x.sq = [] ∧ x.held = [] ∧ copyRuns tOut ≠ [] ∧
      (∀ q ∈ copyRuns tOut, ptrForm q.1 = true ∧ tlbCore (tState x) 0 progCtx.num (ptrVa q.1) = some progPte ∧
        paOf progPte (ptrVa q.1) + q.2.length ≤ dramTop ∧ ∀ n ∈ q.2, (flushByte x tOut n).2 = false) ∧
      (copyRuns tOut).Pairwise (fun p q => paOf progPte (ptrVa p.1) + p.2.length ≤ paOf progPte (ptrVa q.1) ∨
        paOf progPte (ptrVa q.1) + q.2.length ≤ paOf progPte (ptrVa p.1)) := by
  intro w
  cases w <;>
    exact ⟨by decide, runs (by decide), rfl, rfl, ⟨by decide, by decide, by decide⟩, rfl, by decide, by decide, rfl, rfl, rfl, rfl, by decide, by decide,
      by decide⟩

/-- Core 0 reads from core 1, of the same gang. -/
def tTwoCores (x : Core) (m : List (Nat × Msg)) : State := { tState x with cores := [(0, x), (1, newCore 0 1 [] 0 0)], msgs := m }
def tReadFar : Op := tOp (.ldr 5) [tLane 2 [] false 0x100010] .none
def tToFar (tk : Word) : State := tTwoCores { tCore tSt with ops := [tOp .str [tLane 2 [] false 0x10000A] .none] } [(5, .str 1 tk 0xA [1, 2, 3, 4] [false] 0 50 2)]

theorem met_Arrivals_remote :
    (let x := tHasOp tReadFar
     Runs (tTwoCores x []) 0 x ∧ x.ops.find? (fun p => decide (p.id = 50)) = some tReadFar ∧ inMask 4 2 = true ∧
      getCore (tTwoCores x []) (windowCore 0 0x100010) = some (newCore 0 1 [] 0 0) ∧
      localLock (newCore 0 1 [] 0 0) (0x100010 % 2 ^ 20) (tyBytes 5) false = .free) ∧
    (∀ tk ∈ [(0 : Word), 8], Runs (tToFar tk) 1 (newCore 0 1 [] 0 0) ∧
      aget (tToFar tk).msgs 5 = some (.str 1 tk 0xA [1, 2, 3, 4] [false] 0 50 2) ∧
      msgBefore (tToFar tk).msgs 5 (fun m => match m with | .str d' _ _ _ _ src' _ _ => decide (d' = 1) && decide (src' = 0) | _ => false) = false ∧
      ticketAt (tToFar tk) 1 tk = decide (tk = 0) ∧ localLock (newCore 0 1 [] 0 0) 0xA 4 true = .free) := by
  refine ⟨⟨⟨rfl, rfl, by decide⟩, rfl, by decide, rfl, by decide⟩, fun tk h => ?_⟩
  simp only [List.mem_cons, List.not_mem_nil, or_false] at h
  obtain rfl | rfl := h <;> exact ⟨⟨rfl, rfl, by decide⟩, rfl, by decide, by decide, by decide⟩

/-- RELABEL of four elements, the last one's parent being 1. -/
def tKind : JobK := .relabel [1, 1, 3, 0] 1 false 0x10400 0x10800 none 0 false none
def tRel : State := { tState (tHasReg tOut tKind) with mem := writeBytes [] 0x10000 ([0, 1, 2, 1].map fun n => natBytes n 4).flatten }
def tEnv : GEnv := { c := 0, cx := progCtx, kf := [1, 1, 3, 0], atomic := false, by_ := jobSender (tJob tKind) 0x10800 }

/-- Whether RELABEL's work ends without a fault, its STATUS word has its page, and memory is then canonical. -/
def relB : Bool :=
  match relabelAll tEnv 1 false 0x10400 0x10800 none [] 4 0 { pois := false, fault := none } tRel with
  | .done a s1 => a.fault == none && match jobPage tEnv s1 0x10800 true with
    | .ok (e, pa) s2 => Memory.wf s2.mem && swf 0 s2.tags && swf false s2.gpois && !e.rem && decide (pa + 4 ≤ dramTop) && !remoteDue s2 60 &&
        decide ((getCore s2 0).map (fun y => (y.ops, y.sq, y.held)) = some ([], [], []))
    | _ => false
  | _ => false

set_option maxRecDepth 20000 in
theorem met_Arrivals_relabel :
    let x := tHasReg tOut tKind
    Runs tRel 0 x ∧ x.jobs.find? (fun k => decide (k.id = 60)) = some (tJob tKind) ∧ jobPending x 60 = false ∧ ctxOf tRel x = some progCtx ∧
      fCount [1, 1, 3, 0] = 4 ∧ relB = true :=
  ⟨⟨rfl, rfl, by decide⟩, rfl, by decide, rfl, by decide, by decide⟩

/-- The gang of the placed program, in a state of its own. -/
def tGang (g : GState) (since : Nat) (s : State) : State := modGang s 0 fun x => { x with st := g, since := since }
def tOne (st : Strand) : Core := tCore st

theorem live {x : Core} (h : (match gangOf (tState x) x with
    | some g => decide (g.st = .placed) && (match aget (tState x).ctxs g.ctx with | some c => decide (c.st = .live) | none => false)
    | none => false) = true) : ∃ g, Live (tState x) x g := by
  split at h
  · rename_i g hg
    rw [Bool.and_eq_true, decide_eq_true_eq] at h
    obtain ⟨h1, h2⟩ := h
    split at h2
    · rename_i c hc
      exact ⟨g, hg, h1, c, hc, of_decide_eq_true h2⟩
    · cases h2
  · cases h

def tSleep : Strand := { tSt with hold := some { k := .sleep 0, mask := 5, len := 8 } }
def tNopre : Strand := { tSt with nopre := true, npc := 65536 }
def tBack : Strand := { tTrial with st := .inTrial, trial := some { tDone with since := 0 } }

theorem met_StrandHappenings_time :
    (Runs (tState (tCore tSleep)) 0 (tCore tSleep) ∧ aget (tCore tSleep).strands 0 = some tSleep ∧ ∃ h, tSleep.hold = some h ∧ h.k = .sleep 0) ∧
    (let st : Strand := { tSt with age := 4096, eff := 255 }
     Runs (tState (tCore st)) 0 (tCore st) ∧ aget (tCore st).strands 0 = some st ∧ 4096 ≤ st.age ∧ st.eff ≤ 255) ∧
    (let s := tGang .saving 0 (tState (tCore tNopre))
     Runs s 0 (tCore tNopre) ∧ aget (tCore tNopre).strands 0 = some tNopre ∧ tNopre.nopre = true ∧ 65536 ≤ tNopre.npc ∧ tNopre.stopped = false ∧
      tNopre.hold = none ∧ ∃ g cx, gangOf s (tCore tNopre) = some g ∧ g.st = .saving ∧ aget s.ctxs g.ctx = some cx ∧ cx.st = .live) ∧
    (let s := { tGang .saving 5 (tState (tCore tBack)) with clock := 65541 }
     Runs s 0 (tCore tBack) ∧ aget (tCore tBack).strands 0 = some tBack ∧ tBack.st = .inTrial ∧ tBack.trial.isSome = true ∧
      ∃ g, gangOf s (tCore tBack) = some g ∧ g.st = .saving ∧ g.since + 65536 ≤ s.clock.toNat) :=
  ⟨⟨runs (by decide), rfl, _, rfl, rfl⟩, ⟨runs (by decide), rfl, by decide, by decide⟩,
    ⟨⟨rfl, rfl, by decide⟩, rfl, rfl, by decide, rfl, rfl, _, _, rfl, rfl, rfl, rfl⟩, ⟨rfl, rfl, by decide⟩, rfl, rfl, rfl, _, rfl, rfl, by decide⟩

def tPend (impr : Bool) : Strand := { tSt with trapPend := some { cause := .tagLd, mask := 5, word := 99, ilen := 2, impr := impr, addrs := [(0, 1), (2, 3)], since := 0 } }
def tDue : Strand := { tSt with due := [.store .roSt 0x10000 9 [⟨0, .roSt, 5, 0⟩, ⟨2, .roSt, 6, 0⟩] 0, .nopre], bnd := true }
def tWaits (cond : Nat) : Strand :=
  { tSt with lanes := tLanes.mapIdx fun l la => if l = 1 then { la with st := .parked (.waitw 0x10100 7 1 (BitVec.ofNat 3 cond) 9) } else la }

theorem met_StrandHappenings_traps :
    (∀ impr : Bool, Runs (tState (tCore (tPend impr))) 0 (tCore (tPend impr)) ∧ aget (tCore (tPend impr)).strands 0 = some (tPend impr) ∧
      trapHead (tCore (tPend impr)) = some 0 ∧ (tPend impr).trapPend.isSome = true ∧ (∃ g, Live (tState (tCore (tPend impr))) (tCore (tPend impr)) g) ∧
      0 < hFree (tCore (tPend impr))) ∧
    (Runs (tState (tCore tDue)) 0 (tCore tDue) ∧ aget (tCore tDue).strands 0 = some tDue ∧ (∃ g, Live (tState (tCore tDue)) (tCore tDue) g) ∧
      tDue.st = .running ∧ tDue.hold = none ∧ tDue.trapPend = none ∧ tDue.block = none ∧ tDue.handler = none ∧
      (∃ k pc w0 fl seq rest, tDue.due = .store k pc w0 fl seq :: rest ∧ actionOf (tCore tDue) k = .kill ∧
        (∀ f ∈ fl, f.lane < 32 ∧ (lane tDue f.lane).st ≠ .exited) ∧ ∃ l, l < 32 ∧ (lane tDue l).st = .ready ∧ ∀ f ∈ fl, f.lane ≠ l) ∧ tDue.bnd = true) ∧
    (∀ c, c < 7 → let x := tCore (tWaits c)
      Runs (tState x) 0 x ∧ aget x.strands 0 = some (tWaits c) ∧ (∃ g, Live (tState x) x g) ∧ (tWaits c).handler = none ∧
      (lane (tWaits c) 1).st = .parked (.waitw 0x10100 7 1 (BitVec.ofNat 3 c) 9) ∧ x.ops = [] ∧
      (∀ u : Cur, u.core = 0 → LoadOk (tState x) x u 0x10100 (waitBytes 1) false progPte) ∧ lateRead (tState x) progPte = false ∧
      (viewRead (tState x) x progPte (paOf progPte (ptrVa 0x10100)) (waitBytes 1) false).2 = false) := by
  refine ⟨fun b => ⟨runs (by revert b; decide), rfl, by revert b; decide, rfl, live (by revert b; decide), by revert b; decide⟩,
    ⟨runs (by decide), rfl, live (by decide), rfl, rfl, rfl, rfl, rfl, ⟨_, _, _, _, _, _, rfl, by decide, by decide, 1, by decide, rfl, by decide⟩, rfl⟩, ?_⟩
  intro c hc
  refine ⟨runs (by revert c; decide), rfl, live (by revert c; decide), rfl, by revert c; decide, rfl, fun u hu => ?_, rfl, by revert c; decide⟩
  have h : LoadOk (tState (tCore (tWaits c))) (tCore (tWaits c)) tU 0x10100 (waitBytes 1) false progPte := loadOk (by revert c; decide)
  exact ⟨⟨h.1.1, h.1.2, by rw [hu]; exact h.1.3, h.1.4, h.1.5⟩, h.2⟩

/-! Spills of Sparge -/

def tFr (fid gran : Nat) (phys : List Nat) (res : Bool) : Frame := Frame.mk fid gran phys res [(5, ⟨3, false⟩)] 0 0 0
/-- Strand 1 waits for a frame of 20 granules; strand 2 has frames of 400 and 90 granules, and runs, or has arrived at the barrier. -/
def tHungry : Strand :=
  { tSt with sid := 1, st := .blocked, frames := [tFr 8 20 [] false, tFr 9 3 [] false], block := some { demand := 20, since := 0, call := none } }
def tFed (s : SState) : Strand :=
  { tSt with sid := 2, st := s, frames := [tFr 10 400 (List.range 400) true, tFr 11 90 ((List.range 90).map (400 + ·)) true, tFr 12 4 [] false] }
def tSparge (s : SState) (flip : Bool) : Core :=
  { tCore tSt with quiet := 64, strands := if flip then [(0, tHungry), (1, tFed s)] else [(0, tFed s), (1, tHungry)] }
def tSpargeS (x : Core) : State :=
  { tState x with clock := 65536, tlbs := { die := 0, ctx := 0, base := 0, e := { progPte with size := 3, frame := 0 } } :: (tState x).tlbs }

set_option maxRecDepth 20000 in
theorem met_CoreHappenings_sparge : ∀ starve flip : Bool,
    let sb := tFed (if starve then .running else .atPhase)
    let x := tSparge (if starve then .running else .atPhase) flip
    let s := tSpargeS x
    Runs s 0 x ∧ (∃ g, Live s x g) ∧ ctxOf s x = some progCtx ∧
      (x.strands = [(if flip then 0 else 1, tHungry), (if flip then 1 else 0, sb)] ∨ x.strands = [(if flip then 1 else 0, sb), (if flip then 0 else 1, tHungry)]) ∧
      s.gpois = [] ∧ s.walks = [] ∧ x.ops = [] ∧ x.jobs = [] ∧ tHungry.st = .blocked ∧ tHungry.handler = none ∧ (∀ f ∈ tHungry.frames, f.res = false) ∧
      (∃ since, tHungry.block = some { demand := 20, since := since, call := none } ∧ since + 65536 ≤ s.clock.toNat) ∧
      (if starve then sb.st = .running ∧ sb.trapPend = none ∧ sb.hold = none ∧ readyMask sb ≠ 0 else sb.st = .atPhase ∧ 64 ≤ x.quiet) ∧
      sb.block = none ∧ (∃ tb fb rb, sb.frames = tb :: fb :: rb ∧ tb.res = true ∧ fb.res = true ∧ (∀ f ∈ rb, f.res = false) ∧ fb.phys.length = fb.gran ∧
        20 ≤ freeG x + fb.gran ∧ privMissing s 0 progCtx [(recordVa progCtx sb 1, frameBytes fb)] = []) ∧
      freeG x < 20 ∧ (usedGran x).length + x.resv ≤ 496 := by
  rintro (_ | _) (_ | _) <;>
    exact ⟨⟨rfl, rfl, by decide⟩, ⟨_, rfl, rfl, _, rfl, rfl⟩, rfl, by decide, rfl, rfl, rfl, rfl, rfl, rfl, by decide, ⟨0, rfl, by decide⟩, by decide, rfl,
      ⟨_, _, _, rfl, rfl, rfl, by decide, by decide, by decide, by decide⟩, by decide, by decide⟩

/-! Stores, barriers, phases, fetches -/

def tSl : SLane := SLane.mk 0 0x10100 0x1013A progPte [1, 2, 3, 4, 5, 6] [false, false] 0 none
def tQ : SEntry := { id := 30, slot := 0, sid := 0, pc := 0, w0 := 0, seq := 0, dir := false, str := false, lanes := [tSl] }
def tStoring : Core := { tCore { tSt with out := [{ cls := .st, id := 30, done := false }] } with sq := [tQ] }

theorem met_CoreHappenings_store : Runs (tState tStoring) 0 tStoring ∧
    (∃ st, aget tStoring.strands 0 = some st ∧ st.hold = none ∧ st.out = [{ cls := .st, id := tQ.id, done := false }] ∧ tQ.sid = st.sid) ∧
    tStoring.ops = [] ∧ tQ.slot = 0 ∧ tQ.str = false ∧ tQ.dir = false ∧ tSl.e.cache ≠ 2 ∧ storeLaneCheck (tState tStoring) tStoring tSl = none ∧
    tSl.pa % 64 + tSl.data.length ≤ 64 ∧ (lineOf tStoring (lineKey tSl.e tSl.pa)).dirty = [] :=
  ⟨runs (by decide), ⟨_, rfl, rfl, rfl, rfl⟩, rfl, rfl, rfl, rfl, by decide, by decide, by decide, by decide⟩

/-- A gang barrier of three workgroups at which one or two have arrived, and some have ended: before their arrival, or after it. -/
def tGbar (n : Nat) : Core := { tCore tSt with gbars := [(2, { arr := n, exp := 0, gen := 4, all := false, who := [0] })] }
def tGbarS (n : Nat) (e : List Nat) : State :=
  { modGang (tState (tGbar n)) 0 (fun g => { g with cores := [0, 1, 2], ended := e }) with msgs := [(4, .gbar 0 0 2 1), (5, .gbar 0 0 2 1)] }

theorem met_CoreHappenings_gbar : ∀ p ∈ [(1, ([] : List Nat), true), (2, [], false), (1, [2], false), (1, [0], true)],
    let n := p.1
    let s := tGbarS n p.2.1
    Runs s 0 (tGbar n) ∧ (∃ gg, Live s (tGbar n) gg ∧ gg.ticket = 0 ∧
      let r := barOf (tGbar n).gbars 2
      let out := gg.ended.filter fun w => !(r.who ++ [1]).contains w && !gbarComing (dropMsg s 4) 0 2 w
      decide (r.arr + 1 < gg.cores.length - out.length) = p.2.2) ∧
    aget s.msgs 4 = some (.gbar 0 0 2 1) ∧
    msgBefore s.msgs 4 (fun m => match m with | .gbar d' _ g' wg' => decide (d' = 0) && decide (g' = 2) && decide (wg' = 1) | _ => false) = false ∧
    1 ∉ (barOf (tGbar n).gbars 2).who := by
  intro p h
  simp only [List.mem_cons, List.not_mem_nil, or_false] at h
  obtain rfl | rfl | rfl | rfl := h <;> exact ⟨⟨rfl, rfl, by decide⟩, ⟨_, ⟨rfl, rfl, _, rfl, rfl⟩, rfl, by decide⟩, rfl, by decide, by decide⟩

/-- A core that publishes, with one written line, or none. -/
def tDirty : Dirty := { seg := 0, mask := 0xFF01, data := List.replicate 64 9, p0 := false, p1 := false, ptr := 0x10140, lane := 0, slot := 0, pc := 0x10000 }
def tPub (dirty final dur : Bool) : Core :=
  { tCore { tSt with st := .atPhase, phMask := 5, phLen := 4, dur := dur } with
    pst := .publishing final dur,
    held := if dirty then [(0x10140 / 64, { read := none, want := false, cnt := true, nv := false, dirty := [tDirty], wp := 0 })] else [] }

theorem met_CoreHappenings_publish : ∀ dirty final dur : Bool,
    let x := tPub dirty final dur
    Runs (tState x) 0 x ∧ (∃ g, Live (tState x) x g) ∧ (tState x).MemInv ∧ x.pst = .publishing final dur ∧ x.sq = [] ∧ x.ops = [] ∧
      (tState x).remote = [] ∧ dirtyList x = (if dirty then some (0x10140 / 64, tDirty) else none).toList ∧ 0x10140 / 64 < 2 ^ 44 ∧
      InMemory (64 * (0x10140 / 64)) 64 := by
  rintro (_ | _) (_ | _) (_ | _) <;>
    exact ⟨runs (by decide), live (by decide), ⟨by decide, by decide, by decide⟩, rfl, rfl, rfl, rfl, by decide, by decide, by unfold InMemory; decide⟩

/-- A message of phase 9 of gang 1 comes to a core that waits, or runs. -/
def tLead (p : PState) : Core := { tCore tSt with pst := p, leadv := [{ gang := 1, wg := 0, val := some 4 }] }
def tLeadS (p : PState) : State := { tState (tLead p) with msgs := [(4, .phase 0 0 1 0 (some 9))] }

theorem met_CoreHappenings_phase : ∀ p ∈ [PState.running, .leadWait true false false], Runs (tLeadS p) 0 (tLead p) ∧
    (∃ g, Live (tLeadS p) (tLead p) g ∧ aget (tLeadS p).gangs 0 = some g ∧ g.cores[0]? = some 0) ∧ (tLead p).gid = 0 ∧ (tLead p).wg = 0 ∧
    aget (tLeadS p).msgs 4 = some (.phase 0 0 1 0 (some 9)) ∧
    msgBefore (tLeadS p).msgs 4 (fun m => match m with
      | .phase gid' wg' fg' fw' _ => decide (gid' = 0) && decide (wg' = 0) && decide (fg' = 1) && decide (fw' = 0) | _ => false) = false := by
  intro p h
  simp only [List.mem_cons, List.not_mem_nil, or_false] at h
  obtain rfl | rfl := h <;> exact ⟨⟨rfl, rfl, by decide⟩, ⟨_, ⟨rfl, rfl, _, rfl, rfl⟩, rfl, rfl⟩, rfl, rfl, rfl, by decide⟩

/-- The page after the placed program's is walked to. -/
def tWalk (die : Nat) (st : WState) : Walk := Walk.mk 5 6 die 0 3 false false false false false false 0 st
def tWalking : State := { tState (tCore tSt) with walks := [tWalk 0 .posted] }

theorem met_CoreHappenings_fetch : tWalking.cur = some tU ∧ getStrand tWalking tU.core tU.slot = some tSt ∧
    walkOf tWalking (dieOf tU.core) (ctxNum tWalking tU.core) (ptrVa 0x30010 / 65536) = some (tWalk 0 .posted) ∧ tSt.lanes.length = 32 ∧ tSt.hold = none :=
  ⟨rfl, rfl, by decide, by decide, rfl⟩

/-! Management, gangs, walks -/

/-- A block of 128 bytes from fields (offset, width, value). -/
def tFields (l : List (Nat × Nat × Nat)) : List Byte :=
  (List.range 128).map fun i => match l.find? fun p => decide (p.1 ≤ i ∧ i < p.1 + p.2.1) with
    | some p => (natBytes p.2.2 p.2.1).getD (i - p.1) 0
    | none => 0

/-- A launch record of 3 gangs of 2 workgroups of 3 strands, and a request for a context that names it (R33, R406). -/
def tRec : List Byte := tFields [(0, 8, 0x10000), (24, 4, 3), (28, 1, 2), (29, 1, 3), (30, 1, 8), (31, 1, 9), (32, 4, 0x1000), (36, 1, 1),
  (56, 8, 0x30000), (64, 8, 0x1122334455667788)]
def tReq : List Byte := tFields [(0, 8, 0x40000), (8, 8, 2 ^ 36), (16, 8, 0x20000), (24, 1, 6), (25, 1, 7), (27, 1, 3), (32, 16, 8), (64, 8, 0x18000)]
def tMapped (ctx : Nat) : TlbE := { die := 0, ctx := ctx, base := 0, e := { progPte with size := 3, frame := 0 } }

/-- The device is ready, with the request in its list. -/
def tMgmt (m : SMap Byte) : State :=
  { State.reset with ctl := { State.reset.ctl with ready := true }, tlbs := [tMapped 0, tMapped 1], mem := m, mreqs := [0x14000, 7] }
def tServed (s : State) : Bool :=
  decide (s.power = .run) && s.ctl.ready && !s.ctl.stopped && decide (s.mreqs.head? = some 0x14000) && Memory.wf s.mem && swf 0 s.tags &&
    swf false s.gpois && decide (0x14000 + 128 ≤ dramTop) && !physPois s 0x14000 128
def tMem (b : List Byte) : SMap Byte := writeBytes (writeBytes [] 0x14000 b) 0x18000 tRec

set_option maxRecDepth 20000 in
theorem met_Management_create :
    (let s := tMgmt (tMem tReq)
     tServed s = true ∧ recField (readBytes s.mem 0x14000 128) 58 1 = 0 ∧
      (match createVerdict s (readBytes s.mem 0x14000 128) with | .ok (c, raw) => decide (c.num = 0) && decide (raw = tRec) | _ => false) = true ∧
      ((aget s.queues (recField (readBytes s.mem 0x14000 128) 27 1)).getD []).length < 256) ∧
    (let s := tMgmt (tMem (tReq.set 24 3))
     tServed s = true ∧ recField (readBytes s.mem 0x14000 128) 58 1 ≠ 1 ∧
      (match createVerdict s (readBytes s.mem 0x14000 128) with | .error k => decide (k = 2) | _ => false) = true) := by decide

/-- A request to destroy context n. -/
def tBye (n : Nat) (c : CState) : State :=
  { tState (tCore tSt) with
    ctl := { State.reset.ctl with ready := true }, mem := writeBytes [] 0x14000 (tFields [(58, 1, 1), (60, 2, n)]), mreqs := [0x14000],
    ctxs := [(0, { progCtx with st := c })] }

set_option maxRecDepth 20000 in
theorem met_Management_destroy : ∀ p ∈ [(3, CState.live), (0, .live), (0, .ending false)],
    let s := tBye p.1 p.2
    tServed s = true ∧ recField (readBytes s.mem 0x14000 128) 58 1 = 1 ∧ destroyBad (readBytes s.mem 0x14000 128) = false ∧
      recField (readBytes s.mem 0x14000 128) 60 2 = p.1 ∧ (aget s.ctxs 3 = none) ∧ aget s.ctxs 0 = some { progCtx with st := p.2 } ∧
      (p.2 = .ending false → ctxStill s 0 = true) ∧ ∀ g ∈ s.gangs, g.2.gid = g.1 := by decide

/-- The record heads queue 70, of die 1, for context 5. -/
def tSched : State :=
  { State.reset with
    ctl := { State.reset.ctl with ready := true }, ctxs := [(5, { progCtx with num := 5, trapctl := 6 })],
    queues := [(70, [{ rid := 1, ctx := 5, raw := tRec, prio := 7, next := 1, checked := true, waitWalk := none, tc := [(2, 5)], regions := [] }])] }

theorem met_Management_schedule : tSched.power = .run ∧ tSched.ctl.ready = true ∧ tSched.ctl.stopped = false ∧ 70 / 64 = 1 ∧
    (∃ r, tSched.queues = [(70, [r])] ∧ r.checked = true ∧ recWkind r.raw = 0 ∧ (∃ cx, aget tSched.ctxs r.ctx = some cx ∧ cx.st = .live) ∧
      recWpg r.raw = 2 ∧ recSpw r.raw = 3) ∧
    tSched.gangs = [] ∧ tSched.cores = [] ∧ tSched.want = [] ∧ tSched.ftest = [] ∧ tSched.withdrawn = [] :=
  ⟨rfl, rfl, rfl, by decide, ⟨_, rfl, rfl, by decide, ⟨_, rfl, rfl⟩, by decide, by decide⟩, rfl, rfl, rfl, rfl, rfl⟩

/-- The placed gang is saved; its one strand has stopped, one of its frames is in memory. -/
def tStop : Strand := { tSt with due := [.nopre], frames := [tFr 1 3 [5, 6, 7] true, tFr 2 4 [] false] }
def tSaving : State :=
  { modGang (tState (tCore tStop)) 0 (fun g => { g with st := .saving }) with
    tlbs := [tMapped 0, { tMapped 0 with base := 2 ^ 36, e := { progPte with size := 3, frame := 2 ^ 18 } }] }
/-- The gang SAVED, and given core 9. -/
def tSavedC : Core := { tCore { tSt with frames := [tFr 1 3 [] true, tFr 2 4 [] false] } with phase := 6, loc := [(7, 3)] }
def tSaved : State :=
  { modGang tSaving 0 (fun g => { g with st := .saved, cores := [9], saved := [tSavedC] }) with cores := [] }

set_option maxRecDepth 20000 in
theorem met_GangsAndWalks_save :
    tSaving.power = .run ∧ (∃ g cx, aget tSaving.gangs 0 = some g ∧ g.gid = 0 ∧ g.st = .saving ∧ aget tSaving.ctxs g.ctx = some cx ∧ cx.st = .live ∧
      g.cores = [0] ∧ (saveUsed tSaving g.ctx).length < 32768 ∧
      privMissing tSaving (dieOf 0) cx (coreRanges cx (recScr g.raw) ((saveFree tSaving g.ctx 1).getD 0 0) (tCore tStop)) = []) ∧
    getCore tSaving 0 = some (tCore tStop) ∧ (tCore tStop).gid = 0 ∧ coreStopped tSaving 0 (tCore tStop) true = true ∧
    (∃ st, aget (tCore tStop).strands 0 = some st ∧ st.trial = none ∧ st.hold = none) :=
  ⟨rfl, ⟨_, _, rfl, rfl, rfl, rfl, rfl, rfl, by decide, by decide⟩, rfl, rfl, by decide, _, rfl, rfl, rfl⟩

set_option maxRecDepth 20000 in
theorem met_GangsAndWalks_restore :
    tSaved.power = .run ∧ (∃ g cx, aget tSaved.gangs 0 = some g ∧ g.gid = 0 ∧ g.st = .saved ∧ aget tSaved.ctxs g.ctx = some cx ∧ cx.st = .live ∧
      g.cores = [9] ∧ g.saved = [tSavedC] ∧ privMissing tSaved (dieOf 9) cx (coreRanges cx (recScr g.raw) tSavedC.saveIdx tSavedC) = []) ∧
    tSavedC.gid = 0 ∧ tSavedC.wf = true ∧ tSaved.gpois = [] ∧ tSavedC.pst = .running ∧ tSavedC.regions = [] ∧ tSavedC.strands ≠ [] ∧
    (∀ p ∈ tSavedC.strands, p.2.st = .running ∧ p.2.trial = none ∧ p.2.handler = none ∧ ∃ l, l < 32 ∧ (lane p.2 l).st = .ready) :=
  ⟨rfl, ⟨_, _, rfl, rfl, rfl, rfl, rfl, rfl, rfl, by decide⟩, rfl, by decide, rfl, rfl, rfl, by decide, by decide⟩

/-- A gang drains; its record names the counter at 0x30000. -/
def tDrain : State :=
  { modGang (tState { tCore tSt with pst := .ended, strands := [] }) 0 (fun g => { g with st := .draining, raw := tRec }) with tlbs := [tMapped 0] }

theorem met_GangsAndWalks_drain : tDrain.power = .run ∧ tDrain.MemInv ∧
    (∃ g cx, aget tDrain.gangs 0 = some g ∧ g.st = .draining ∧ aget tDrain.ctxs g.ctx = some cx ∧ cx.st = .live ∧ g.cores = [0] ∧
      (∃ x, getCore tDrain 0 = some x ∧ coreDrained tDrain 0 x = true) ∧ recCompl g.raw = 0x30000 ∧
      tlbFind tDrain g.die cx.num 0x30000 = some (tMapped 0).e ∧ paOf (tMapped 0).e 0x30000 = 0x30000 ∧ InMemory 0x30000 8) :=
  ⟨rfl, ⟨by decide, by decide, by decide⟩, _, _, rfl, rfl, rfl, rfl, rfl, ⟨_, rfl, by decide⟩, by decide, rfl, by decide, by unfold InMemory; decide⟩

/-- Tables of five levels that map page 3; lane 1 waits for it. -/
def tTabs : SMap Byte :=
  [(0x40000, 0x50001), (0x50000, 0x60001), (0x60000, 0x70001), (0x70000, 0x80001), (0x80018, 0x90003)].foldl (fun m p => writeBytes m p.1 (natBytes p.2 8)) []
def tParked : Strand := { tSt with lanes := tLanes.mapIdx fun l la => if l = 1 then { la with st := .faultParked 5 0x30010 77 } else la }
def tWalked (st : WState) : State :=
  { tState (tCore tParked) with walks := [tWalk 0 st], mem := tTabs, ctxs := [(0, { progCtx with ptroot := 0x40000 })] }

theorem met_GangsAndWalks_walk : ∀ st ∈ [WState.walking, .posted],
    let s := tWalked st
    s.power = .run ∧ s.ctl.stopped = false ∧ s.walks.find? (fun v => decide (v.id = (tWalk 0 st).id)) = some (tWalk 0 st) ∧
      (match walkTables s 0x40000 (3 * 65536) with
        | .present e b => decide (b ≤ 0x30000) && decide (0x30000 < b + pageBytes e.size) | _ => false) = true ∧
      (∃ cx, aget s.ctxs (tWalk 0 st).ctx = some cx ∧ cx.ptroot = 0x40000) ∧ ((tWalk 0 st).st = .walking → hasWalker s (tWalk 0 st) = true) ∧
      ((tWalk 0 st).st = .posted → pendingWalk s 0 (tWalk 0 st).entry = some (tWalk 0 st)) ∧
      getStrand s 0 0 = some tParked ∧ (lane tParked 1).st = .faultParked 5 0x30010 77 ∧ rising s.cores = true ∧ (tCore tParked).wf = true ∧
      dieOf 0 = (tWalk 0 st).die ∧ awaits (tWalk 0 st).id (tCore tParked) = true := by
  intro st h
  simp only [List.mem_cons, List.not_mem_nil, or_false] at h
  obtain rfl | rfl := h <;> exact ⟨rfl, rfl, rfl, by decide, ⟨_, rfl, rfl⟩, by decide, by decide, rfl, by decide, by decide, by decide, rfl, by decide⟩

/-! The host, the device's health -/

/-- A device that runs, vectors 1 and 4 pending, an unposted walk of die 1. -/
def tHost : State := { tState (tCore tSt) with pendMsix := [1, 4], walks := [tWalk 1 .owed], ctl := { State.reset.ctl with ready := true, invGo := true } }
def tAp (tagv : Bool) : State := { tHost with ctl := { tHost.ctl with apbase := 0x10000, tagv := tagv } }
def tRem : RReq := { id := 7, dev := 1, pa := 0, ctx := 0, core := 0, ptr := 0x10100, lane := 2, slot := 0, pc := 0x10000, op := some (50, 2), ask := true, data := [], dest := .none }
def tFarOp : Op := tOp (.load true 6) [tLane 2 [] false 0x10100] (.v (curFid tSt) 5 4)

theorem met_HostHappenings :
    tHost.power ≠ .flushed ∧ tHost.power = .run ∧ tHost.ctl.invGo = true ∧ tHost.MemInv ∧ tHost.TabInv ∧ (tState (tCore tSt)).walks = [] ∧
    (tWalk 1 .owed).die < 2 ∧ tHost.walks = [tWalk 1 .owed] ∧ tHost.ctl.hfqBase.length = 2 ∧ (0x40000 % 64 = 0 ∧ InMemory 0x40000 131072) ∧
    (hfqProd tHost 1 - hfqCons tHost 1).toNat < 4096 ∧
    ((tAp false).ctl.tagv = false ∧ ∀ i, i < 80 → InMemory (((tAp false).ctl.apbase + (0x110 + i)) % physTop) 1) ∧
    InMemory (((tAp false).ctl.apbase + 0x110) % physTop) 80 ∧
    ((tAp true).ctl.tagv = true ∧ (tAp true).ctl.apbase % 64 = 0 ∧ InMemory (((tAp true).ctl.apbase + 64 * 1) % physTop) 64 ∧ ∀ p ∈ (tAp true).cores, p.2.ops = []) ∧ InMemory 0x10110 8 ∧
    (let s := { tState (tHasOp tFarOp) with remote := [tRem] }
     Runs s 0 (tHasOp tFarOp) ∧ s.remote.find? (fun q => decide (q.id = 7)) = some tRem ∧
      (tHasOp tFarOp).ops.find? (fun p => decide (p.id = 50)) = some tFarOp ∧ (tLane 2 [] false 0x10100).done = false ∧
      (tLane 2 [] false 0x10100).landed = 0 ∧ tRem.ask = true ∧ tRem.data = [] ∧ tFarOp.dest ≠ .none ∧ 0 < opWords tFarOp) :=
  ⟨by decide, rfl, rfl, ⟨by decide, by decide, by decide⟩, ⟨by decide, by decide⟩, rfl, by decide, rfl, rfl, ⟨by decide, by unfold InMemory; decide⟩,
    by decide, ⟨rfl, by unfold InMemory; decide⟩, by unfold InMemory; decide, ⟨rfl, by decide, by unfold InMemory; decide, by decide⟩, by unfold InMemory; decide,
    ⟨rfl, rfl, by decide⟩, rfl, rfl, rfl, rfl, rfl, rfl, by decide, by decide⟩

/-- A day after power-on: a bucket of DRAM drains, one of class 1 may close its window, and one is due a REMAP of row 7. -/
def tDay : State :=
  { State.reset with clock := BitVec.ofNat 64 (hourCycles 24 + 5), buckets := [⟨4, 3, 5, some 7, 1, [], none⟩, ⟨1, 0, 0, none, 0, [(9, 2)], some 9⟩] }
/-- A containment table holds v under key 3, in all copies. -/
def tCont (v : DWord) : State :=
  { State.reset with cont := State.reset.cont.set 2 { c0 := sset 0 [] 3 v, c1 := sset 0 [] 3 v, c2 := sset 0 [] 3 v } }
def tTest (q : FTest) : State := { tDay with ftest := [q] }
def tTested (b : Bool) : FTest := { cluster := 4, running := b, start := 0 }

theorem met_Health :
    (tDay.power = .run ∧ kilnUnit 4 3 = true ∧ passOver tDay 4 3 = true ∧ passReads tDay 4 3 0x1905 = true ∧ passReads tDay 4 3 0x105 = false ∧
      passReads { tDay with kiln := [{ cls := 4, unit := 3, start := 0, corr := 0, unc := 0, seen := [0x1905 / 32], ended := false }] } 4 3 0x1910 = false ∧
      passReads tDay 5 3 (caskBase + 0x3000) = true ∧ l2Has tDay (0x1905 / 32 / 2) = false ∧
      l2Has { tDay with l2 := [(0x1905 / 64, false)] } (0x1905 / 32 / 2) = true ∧ tDay.MemInv) ∧
    drainDue tDay (bucketOf tDay 4 3) = true ∧ windowDue tDay (bucketOf tDay 4 3) = true ∧
    ((bucketOf tDay 1 0).due = some 9 ∧ spareLeft tDay 1 0 9 = true ∧ remapReady tDay 1 0 9 = true) ∧
    (∀ v ∈ [(0 : DWord), 5], (tCont v).power = .run ∧ (tCont v).TabInv ∧ (∀ m, m < 6 → m ≠ 2 → contTab (tCont v) m = CTab.empty) ∧
      contTab (tCont v) 2 = { c0 := sset 0 [] 3 v, c1 := sset 0 [] 3 v, c2 := sset 0 [] 3 v } ∧ (8 ≠ v.toNat ∧ 9 ≠ v.toNat)) ∧
    (testOf tDay 4 = none ∧ testDue tDay 4 = true ∧ gangsOn tDay (clusterCores 4) = []) ∧
    (testOf (tTest (tTested false)) 4 = some (tTested false) ∧ clusterEmpty (tTest (tTested false)) 4 = true) ∧
    (testOf (tTest (tTested true)) 4 = some (tTested true) ∧ swf 0 (tTest (tTested true)).tested = true) ∧
    (tDay.nvLog = [] ∧ getCore tDay 9 = none) ∧ { tDay with power := .flushed }.power = .flushed := by
  refine ⟨⟨rfl, by decide, by decide, by decide, by decide, by decide, by decide, by decide, by decide, by decide, by decide, by decide⟩, by decide, by decide, ⟨by decide, by decide, by decide⟩, ?_,
    ⟨by decide, by decide, by decide⟩, ⟨by decide, by decide⟩, ⟨by decide, by decide⟩, ⟨rfl, by decide⟩, rfl⟩
  intro v h
  simp only [List.mem_cons, List.not_mem_nil, or_false] at h
  obtain rfl | rfl := h <;> exact ⟨rfl, ⟨by decide, by decide⟩, by decide, rfl, by decide⟩

/-! The machine as a whole -/

/-- The placed program issues next, on masks 0. -/
theorem met_StepRunsDecoded :
    let s := placeProgram State.reset [0xE0000000]
    let s0 := portServed { stepStart s with turn := 1 } 0 0
    NextRound s 0 0 0 0 s0 ∧ (∃ x st, getCore s0 0 = some x ∧ aget x.strands 0 = some st ∧ st.due = [] ∧ minPc st = some 0x10000) ∧
      ([0xE0000000] : List Word).length = wordsOfLen (lenOf 0xE0000000) ∧ WordsAt s0 0 0x10000 [0xE0000000] ∧
      (∀ x, getCore s0 0 = some x → FetchSure s0 0 x 0x10000 1) ∧
      (decode (Words.ofList [0xE0000000])).toOption.isSome = true := by
  refine ⟨⟨0, _, Or.inl ⟨rfl, by decide, rfl, rfl, 0, by decide, rfl⟩, by decide, rfl⟩, ⟨_, _, rfl, rfl, rfl, by decide⟩, by decide, ?_, fun x hx => ?_, by decide⟩
  swap
  · obtain rfl := Option.some.inj hx
    exact .inl (by decide)
  intro k w h
  have hk : k = 0 := by
    have := List.getElem?_eq_some_iff.1 h
    obtain ⟨h1, -⟩ := this
    simpa using h1
  subst hk
  obtain rfl := Option.some.inj h
  exact ⟨progPte, by decide, rfl, rfl, by decide, by decide⟩

/-- A fault of the fetch, an error of a datapath: a round that heads the agenda. -/
theorem met_StepRunsDecoded_agenda :
    (let s := { placeProgram State.reset [0xE0000000] with agenda := [.issue 0 0 1 0] }
     NextRound s 0 0 1 0 (portServed { stepStart s with agenda := [] } 0 0)) ∧
    (let s := { State.reset with agenda := [.event .linkRetraining] }
     s.agenda = .event .linkRetraining :: [] ∧ isHappening .linkRetraining = true) :=
  ⟨⟨0, _, Or.inr ⟨_, rfl, rfl⟩, by decide, by decide⟩, rfl, rfl⟩

theorem met_DecodeEncode : (Instr.ld (fLoad 5)).wf = true ∧ (encode (Instr.ld (fLoad 5))).isSome = true := by decide

theorem reset_memInv : State.reset.MemInv := ⟨by decide, by decide, by decide⟩
theorem reset_coreInv : State.reset.CoreInv := ⟨by decide, by decide, by decide, by decide, by decide, by decide, by decide, by decide⟩

/-- One step from the placed program answers a next state. -/
theorem met_StepKeepsMemInv : (placeProgram State.reset [0xE0000000]).MemInv ∧
    (match step (placeProgram State.reset [0xE0000000]) with | .next _ => true | _ => false) = true := ⟨⟨by decide, by decide, by decide⟩, by decide⟩
theorem met_StepKeepsCoreInv : (placeProgram State.reset [0xE0000000]).CoreInv :=
  ⟨by decide, by decide, by decide, by decide, by decide, by decide, by decide, by decide⟩

/-! ### Ill-formed terms, one for each check (R231 to R240) -/

/-- Each first term is well-formed; the second breaks one rule. -/
def wfPairs (l : List (Instr × Instr)) : Bool := l.all fun p => p.1.wf && !p.2.wf

/-- LEN (R239), a field the entry leaves unused, a number beyond its field's limit (R231). -/
theorem test_wf_fields : wfPairs [
    (.exit (f0 0 0 0), .exit (tf 2 0 false 0 0 0 0 false false false false 0 0 0 5)),
    (.st (f1 0 8 10 0 6 16), .st (f1 1 8 10 0 6 16)),
    (.tzero (f0 15 0 0), .tzero (f0 16 0 0)),
    (.nop (f0 0 0 0), .nop (f0 0 1 0)),
    (.iabs (f0 4 8 0), .iabs (f0 4 8 1)),
    (.iadd (f1 4 8 10 0 0 0), .iadd (f1 4 8 10 1 0 0)),
    (.ldb (f1 4 4 12 0 0 32), .ldb (f1 4 61 12 0 0 32)),
    (.icmp (f0 7 8 10), .icmp (f0 8 8 10))] = true := by decide

/-- The uniform flags KC and DK: where the entry has none, and on registers beyond k63 (R46, R231). -/
theorem test_wf_uniform : wfPairs [
    (.ld (f1 4 8 0 0 0 16), .ld (tf 1 0 false 4 8 0 0 false false false true 0 0 16 0)),
    (.iadd (tf 1 0 false 63 8 10 0 false false false true 0 0 0 0), .iadd (tf 1 0 false 64 8 10 0 false false false true 0 0 0 0)),
    (.iadd (tf 1 0 false 4 62 10 0 true false false false 0 2 0 0), .iadd (tf 1 0 false 4 63 10 0 true false false false 0 2 0 0)),
    (.rng (tf 1 0 false 4 8 10 0 false true false false 0 0 0 0), .rng (f1 4 8 10 0 0 0))] = true := by decide

/-- AUX, MOD, and the base MOD of the major (R235, R240, R241). -/
theorem test_wf_mod : wfPairs [
    (.rgnclr (f1 0 0 0 0 0 31), .rgnclr (f1 0 0 0 0 0 32)),
    (.iadd (f1 4 8 10 0 0x40 0), .iadd (f1 4 8 10 0 0x80 0)),
    (.ld (f1 4 8 0 0 6 16), .ld (f1 4 8 0 0 7 16)),
    (.fadd (tf 0 0 false 4 8 10 0 false false false false 0 4 0 0), .fadd (tf 0 0 false 4 8 10 0 false false false false 0 5 0 0)),
    (.cvtf (f1 4 8 0 0 5 4), .cvtf (f1 4 8 0 0 4 4)),
    (.unite (f1 2 8 10 0 0 60), .unite (f1 2 8 10 0 0 61)),
    (.mma (f1 2 3 4 0 8 0), .mma (f1 2 3 4 0 6 0))] = true := by decide

/-- Literals (R237, R238): with one SB is zero; 32 bits of it are a 64-bit value's; a code address is a word's. -/
theorem test_wf_literal : wfPairs [
    (.iadd (tf 2 0 false 4 8 0 0 false false false false 0 0 0 7), .iadd (tf 2 0 false 4 8 1 0 false false false false 0 0 0 7)),
    (.iadd (tf 2 0 false 4 8 0 0 false false false false 0 0 0 0xFFFFFFFF80000000),
      .iadd (tf 2 0 false 4 8 0 0 false false false false 0 0 0 0x80000000_00000000)),
    (.call (tf 3 0 false 8 4 0 0 false false false false 0 0 0x263 0x12340), .call (tf 3 0 false 8 4 0 0 false false false false 0 0 0x263 0x12342)),
    (.ld (f1 4 8 0 0 0 16), .ld (tf 3 0 false 4 8 0 0 false false false false 0 0 16 1))] = true := by decide

/-- GP and GN (R233), HOLD (R232), fields that no word of the form holds (R230), an entry's own rule (ERET: R270). -/
theorem test_wf_guard : wfPairs [
    (.iadd (tf 1 7 false 4 8 10 0 false false false false 0 0 0 0), .iadd (tf 1 7 true 4 8 10 0 false false false false 0 0 0 0)),
    (.iadd (tf 1 0 false 4 8 10 0 false false false false 2 0 0 0), .iadd (tf 1 0 false 4 8 10 0 false false false false 3 0 0 0)),
    (.iadd (f0 63 8 10), .iadd (f0 64 8 10)),
    (.iadd (f0 4 8 10), .iadd (tf 0 0 true 4 8 10 0 false false false false 0 0 0 0)),
    (.iadd (f0 4 8 10), .iadd (tf 0 0 false 4 8 10 0 false false false false 0 0 0 1)),
    (.eret (f7 0 0 0), .eret (f0 0 0 0))] = true := by decide

/-! ### One step, expected values from the spec's examples and tables, or by hand -/

/-- The strand with registers set in lanes 0 to 2 (v1 and v2 not in lane 3). -/
def tWith (regs : List (Nat × Nat)) : Strand := regs.foldl (fun st p => tPut st p.1 fun _ => p.2) tSt
/-- Lane 0's registers r to r + n − 1 and %fpflags after a well-formed instruction, none where it does not complete or they are poisoned. -/
def outN (i : Instr) (regs : List (Nat × Nat)) (r n : Nat) : Option (List Nat × Flags) :=
  if i.wf then
    match exec i (tState (tCore (tWith regs))) with
    | .next t => (getStrand t 0 0).bind fun st =>
        if (List.range n).any fun k => (readV st (r + k) 0).p then none
        else some ((List.range n).map fun k => (readV st (r + k) 0).v.toNat, (lane st 0).fpflags)
    | _ => none
  else none
def out4 (i : Instr) (regs : List (Nat × Nat)) : Option (List Nat × Flags) := outN i regs 4 1
/-- Lane 0's predicate 1 after an instruction. -/
def outP (i : Instr) (regs : List (Nat × Nat)) : Option Bool :=
  if i.wf then
    match exec i (tState (tCore (tWith regs))) with
    | .next t => (getStrand t 0 0).map fun st => (lane st 0).p.getLsbD 1
    | _ => none
  else none
/-- v4 := v1 op v2 op v3. -/
def g3 (md : BitVec 11) (aux : BitVec 32) : Form := f1 4 1 2 3 md aux
def g2 (md : BitVec 11) (aux : BitVec 32) : Form := f1 4 1 2 0 md aux
def g1 (md : BitVec 11) (aux : BitVec 32) : Form := f1 4 1 0 0 md aux
def p2 (md : BitVec 11) : Form := f1 1 1 2 0 md 0

/-- R280's examples: saturation sets ISAT, wrapping does not. -/
theorem test_iadd : out4 (.iadd (g2 0x40 0)) [(1, 0x7FFFFFFF), (2, 1)] = some ([0x7FFFFFFF], fISAT) ∧
    out4 (.iadd (g2 0 0)) [(1, 0x7FFFFFFF), (2, 1)] = some ([0x80000000], 0) := by decide
theorem test_isub : out4 (.isub (g2 0x41 0)) [(1, 3), (2, 5)] = some ([0], fISAT) ∧
    outN (.isub (f1 4 8 10 0 3 0)) [(8, 0), (9, 1), (10, 1), (11, 0)] 4 2 = some ([0xFFFFFFFF, 0], 0) := by decide
theorem test_imin_imax : out4 (.imin (g2 0 0)) [(1, 0xFFFFFFFF), (2, 1)] = some ([0xFFFFFFFF], 0) ∧
    out4 (.imax (g2 1 0)) [(1, 0xFFFFFFFF), (2, 1)] = some ([0xFFFFFFFF], 0) := by decide
theorem test_iabs_ineg : out4 (.iabs (g1 0x40 0)) [(1, 0x80000000)] = some ([0x7FFFFFFF], fISAT) ∧
    out4 (.ineg (g1 0 0)) [(1, 5)] = some ([0xFFFFFFFB], 0) := by decide
theorem test_isad : out4 (.isad (g3 1 0)) [(1, 3), (2, 10), (3, 100)] = some ([107], 0) := by decide
theorem test_imul_imulh : out4 (.imul (g2 0x40 0)) [(1, 0x10000), (2, 0xFFFF0000)] = some ([0x80000000], fISAT) ∧
    out4 (.imulh (g2 0 0)) [(1, 0xFFFFFFFF), (2, 2)] = some ([0xFFFFFFFF], 0) := by decide
theorem test_imad_imulw : out4 (.imad (g3 0 0)) [(1, 0xFFFFFFFF), (2, 7), (3, 10)] = some ([3], 0) ∧
    outN (.imulw (g2 0 0)) [(1, 0xFFFFFFFF), (2, 2)] 4 2 = some ([0xFFFFFFFE, 0xFFFFFFFF], 0) := by decide
/-- Division truncates towards zero; the corners are R216's. -/
theorem test_idiv_irem : out4 (.idiv (g2 0 0)) [(1, 0xFFFFFFF9), (2, 2)] = some ([0xFFFFFFFD], 0) ∧
    out4 (.irem (g2 0 0)) [(1, 0xFFFFFFF9), (2, 2)] = some ([0xFFFFFFFF], 0) := by decide

theorem test_logic : out4 (.andn (g2 0 0)) [(1, 0xFF), (2, 0x0F)] = some ([0xF0], 0) ∧ out4 (.not (g1 0 0)) [(1, 0xFF)] = some ([0xFFFFFF00], 0) ∧
    out4 (.and (g2 0 0)) [(1, 0xC), (2, 0xA)] = some ([8], 0) ∧ out4 (.or (g2 0 0)) [(1, 0xC), (2, 0xA)] = some ([0xE], 0) ∧
    out4 (.xor (g2 0 0)) [(1, 0xC), (2, 0xA)] = some ([6], 0) := by decide
/-- R282's example. -/
theorem test_blut : out4 (.blut (g3 0 0xCA)) [(1, 0x12345678), (2, 0x9ABCDEF0), (3, 0xFFFF0000)] = some ([0x9ABC5678], 0) := by decide
theorem test_shifts : out4 (.shl (g2 0 0)) [(1, 3), (2, 33)] = some ([6], 0) ∧ out4 (.shr (g2 0 0)) [(1, 0x80000000), (2, 4)] = some ([0x08000000], 0) ∧
    out4 (.sar (g2 1 0)) [(1, 0x80000000), (2, 4)] = some ([0xF8000000], 0) ∧ out4 (.rotl (g2 0 0)) [(1, 0x80000001), (2, 4)] = some ([0x18], 0) ∧
    out4 (.rotr (g2 0 0)) [(1, 0x80000001), (2, 4)] = some ([0x18000000], 0) := by decide
/-- R281's example. -/
theorem test_funnel : out4 (.fshl (g3 0 0)) [(1, 0x12345678), (2, 0x9ABCDEF0), (3, 8)] = some ([0x3456789A], 0) ∧
    out4 (.fshr (g3 0 0)) [(1, 0x12345678), (2, 0x9ABCDEF0), (3, 8)] = some ([0x789ABCDE], 0) := by decide
theorem test_bits : out4 (.clz (g1 0 0)) [(1, 0)] = some ([32], 0) ∧ out4 (.ctz (g1 0 0)) [(1, 0x50)] = some ([4], 0) ∧
    out4 (.popc (g1 0 0)) [(1, 0xF00F)] = some ([8], 0) ∧ out4 (.brev (g1 0 0)) [(1, 0x3)] = some ([0xC0000000], 0) := by decide
/-- R284's examples. -/
theorem test_bfe : out4 (.bfe (g2 0 0)) [(1, 0xF0F01234), (2, 0x081C)] = some ([0xFFFFFFFF], 0) ∧
    out4 (.bfe (g2 1 0)) [(1, 0xF0F01234), (2, 0x081C)] = some ([0xF], 0) := by decide
theorem test_bfi : out4 (.bfi (g3 0 0)) [(1, 0xAB), (2, 0x0804), (3, 0xFFFFFFFF)] = some ([0xFFFFFABF], 0) := by decide
theorem test_icmp : outP (.icmp (p2 0x20)) [(1, 0xFFFFFFFF), (2, 0)] = some true ∧ outP (.icmp (p2 0x21)) [(1, 0xFFFFFFFF), (2, 0)] = some false := by
  decide
/-- R291's examples. -/
theorem test_cvti : out4 (.cvti (g1 9 0)) [(1, 0xFFFFFF38)] = some ([0x38], 0) ∧ out4 (.cvti (g1 0 10)) [(1, 0x123456F0)] = some ([240], 0) := by decide

/-- 1 + 2 = 3; the largest f32 doubled overflows; a tie goes to even. -/
theorem test_fadd : out4 (.fadd (g2 4 0)) [(1, 0x3F800000), (2, 0x40000000)] = some ([0x40400000], 0) ∧
    out4 (.fadd (g2 4 0)) [(1, 0x4B800000), (2, 0x3F800000)] = some ([0x4B800000], fNX) := by decide
theorem test_fsub_fmul : out4 (.fsub (g2 4 0)) [(1, 0x7F800000), (2, 0x7F800000)] = some ([0x7FC00000], fNV) ∧
    out4 (.fmul (g2 4 0)) [(1, 0x7F7FFFFF), (2, 0x40000000)] = some ([0x7F800000], fOF ||| fNX) := by decide
theorem test_ffma : out4 (.ffma (g3 4 0)) [(1, 0x3F800001), (2, 0x3F800001), (3, 0xBF800002)] = some ([0x28800000], 0) := by decide +kernel
theorem test_fdiv_fsqrt : out4 (.fdiv (g2 4 0)) [(1, 0x3F800000), (2, 0)] = some ([0x7F800000], fDZ) ∧
    out4 (.fsqrt (g1 4 0)) [(1, 0x40800000)] = some ([0x40000000], 0) := by decide +kernel
theorem test_fcmp : outP (.fcmp (p2 4)) [(1, 0), (2, 0x80000000)] = some true ∧ outP (.fcmp (p2 0x24)) [(1, 0x7FC00000), (2, 0)] = some false := by
  decide
/-- R214: 65,520 overflows f16; 2^−25 ties to zero. -/
theorem test_cvtf : out4 (.cvtf (g1 5 4)) [(1, 0x477FF000)] = some ([0x7C00], fOF ||| fNX) ∧
    out4 (.cvtf (g1 5 4)) [(1, 0x33000000)] = some ([0], fUF ||| fNX) := by decide
/-- R214: a NaN gives 0 and NV; −0.5 to unsigned towards zero gives 0 and NX. -/
theorem test_cvtfi : out4 (.cvtfi (g1 0 4)) [(1, 0x7FC00000)] = some ([0], fNV) ∧ out4 (.cvtfi (g1 0x11 4)) [(1, 0xBF000000)] = some ([0], fNX) := by
  decide
theorem test_cvtif : out4 (.cvtif (g1 4 0)) [(1, 0x01000001)] = some ([0x4B800000], fNX) := by decide
/-- R292: no flag but NV; −0.3 gives −0. -/
theorem test_frnd : out4 (.frnd (g1 4 0)) [(1, 0x40200000)] = some ([0x40000000], 0) ∧ out4 (.frnd (g1 4 0)) [(1, 0xBE99999A)] = some ([0x80000000], 0) := by
  decide
/-- R298's example. -/
theorem test_hpfma : out4 (.hpfma (g3 0 0)) [(1, 0x3C007BFF), (2, 0x3C004000), (3, 0)] = some ([0x3C007C00], fOF ||| fNX) := by decide
/-- R217's example, wrapping and saturating. -/
theorem test_dot4 : out4 (.dot4 (g3 1 0)) [(1, 0x7F0302FF), (2, 0x020101FF), (3, 0x7FFFFFFF)] = some ([0x80000003], 0) ∧
    out4 (.dot4 (g3 0x41 0)) [(1, 0x7F0302FF), (2, 0x020101FF), (3, 0x7FFFFFFF)] = some ([0x7FFFFFFF], fISAT) := by decide
/-- R302's and R303's examples. -/
theorem test_pack : out4 (.pack (g2 0 9)) [(1, 0x02030001), (2, 0x04050607)] = some ([0x05070301], 0) := by decide
theorem test_unpack : outN (.unpack (f1 8 1 0 0 0 9)) [(1, 0x80FF017F)] 8 4 = some ([127, 1, 0xFFFFFFFF, 0xFFFFFF80], 0) := by decide
/-- R224: fold. -/
theorem test_fold : foldSig 0x1000000000000000 2 0 = 0x2002 ∧ foldSig 0x2002 3 0 = 0x40040003 := by decide
/-- R226: the vector for key 0 and counter 0. -/
theorem test_rng : rng32 0 0 = 0x534C6401 := by decide

/-! Frames, regions, matrices, candidates: the spec's worked cases -/

/-- R80: the caller has granules 0x013 and 0x007, other strands 8 more; the callee gets the four lowest free. -/
def tCaller : Strand :=
  { tWith [(4, 7), (5, 8), (6, 9)] with frames := (tWith [(4, 7), (5, 8), (6, 9)]).frames.map fun g => { g with gran := 2, phys := [0x13, 0x7] } }
def tOthers : Strand := newStrand 5 6 8 [0, 1, 3, 4, 6, 8, 0xA, 0xB] 0x10000 0 0 0
def fCall3 : Form := tf 3 7 false 8 4 0 0 false false false false 0 0 0x263 0x12340
def tCalled : Option Strand :=
  match exec (.call fCall3) (tState { tCore tCaller with strands := [(0, tCaller), (1, tOthers)] }) with
  | .next t => getStrand t 0 0
  | _ => none

set_option maxRecDepth 10000 in
theorem test_call : (tCalled.map fun st => st.frames.map fun g => (g.gran, g.phys)) = some [(4, [0x2, 0x5, 0x9, 0xC]), (2, [0x13, 0x7])] ∧
    (tCalled.map fun st => [0, 1, 2, 3].map fun r => (readV st r 0).v.toNat) = some [7, 8, 9, 0] ∧
    (tCalled.map fun st => ((lane st 0).pcv, st.frames.map fun g => (g.rbase, g.rcnt, g.raddr))) = some (0x12340, [(0, 0, 0), (8, 1, 0x10014)]) := by
  decide

/-- The words of R77, R142's table and R319: RET, UNWIND #2, CALL, LD.b64.dir, ST. -/
theorem test_words : decodesAll [
    w ⟨0xE0000404, 0, 0, 0, 0⟩ .ret (f7 0 0 0), w ⟨0xE0040504, 0, 0, 0, 0⟩ .unwind (f7 0 2 0),
    w ⟨0xE0084207, 0, 0x263, 0x12340, 0⟩ .call fCall3,
    w ⟨0xE01020C1, 0x80A00000, 0x10, 0, 0⟩ .ld (tf 1 7 false 4 8 0 0 false false false false 0 0x405 16 0),
    w ⟨0xE29000C4, 0, 0, 0, 0⟩ .st (tf 0 7 false 0 8 5 0 false false false false 0 0xF 0 0),
    w ⟨0xE1022529, 0xC0, 0xCA, 0, 0⟩ .blut (tf 1 7 false 4 1 2 3 false false false false 0 0 0xCA 0),
    w ⟨0xE2884821, 0x08000000, 0, 0, 0⟩ .iadd (tf 1 7 false 9 4 5 0 false false false false 0 0x40 0 0)] = true := by decide

/-- R148's layout: element (5, 70) at 0x46A of its window; a touch of chunk 2 asks for 2, 3, 0, 1. -/
def tLayout : Region := Region.mk 0x10000 0x4000 3 2 true false false .absent 128 8 1 0x400 0 0 false false 0 0 false [] (0, 0, 0) []
set_option exponentiation.threshold 600 in
set_option maxRecDepth 4000 in
theorem test_region : elemAt tLayout (0x46A / 2) = (0, 5, 70) ∧ fillOrder tLayout 2 = [2, 3, 0, 1] ∧ regionData tLayout = 2048 := by decide

/-- R219's sum: A is 1 by 20 (2^12, 1, 1, 0, …, 1, 1, 1), B is 20 by 1 the same; halves of two elements in one word. -/
def tRow : SMap RVal :=
  [(0, 0x3F804580), (1, 0x3F80), (8, 0x3F803F80), (9, 0x3F80)].foldl
    (fun m p => sset RVal.zero (sset RVal.zero m (tileKey 1 p.1) ⟨p.2, false⟩) (tileKey 2 p.1) ⟨p.2, false⟩) []
theorem test_mma : (mmaElem tRow 3 1 2 fmtF32 fmtBf16 fmtBf16 20 1 (fun _ => none) (fun _ => none) 0 0).1 = 0x4B800002 := by decide +kernel

/-- R355's lanes: outcome, value, fuel left. The record's words are 7, 0, 0, 0. -/
def tCand (a b : Word) : Nat × Nat × Nat :=
  let e := candExample true (fun w => ⟨if w = 0 then a else if w = 1 then b else 0, false⟩) 4 8 fun i => ⟨if i = 0 then 7 else 0, false⟩
  (e.1, e.2.1.toNat, e.2.2.fuel)
theorem test_trial : tCand 0xE0801324 0xE00401F8 = (3, 0, 7) ∧ tCand 0xE00012F8 0xE00401F8 = (4, 0, 7) ∧ tCand 0xE0000004 0 = (1, 0, 0) ∧
    tCand 0xE0000020 0xE00001F8 = (0, 14, 6) ∧ tCand 0xE0008020 0 = (2, 0, 8) ∧ tCand 0xE0000024 0xE00001F8 = (0, 49, 6) := by decide +kernel

/-! Traps: the worked case of R359's precedence -/

/-- Lanes 0 to 3 load through pointers with tag 3 to a granule of M = 3, tag 3 to one of M = 5, of no pointer's form, to an absent page. -/
def tLoads : Strand :=
  let st := { tSt with lanes := (List.range 32).map fun l => if l < 4 then { Lane.idle with pcv := 0x10000, st := .ready } else Lane.idle }
  [(0, (0x10100, 0x3000000)), (1, (0x10120, 0x3000000)), (2, (0x10100, 0x10000000)), (3, (0x90000, 0))].foldl
    (fun st (p : Nat × Nat × Nat) => writeV (writeV st 8 p.1 ⟨BitVec.ofNat 32 p.2.1, false⟩) 9 p.1 ⟨BitVec.ofNat 32 p.2.2, false⟩) st
def tAll4 : Cur := { core := 0, slot := 0, pc := 0x10000, mask := 15, w0 := 0xE01020C0, ilen := 1, mm1 := 0, mm2 := 0 }
def tTrapS : State :=
  let x := { tCore tLoads with trapctl := 0x10, trapvec := 0x5000 }
  { tState x with
    cur := some tAll4, walks := [{ tWalk 0 .posted with page := 9 }], tags := [(0x808, 3), (0x809, 5)],
    tlbs := [{ die := 0, ctx := 0, base := progBase, e := { progPte with tag := true } }] }
def tTrapped : State := match exec (.ld (tf 0 7 false 4 8 0 0 false false false false 0 0xF 0 0)) tTrapS with | .next t => t | _ => State.reset

/-- TAG is TRAP, and the handler frame is free: lane 1's trap is entered. Lane 2 exits, lane 0 goes on, lane 3 stays parked behind it. -/
theorem test_trap : ((getStrand tTrapped 0 0).bind fun st => st.handler.map fun h => (h.ecause, h.emask, h.eword)) = some (0x107, 2, 0xE01020C0) ∧
    ((getStrand tTrapped 0 0).map fun st => [0, 1, 3].map fun l => ((lane st l).epc, (lane st l).pcv)) =
      some [(0x10004, 0x5000), (0x10000, 0x5000), (0x10000, 0x5000)] ∧
    ((getStrand tTrapped 0 0).map fun st => ((lane st 2).st, (lane st 1).eaddr, (lane st 0).sst, (lane st 3).sst)) =
      some (.exited, 0x0300000000010120, .ready, .faultParked 5 0x90000 0xE01020C0) := by decide

end Sys2Proof.Tests
end

section
/-! PROOFS. Integer fields and their delivery (R216, R280), and the elements of a ternary product (R223). -/

namespace Sys2Proof.Machine

/-! ### Fields read and delivered -/

/-- Reading a field by its sign is reading its word in two's complement. -/
theorem readInt_true_eq_toInt (n w : Nat) : readInt n w true = (BitVec.ofNat w n).toInt := by
  simp only [readInt, Bool.true_and, decide_eq_true_eq, BitVec.toInt_eq_toNat_cond, BitVec.toNat_ofNat]
  have hcast : ((2 ^ w : Nat) : Int) = 2 ^ w := Nat.cast_pow 2 w
  cases w with
  | zero => simp [Nat.mod_one]
  | succ w =>
    have hhalf : 2 ^ (w + 1 - 1) ≤ n % 2 ^ (w + 1) ↔ ¬ 2 * (n % 2 ^ (w + 1)) < 2 ^ (w + 1) := by
      rw [Nat.add_sub_cancel, pow_succ]
      omega
    rw [if_congr hhalf rfl rfl, ite_not, hcast]

/-- A type of w bits has 2^w integers. -/
theorem intMax_eq {w : Nat} (sgn : Bool) (hw : 0 < w) : intMax w sgn = intMin w sgn + 2 ^ w - 1 := by
  cases sgn with
  | false => simp [intMin, intMax]
  | true =>
    obtain ⟨v, rfl⟩ := Nat.exists_eq_add_one.2 hw
    simp only [intMin, intMax, if_true, Nat.add_sub_cancel, pow_succ]
    ring

theorem intMin_le_intMax (w : Nat) (sgn : Bool) : intMin w sgn ≤ intMax w sgn := by
  have hlo : (0 : Int) < 2 ^ (w - 1) := by positivity
  have hhi : (0 : Int) < 2 ^ w := by positivity
  cases sgn with
  | false => exact Int.le_sub_one_of_lt hhi
  | true => simp only [intMin, intMax, if_true]; omega

/-- A field read by its sign differs from its number by a multiple of 2^w. -/
theorem dvd_readInt_sub (n w : Nat) (sgn : Bool) : (2 ^ w : Int) ∣ readInt n w sgn - n := by
  have hmod : (2 ^ w : Int) ∣ ((n % 2 ^ w : Nat) : Int) - n := by
    push_cast
    exact Int.dvd_emod_sub_self
  simp only [readInt]
  split
  · rw [sub_right_comm]
    exact dvd_sub_self_right.2 hmod
  · exact hmod

/-- A field read is an integer of its type. -/
theorem readInt_mem (n : Nat) {w : Nat} (sgn : Bool) (hw : 0 < w) : intMin w sgn ≤ readInt n w sgn ∧ readInt n w sgn ≤ intMax w sgn := by
  obtain ⟨v, rfl⟩ := Nat.exists_eq_add_one.2 hw
  have hlt : n % 2 ^ (v + 1) < 2 ^ (v + 1) := Nat.mod_lt _ (by positivity)
  cases sgn with
  | false =>
    zify at hlt
    simp only [readInt, intMin, intMax, Bool.false_and, Bool.false_eq_true, if_false, Int.natCast_emod]
    push_cast
    omega
  | true =>
    simp only [readInt, intMin, intMax, Bool.true_and, decide_eq_true_eq, if_true, Nat.add_sub_cancel]
    generalize n % 2 ^ (v + 1) = q at *
    have hcast : ((2 ^ v : Nat) : Int) = 2 ^ v := Nat.cast_pow 2 v
    rw [pow_succ] at *
    split <;> omega

/-- The integer of the type nearest to x (R280). -/
def clampInt (w : Nat) (sgn : Bool) (x : Int) : Int := max (intMin w sgn) (min (intMax w sgn) x)

theorem intMin_le_clampInt (w : Nat) (sgn : Bool) (x : Int) : intMin w sgn ≤ clampInt w sgn x := le_max_left _ _

theorem clampInt_le_intMax (w : Nat) (sgn : Bool) (x : Int) : clampInt w sgn x ≤ intMax w sgn :=
  max_le (intMin_le_intMax w sgn) (min_le_left _ _)

theorem flagIf_or (p q : Bool) (f : Flags) : flagIf p f ||| flagIf q f = flagIf (p || q) f := by
  cases p <;> cases q <;> simp [flagIf]

theorem deliverInt_wrap (x : Int) (w : Nat) (sgn : Bool) : deliverInt x w sgn false = (wrapInt x w, 0) := rfl

theorem deliverInt_sat (x : Int) (w : Nat) (sgn : Bool) :
    deliverInt x w sgn true = (wrapInt (clampInt w sgn x) w, flagIf (clampInt w sgn x != x) fISAT) := by
  have hr : (if x < intMin w sgn then intMin w sgn else if intMax w sgn < x then intMax w sgn else x) = clampInt w sgn x := by
    have := intMin_le_intMax w sgn
    unfold clampInt
    split
    · omega
    · split <;> omega
  simp only [deliverInt, if_true, hr]

/-- A delivered word is the integer's remainder. -/
theorem toNat_wrapInt (x : Int) {w : Nat} (hw : w ≤ 64) : ((wrapInt x w).toNat : Int) = x % 2 ^ w := by
  have hpos : (0 : Int) < 2 ^ w := by positivity
  have hle : (2 : Int) ^ w ≤ 2 ^ 64 := pow_le_pow_right₀ (by norm_num) hw
  have hlt := Int.emod_lt_of_pos x hpos
  rw [wrapInt, BitVec.toNat_ofNat, Nat.mod_eq_of_lt (by omega), Int.toNat_of_nonneg (Int.emod_nonneg x hpos.ne')]

theorem toNat_wrapInt_lt (x : Int) {w : Nat} (hw : w ≤ 64) : (wrapInt x w).toNat < 2 ^ w := by
  have := Int.emod_lt_of_pos x (show (0 : Int) < 2 ^ w by positivity)
  rw [← toNat_wrapInt x hw] at this
  exact_mod_cast this

/-- An integer of the type, delivered and read again: the two agree modulo 2^w, and the type has 2^w integers. -/
theorem readInt_wrapInt {x : Int} {w : Nat} {sgn : Bool} (hpos : 0 < w) (hw : w ≤ 64) (hlo : intMin w sgn ≤ x) (hhi : x ≤ intMax w sgn) :
    readInt (wrapInt x w).toNat w sgn = x := by
  obtain ⟨hlo', hhi'⟩ := readInt_mem (wrapInt x w).toNat sgn hpos
  have hcount := intMax_eq sgn hpos
  have hdvd : (2 ^ w : Int) ∣ readInt (wrapInt x w).toNat w sgn - x := by
    have hread := dvd_readInt_sub (wrapInt x w).toNat w sgn
    have hwrap : (2 ^ w : Int) ∣ x % 2 ^ w - x := Int.dvd_emod_sub_self
    rw [← toNat_wrapInt x hw] at hwrap
    simpa using dvd_add hread hwrap
  exact sub_eq_zero.1 (Int.eq_zero_of_abs_lt_dvd hdvd (abs_lt.2 ⟨by omega, by omega⟩))

theorem readInt_deliverInt_sat (x : Int) {w : Nat} (sgn : Bool) (hpos : 0 < w) (hw : w ≤ 64) :
    readInt (deliverInt x w sgn true).1.toNat w sgn = clampInt w sgn x := by
  rw [deliverInt_sat]
  exact readInt_wrapInt hpos hw (intMin_le_clampInt w sgn x) (clampInt_le_intMax w sgn x)

theorem tileElem_lt (m : SMap RVal) (t w e : Nat) : (tileElem m t w e).1 < 2 ^ w := Nat.mod_lt _ (by positivity)

/-! ### Groups of sixteen -/

/-- The sum of f over group g of the indices below k. -/
def groupTotal (k : Nat) (f : Nat → Int) (g : Nat) : Int :=
  (((List.range k).filter fun n => decide (n / 16 = g)).map f).sum

/-- The indices that group g starts at 16 g and takes in a row are those below k whose sixteenth is g. -/
theorem group_indices (k g : Nat) :
    ((List.range (min 16 (k - 16 * g))).map fun j => 16 * g + j) = (List.range k).filter fun n => decide (n / 16 = g) := by
  induction k with
  | zero => simp
  | succ k ih =>
    rw [List.range_succ, List.filter_append, ← ih]
    by_cases hg : k / 16 = g
    · have hlen : min 16 (k + 1 - 16 * g) = min 16 (k - 16 * g) + 1 := by omega
      have hlast : 16 * g + min 16 (k - 16 * g) = k := by omega
      simp [hlen, List.range_succ, hg, hlast]
    · have hlen : min 16 (k + 1 - 16 * g) = min 16 (k - 16 * g) := by omega
      simp [hlen, hg]

theorem groupsOf_eq (k : Nat) :
    groupsOf k = (List.range ((k + 15) / 16)).map fun g => (g, (List.range k).filter fun n => decide (n / 16 = g)) := by
  simp only [groupsOf, group_indices]

/-- A list's sum is the sum of the sums of its parts with key g, for g below a bound of the keys. -/
theorem sum_groups_eq_sum (key : Nat → Nat) (f : Nat → Int) (b : Nat) (l : List Nat) (hb : ∀ n ∈ l, key n < b) :
    ((List.range b).map fun g => ((l.filter fun n => decide (key n = g)).map f).sum).sum = (l.map f).sum := by
  induction l with
  | nil => simp
  | cons x l ih =>
    have hx : key x < b := hb x List.mem_cons_self
    have hsplit : ∀ g, (((x :: l).filter fun n => decide (key n = g)).map f).sum =
        (if g = key x then f x else 0) + ((l.filter fun n => decide (key n = g)).map f).sum := by
      intro g
      by_cases hg : key x = g
      · simp [hg]
      · simp [hg, Ne.symm hg]
    simp only [hsplit, List.sum_map_add, ih fun n hn => hb n (List.mem_cons_of_mem x hn), List.map_cons, List.sum_cons]
    congr 1
    rw [List.sum_map_ite_eq]
    simp [List.count_eq_one_of_mem List.nodup_range (List.mem_range.2 hx)]

theorem sum_groupTotal (k : Nat) (f : Nat → Int) :
    ((List.range ((k + 15) / 16)).map (groupTotal k f)).sum = ((List.range k).map f).sum :=
  sum_groups_eq_sum (· / 16) f _ _ fun n hn => by have := List.mem_range.1 hn; omega

/-! ### The accumulator of an element of MTRN -/

/-- The accumulator's word and the flags when a group's sum s has been added (R223). -/
def addGroup (sat : Bool) (a : Nat × Flags) (s : Int) : Nat × Flags :=
  let n := deliverInt (readInt a.1 32 true + s) 32 true sat
  (n.1.toNat, a.2 ||| n.2)

/-- The accumulator's word and the flags after the first g groups. -/
def addGroups (sat : Bool) (s : Nat → Int) (a : Nat × Flags) (g : Nat) : Nat × Flags :=
  (List.range g).foldl (fun a h => addGroup sat a (s h)) a

@[simp] theorem addGroups_zero (sat : Bool) (s : Nat → Int) (a : Nat × Flags) : addGroups sat s a 0 = a := rfl

theorem addGroups_succ (sat : Bool) (s : Nat → Int) (a : Nat × Flags) (g : Nat) :
    addGroups sat s a (g + 1) = addGroup sat (addGroups sat s a g) (s g) := by
  simp [addGroups, List.range_succ]

/-- The clamped sum of the first g terms from y on. -/
def clampedSum (s : Nat → Int) (y : Int) (g : Nat) : Int := (List.range g).foldl (fun y h => clampInt 32 true (y + s h)) y

theorem clampedSum_succ (s : Nat → Int) (y : Int) (g : Nat) :
    clampedSum s y (g + 1) = clampInt 32 true (clampedSum s y g + s g) := by
  simp [clampedSum, List.range_succ]

theorem addGroup_fst_lt (sat : Bool) (a : Nat × Flags) (s : Int) : (addGroup sat a s).1 < 2 ^ 32 := by
  cases sat with
  | false => exact toNat_wrapInt_lt _ (by norm_num)
  | true => rw [addGroup, deliverInt_sat]; exact toNat_wrapInt_lt _ (by norm_num)

theorem addGroups_fst_lt (sat : Bool) (s : Nat → Int) {a : Nat × Flags} (ha : a.1 < 2 ^ 32) (g : Nat) : (addGroups sat s a g).1 < 2 ^ 32 := by
  cases g with
  | zero => exact ha
  | succ g => rw [addGroups_succ]; exact addGroup_fst_lt _ _ _

theorem addGroup_wrap_fst (a : Nat × Flags) (s : Int) : (2 ^ 32 : Int) ∣ (addGroup false a s).1 - (a.1 + s) := by
  have hstep : ((addGroup false a s).1 : Int) = (readInt a.1 32 true + s) % 2 ^ 32 := toNat_wrapInt _ (by norm_num)
  have hread := dvd_readInt_sub a.1 32 true
  omega

theorem addGroup_wrap_snd (a : Nat × Flags) (s : Int) : (addGroup false a s).2 = a.2 := BitVec.or_zero

theorem addGroup_sat_fst (a : Nat × Flags) (s : Int) :
    readInt (addGroup true a s).1 32 true = clampInt 32 true (readInt a.1 32 true + s) :=
  readInt_deliverInt_sat _ true (by norm_num) (by norm_num)

theorem addGroup_sat_snd (a : Nat × Flags) (s : Int) :
    (addGroup true a s).2 = a.2 ||| flagIf (decide (clampInt 32 true (readInt a.1 32 true + s) ≠ readInt a.1 32 true + s)) fISAT := by
  rw [addGroup, deliverInt_sat, decide_not, bne, beq_eq_decide]

/-- Without saturation the groups add up modulo 2^32. -/
theorem addGroups_wrap_fst (s : Nat → Int) (a : Nat × Flags) (g : Nat) :
    (2 ^ 32 : Int) ∣ (addGroups false s a g).1 - (a.1 + ((List.range g).map s).sum) := by
  induction g with
  | zero => simp
  | succ g ih =>
    have hstep := addGroup_wrap_fst (addGroups false s a g) (s g)
    rw [addGroups_succ, List.range_succ, List.map_append, List.sum_append, List.map_singleton, List.sum_singleton]
    omega

theorem addGroups_wrap_snd (s : Nat → Int) (a : Nat × Flags) (g : Nat) : (addGroups false s a g).2 = a.2 := by
  induction g with
  | zero => rfl
  | succ g ih => rw [addGroups_succ, addGroup_wrap_snd, ih]

/-- With saturation every partial sum is clamped. -/
theorem addGroups_sat_fst (s : Nat → Int) (a : Nat × Flags) (g : Nat) :
    readInt (addGroups true s a g).1 32 true = clampedSum s (readInt a.1 32 true) g := by
  induction g with
  | zero => rfl
  | succ g ih =>
    rw [addGroups_succ, addGroup_sat_fst, ih, clampedSum_succ]

/-- With saturation ISAT joins the flags when a partial sum was not exact. -/
theorem addGroups_sat_snd (s : Nat → Int) (a : Nat × Flags) (g : Nat) :
    (addGroups true s a g).2 = a.2 ||| flagIf ((List.range g).any fun h =>
      decide (clampedSum s (readInt a.1 32 true) (h + 1) ≠ clampedSum s (readInt a.1 32 true) h + s h)) fISAT := by
  induction g with
  | zero => exact BitVec.or_zero.symm
  | succ g ih =>
    rw [addGroups_succ, addGroup_sat_snd, addGroups_sat_fst, ih, BitVec.or_assoc, flagIf_or, ← clampedSum_succ, List.range_succ,
      List.any_append, List.any_cons, List.any_nil, Bool.or_false]

/-! ### The products -/

/-- The value of a ternary code (R208): the reserved code counts as 0. -/
def ternaryVal : Nat → Int
  | 1 => 1
  | 3 => -1
  | _ => 0

/-- Sign selection is the product by the code's value. -/
theorem ternaryVal_mul (c : Nat) (x : Int) : ternaryVal c * x = if c = 1 then x else if c = 3 then -x else 0 := by
  unfold ternaryVal
  split
  · simp
  · simp
  · rename_i h1 h3
    rw [zero_mul, if_neg h1, if_neg h3]

theorem readInt_byte {v : Nat} (hv : v < 256) (sgn : Bool) :
    readInt v 8 sgn = if sgn = false ∨ v < 128 then (v : Int) else (v : Int) - 256 := by
  have hmod : v % 2 ^ 8 = v := Nat.mod_eq_of_lt hv
  cases sgn with
  | false => simp only [readInt, hmod, Bool.false_and, Bool.false_eq_true, if_false, true_or, if_true]
  | true =>
    have hhalf : 2 ^ (8 - 1) ≤ v ↔ ¬ v < 128 := by omega
    simp only [readInt, hmod, Bool.true_and, decide_eq_true_eq, hhalf, ite_not, Bool.true_eq_false, false_or]
    norm_num

/-- Term n of element (i, j): the byte of B times the ternary value of A's code. -/
def mtrnTerm (m : SMap RVal) (a b : Nat) (md : BitVec 11) (k c i j n : Nat) : Int :=
  ternaryVal (tileElem m a 2 (i * k + n)).1 * readInt (tileElem m b 8 (n * c + j)).1 8 (!md.getLsbD 0)

theorem mtrnTerm_eq (m : SMap RVal) (a b : Nat) (md : BitVec 11) (k c i j : Nat) :
    mtrnTerm m a b md k c i j = fun n =>
      let x := readInt (tileElem m b 8 (n * c + j)).1 8 (!md.getLsbD 0)
      if (tileElem m a 2 (i * k + n)).1 = 1 then x else if (tileElem m a 2 (i * k + n)).1 = 3 then -x else 0 :=
  funext fun _ => ternaryVal_mul _ _

/-- An element of MTRN: the old element with its groups added, from the flags of the codes on. -/
theorem mtrnElem_eq (m : SMap RVal) (d a b : Nat) (md : BitVec 11) (k c i j : Nat) :
    let w (n : Nat) := tileElem m a 2 (i * k + n)
    let v (n : Nat) := tileElem m b 8 (n * c + j)
    let old := tileElem m d 32 (i * c + j)
    let r := addGroups (md.getLsbD 6) (groupTotal k (mtrnTerm m a b md k c i j))
      (old.1, flagIf ((List.range k).any fun n => decide ((w n).1 = 2)) fTCODE) ((k + 15) / 16)
    mtrnElem m d a b md k c i j = (r.1, old.2 || (List.range k).any fun n => (w n).2 || (v n).2, r.2) := by
  intro w v old r
  have hfold : r = (groupsOf k).foldl (fun acc g => addGroup (md.getLsbD 6) acc ((g.2.map (mtrnTerm m a b md k c i j)).sum))
      (old.1, flagIf ((List.range k).any fun n => decide ((w n).1 = 2)) fTCODE) := by
    rw [groupsOf_eq, List.foldl_map]; rfl
  rw [hfold, mtrnTerm_eq]
  rfl

/-- Settles O43: the element is its accumulator's run over the groups (`mtrnElem_eq`), which wraps or clamps step by step. -/
theorem ternaryProducts : Obligations.TernaryProducts := by
  unfold Obligations.TernaryProducts
  intro m d a b md k c i j old w v sign byte group groups s32 clamp acc code r
  have hterm : mtrnTerm m a b md k c i j = fun n => sign n * byte n := by
    funext n
    have hbyte : readInt (v n).1 8 (!md.getLsbD 0) = byte n := by
      simp only [readInt_byte (tileElem_lt m b 8 _), Bool.not_eq_false', byte, v]
    exact congrArg (ternaryVal (w n).1 * ·) hbyte
  have hr : r = _ := mtrnElem_eq m d a b md k c i j
  rw [hterm] at hr
  refine ⟨?_, ?_, fun hsat => ?_, fun hsat => ?_⟩
  · rw [hr]; exact addGroups_fst_lt _ _ (tileElem_lt m d 32 _) _
  · simp only [hr, Bool.or_eq_true, List.any_eq_true, List.mem_range, old, w, v]
  · rw [hr, hsat]
    refine ⟨?_, addGroups_wrap_snd _ _ _⟩
    rw [← sum_groupTotal]
    exact addGroups_wrap_fst _ _ _
  · have hacc : acc = clampedSum group (readInt old.1 32 true) := by
      rw [readInt_true_eq_toInt]; rfl
    rw [hr, hsat, hacc]
    refine ⟨?_, addGroups_sat_snd _ _ _⟩
    exact (readInt_true_eq_toInt _ _).symm.trans (addGroups_sat_fst _ _ _)

end Sys2Proof.Machine
end

section
/-! PROOFS. Lane flow: NOP, YIELD, SLEEP and the NOPRE bracket (R178, R247, R249 to R251). -/

namespace Sys2Proof.Machine

theorem nop_rule : StrandRule .nop (fun _ _ _ _ _ => True) (fun f s _ st u => withStrand s u (passed f st u)) := by
  intro f s x st u h he _
  rw [exec_nop]
  exact runStrand_clean h he _ (congrArg clean (doneStrand_skipped h.at_ h.canon f))

theorem yield_rule : StrandRule .yield (fun _ _ _ _ _ => True) (fun f s _ st u =>
    withStrand s u (modLanes (passed f st u) (execMask f st u) fun la => { la with st := .yielded })) := by
  intro f s x st u h he _
  rw [exec_yield]
  refine runStrand_clean h he _ (congrArg clean ?_)
  rw [modStrand_withStrand h.at_, passed_eq (st.wf_iff.1 h.canon).1]

theorem sleep_rule : StrandRule .sleep (fun _ _ _ _ _ => True) (fun f s _ st u =>
    withStrand s u (if f.sa.toNat * 64 + f.sb.toNat = 0 then passed f st u
      else waiting f st u (.sleep (64 * (f.sa.toNat * 64 + f.sb.toNat))))) := by
  intro f s x st u h he _
  rw [exec_sleep]
  refine runStrand_clean h he _ (congrArg clean ?_)
  show (if saSb f = 0 then _ else holdStrand _ u _ _ _) = withStrand s u (if saSb f = 0 then passed f st u else _)
  split_ifs
  · exact doneStrand_skipped h.at_ h.canon f
  · exact modStrand_withStrand h.at_ _ _

/-- A change of the strand that leaves its lanes alone, and then the end of the instruction. -/
theorem doneStrand_modStrand {i : Instr} {f : Form} {s : State} {x : Core} {st : Strand} {u : Cur} (h : Issues i f s x st u)
    {g : Strand → Strand} (hg : ∀ t m n, advLanes (g t) m n = g (advLanes t m n)) :
    doneStrand (modStrand (withStrand s u (skipped f st u)) u.core u.slot g) u f (execMask f st u) = withStrand s u (g (passed f st u)) := by
  rw [modStrand_withStrand h.at_, doneStrand, modStrand_withStrand h.at_, hg, passed_eq (st.wf_iff.1 h.canon).1]

theorem openBracket_eq (t : Strand) :
    (if t.nopre then t else { t with nopre := true, npc := 0 }) = { t with nopre := true, npc := if t.nopre then t.npc else 0 } := by
  rcases t with ⟨⟩
  split_ifs with hb
  · simp_all
  · simp_all

theorem closeBracket_eq (t : Strand) :
    (if t.nopre then { t with nopre := false, npc := 0 } else t) = { t with nopre := false, npc := if t.nopre then 0 else t.npc } := by
  rcases t with ⟨⟩
  split_ifs with hb
  · simp_all
  · simp_all

theorem nopre_rule : StrandRule .nopre (fun _ _ _ _ _ => True) (fun f s _ st u =>
    withStrand s u { passed f st u with nopre := true, npc := if st.nopre then st.npc else 0 }) := by
  intro f s x st u h he _
  rw [exec_nopre]
  refine runStrand_clean h he _ (congrArg clean ?_)
  rw [funext openBracket_eq]
  exact doneStrand_modStrand h fun _ _ _ => rfl

theorem preok_rule : StrandRule .preok (fun _ _ _ _ _ => True) (fun f s _ st u =>
    withStrand s u { passed f st u with nopre := false, npc := if st.nopre then 0 else st.npc }) := by
  intro f s x st u h he _
  rw [exec_preok]
  refine runStrand_clean h he _ (congrArg clean ?_)
  rw [funext closeBracket_eq]
  exact doneStrand_modStrand h fun _ _ _ => rfl

/-- Settles O17: each instruction changes only its strand, whose idle lanes have passed (`runStrand_clean`). -/
theorem strandFlow : Obligations.StrandFlow :=
  ⟨nop_rule, yield_rule, sleep_rule, nopre_rule, preok_rule⟩

end Sys2Proof.Machine
end

section
/-! PROOFS. Branches: BRA and BRI (R252, R253). -/

namespace Sys2Proof.Machine

/-! ### The strand in the issuing slot -/

theorem getStrand_withStrand {s : State} {x : Core} {st : Strand} {u : Cur} (h : issuer s = some (x, st, u)) (st' : Strand) :
    getStrand (withStrand s u st') u.core u.slot = some st' := by
  simp [getStrand, getCore_withStrand h, aget_aput_same]

/-- A strand that waits for nothing has issued. -/
theorem notIssued_withStrand {s : State} {x : Core} {st st' : Strand} {u : Cur} (h : issuer s = some (x, st, u)) (hold : st'.hold = none) :
    notIssued (withStrand s u st') u = false := by
  simp [notIssued, getStrand_withStrand h, hold]

/-- A strand instruction that changes its strand, and whose executing lanes may fault. -/
theorem runStrand_raised {i : Instr} {f : Form} {s : State} {x : Core} {st st' : Strand} {u : Cur} (h : Issues i f s x st u)
    (he : execMask f st u ≠ 0) (hold : st'.hold = none) (k : State → Core → Strand → Cur → Word → Left) {bad : List LFault}
    (hr : k (withStrand s u (skipped f st u)) { x with strands := aput x.strands u.slot (skipped f st u) } (skipped f st u) u
      (execMask f st u) = (withStrand s u st', bad)) :
    runStrand i f s k = .next (raised (withStrand s u st') u bad) := by
  rw [runStrand_next h he k hr]
  simp [notIssued_withStrand h.at_ hold]

/-! ### Lanes that pass, jump or stay -/

/-- A lane that may have been changed by its place. -/
theorem getD_mapIdx {L : List Lane} {l : Nat} (h : l < L.length) (g : Nat → Lane → Lane) :
    (L.mapIdx g).getD l Lane.idle = g l (L.getD l Lane.idle) := by
  simp [List.getD_eq_getElem?_getD, h]

theorem inMask_idleMask_eq (f : Form) (st : Strand) (u : Cur) (l : Nat) :
    inMask (idleMask f st u) l = (inMask u.mask l && !executes f st u l) := by
  rw [inMask_idleMask, executes]
  cases inMask u.mask l <;> simp

theorem lanesOf_execMask (f : Form) (st : Strand) (u : Cur) : lanesOf (execMask f st u) = executing f st u :=
  List.filter_congr fun l _ => inMask_execMask f st u l

theorem lane_skipped {f : Form} {st : Strand} {u : Cur} (h : st.lanes.length = 32) {l : Nat} (hl : l < 32) :
    lane (skipped f st u) l = if inMask u.mask l && !executes f st u l then
      { lane st l with pcv := (lane st l).pcv + BitVec.ofNat 48 f.bytes } else lane st l := by
  rw [← inMask_idleMask_eq]
  exact lane_modLanes h _ hl _

theorem lane_jumped {f : Form} {st : Strand} {u : Cur} (h : st.lanes.length = 32) (t : Nat → BitVec 48) {l : Nat} (hl : l < 32) :
    lane (jumped f st u t) l = if executes f st u l then { lane st l with pcv := t l }
      else if inMask u.mask l then { lane st l with pcv := (lane st l).pcv + BitVec.ofNat 48 f.bytes } else lane st l :=
  getD_mapIdx (by omega) _

/-- Where no lane executes a jump, the lanes at the address pass it. -/
theorem passed_eq_jumped {f : Form} {st : Strand} {u : Cur} (h : st.lanes.length = 32) (he : execMask f st u = 0) (t : Nat → BitVec 48) :
    passed f st u = jumped f st u t := by
  have hl : (passed f st u).lanes = (jumped f st u t).lanes := by
    refine lanes_ext (by simp [passed, h]) (by simp [jumped, h]) fun l hl => ?_
    have hex : executes f st u l = false := by rw [← inMask_execMask, he, inMask_zero]
    have hj := lane_jumped (f := f) (u := u) h t hl
    rw [hex] at hj
    exact (lane_modLanes h u.mask hl _).trans hj.symm
  exact congrArg (fun ls => { st with lanes := ls }) hl

/-- Lanes among those that execute jump, after the idle ones have passed: `t'` gives for each where it then stands. -/
theorem jumpLanes_skipped {s : State} {x : Core} {st : Strand} {u : Cur} (h : issuer s = some (x, st, u)) {f : Form}
    (h32 : st.lanes.length = 32) {m : Word} {t t' : Nat → BitVec 48} (hm : ∀ l, inMask m l = true → executes f st u l = true)
    (ht : ∀ l, executes f st u l = true → t' l = if inMask m l then t l else (lane st l).pcv) :
    jumpLanes (withStrand s u (skipped f st u)) u m t = withStrand s u (jumped f st u t') := by
  rw [jumpLanes, modStrand_withStrand h]
  refine congrArg (fun ls => withStrand s u { st with lanes := ls }) ?_
  have hs : (skipped f st u).lanes.length = 32 := by simp [skipped, h32]
  refine lanes_ext (by simp [hs]) (by simp [h32]) fun l hl => ?_
  refine (getD_mapIdx (by omega) _).trans (Eq.trans ?_ (lane_jumped h32 t' hl).symm)
  rw [show (skipped f st u).lanes.getD l Lane.idle = _ from lane_skipped h32 hl]
  cases hex : executes f st u l with
  | true => rw [ht l hex]; cases inMask m l <;> simp
  | false =>
    have hml : inMask m l = false := by
      cases hml : inMask m l with
      | false => rfl
      | true => rw [hm l hml] at hex; cases hex
    simp [hml]

/-! ### BRA (R252) -/

/-- Four times a signed offset (R252). -/
theorem signExtend_shiftLeft_two {n : Nat} (x : BitVec n) : x.signExtend 48 <<< 2 = BitVec.ofInt 48 (4 * x.toInt) := by
  rw [BitVec.shiftLeft_eq_mul_twoPow, BitVec.signExtend, show BitVec.twoPow 48 2 = BitVec.ofInt 48 4 from rfl, ← BitVec.ofInt_mul,
    Int.mul_comm]

theorem braTarget_eq (f : Form) (pc : BitVec 48) : braTarget f pc =
    if f.hasLit then f.lit.extractLsb' 0 48
    else if f.ext then pc + BitVec.ofInt 48 (4 * f.aux.toInt)
    else pc + BitVec.ofInt 48 (4 * (f.dst.extractLsb' 0 6 ++ f.sa.extractLsb' 0 6 ++ f.sb.extractLsb' 0 6).toInt) := by
  simp only [braTarget, signExtend_shiftLeft_two]

/-- BRA: the first clause of O18. -/
theorem bra_rule {f : Form} {s : State} {x : Core} {st : Strand} {u : Cur} (h : Issues (.bra f) f s x st u) :
    exec (.bra f) s = .next (withStrand s u (jumped f st u fun _ =>
      if f.hasLit then f.lit.extractLsb' 0 48
      else if f.ext then u.pc + BitVec.ofInt 48 (4 * f.aux.toInt)
      else u.pc + BitVec.ofInt 48 (4 * (f.dst.extractLsb' 0 6 ++ f.sa.extractLsb' 0 6 ++ f.sb.extractLsb' 0 6).toInt))) := by
  have h32 := (st.wf_iff.1 h.canon).1
  rw [← braTarget_eq, exec_bra, execBra]
  by_cases he : execMask f st u = 0
  · rw [runStrand_none h he, passed_eq_jumped h32 he]
  · refine runStrand_clean h he _ (congrArg clean ?_)
    refine jumpLanes_skipped h.at_ h32 (fun l hl => by rwa [inMask_execMask] at hl) fun l hl => ?_
    rw [inMask_execMask, hl, if_pos rfl]

/-! ### BRI (R253) -/

/-- A code address is a multiple of 4 below 2^48. -/
theorem badTarget_eq (t : WVal) : badTarget t =
    if t.p then some .poisonUse else if t.v.toNat % 4 ≠ 0 ∨ 2 ^ 48 ≤ t.v.toNat then some .addrForm else none := by
  have hhigh : t.v.extractLsb' 48 16 ≠ 0 ↔ 2 ^ 48 ≤ t.v.toNat := by
    rw [Ne, ← BitVec.toNat_inj, BitVec.extractLsb'_toNat, Nat.shiftRight_eq_div_pow]
    have := t.v.isLt
    simp only [BitVec.ofNat_eq_ofNat, BitVec.toNat_ofNat]
    omega
  have hlow : t.v.extractLsb' 0 2 ≠ 0 ↔ t.v.toNat % 4 ≠ 0 := by
    rw [Ne, ← BitVec.toNat_inj, BitVec.extractLsb'_toNat, Nat.shiftRight_zero]
    rfl
  rw [badTarget]
  exact if_congr Iff.rfl rfl (if_congr ((or_congr hhigh hlow).trans or_comm) rfl rfl)

/-- The faults of a BRI whose lanes L have the targets t. -/
def briFaults (L : List Nat) (t : Nat → WVal) : List LFault :=
  L.filterMap fun l => (badTarget (t l)).map fun k => { lane := l, cause := k, addr := (t l).v, detail := 0 }

theorem briFaults_any {L : List Nat} (t : Nat → WVal) {l : Nat} (hl : l ∈ L) :
    ((briFaults L t).any fun e => e.lane = l) = (badTarget (t l)).isSome := by
  rw [Bool.eq_iff_iff, List.any_eq_true, Option.isSome_iff_exists]
  simp only [briFaults, List.mem_filterMap, Option.map_eq_some_iff, decide_eq_true_eq]
  constructor
  · rintro ⟨_, ⟨j, -, k, hk, rfl⟩, rfl⟩
    exact ⟨k, hk⟩
  · rintro ⟨k, hk⟩
    exact ⟨_, ⟨l, hl, k, hk, rfl⟩, rfl⟩

/-- The lanes that jump are the executing ones of good target; the others that execute stay. -/
theorem jumpLanes_briFaults {s : State} {x : Core} {st : Strand} {u : Cur} (h : issuer s = some (x, st, u)) {f : Form}
    (h32 : st.lanes.length = 32) (t : Nat → WVal) :
    jumpLanes (withStrand s u (skipped f st u)) u
        (maskOf fun l => inMask (execMask f st u) l && !((briFaults (executing f st u) t).any fun e => e.lane = l))
        (fun l => (t l).v.extractLsb' 0 48) =
      withStrand s u (jumped f st u fun l => if badTarget (t l) = none then (t l).v.setWidth 48 else (lane st l).pcv) := by
  refine jumpLanes_skipped h h32 (fun l hl => ?_) fun l hex => ?_
  · rw [inMask_maskOf _ (inMask_lt hl), Bool.and_eq_true, inMask_execMask] at hl
    exact hl.1
  · have hmem : l ∈ executing f st u := List.mem_filter.2 ⟨List.mem_range.2 (executes_lt hex), hex⟩
    rw [inMask_maskOf _ (executes_lt hex), inMask_execMask, hex, briFaults_any t hmem, ← BitVec.setWidth_eq_extractLsb' (by decide)]
    cases badTarget (t l) <;> simp

theorem exec_bri_next {f : Form} {s : State} {x : Core} {st : Strand} {u : Cur} (h : Issues (.bri f) f s x st u) :
    let t (l : Nat) := rd64 st f.sa.toNat f.kca l
    exec (.bri f) s = .next (raised (withStrand s u (jumped f st u fun l =>
      if badTarget (t l) = none then (t l).v.setWidth 48 else (lane st l).pcv)) u (briFaults (executing f st u) t)) := by
  intro t
  have h32 := (st.wf_iff.1 h.canon).1
  rw [exec_bri, execBri]
  by_cases he : execMask f st u = 0
  · have hnone : executing f st u = [] := by rw [← lanesOf_execMask, he]; rfl
    rw [runStrand_none h he, passed_eq_jumped h32 he, hnone]
    rfl
  · have hjump := jumpLanes_briFaults h.at_ (f := f) h32 t
    rw [← lanesOf_execMask] at hjump ⊢
    refine runStrand_raised h he ?_ _ (congrArg₂ Prod.mk hjump rfl)
    exact h.idle

/-- BRI: the second clause of O18. -/
theorem bri_rule {f : Form} {s : State} {x : Core} {st : Strand} {u : Cur} (h : Issues (.bri f) f s x st u) :
    let t (l : Nat) : WVal := rd64 st f.sa.toNat f.kca l
    let cause (l : Nat) : Option Cause :=
      if (t l).p then some .poisonUse else if (t l).v.toNat % 4 ≠ 0 ∨ 2 ^ 48 ≤ (t l).v.toNat then some .addrForm else none
    let bad : List LFault := (executing f st u).filterMap fun l =>
      (cause l).map fun k => { lane := l, cause := k, addr := (t l).v, detail := 0 }
    exec (.bri f) s = .next (raised (withStrand s u (jumped f st u fun l =>
      if cause l = none then (t l).v.setWidth 48 else (lane st l).pcv)) u bad) := by
  intro t cause bad
  have hcause : cause = fun l => badTarget (t l) := funext fun l => (badTarget_eq (t l)).symm
  simp only [bad, hcause]
  exact exec_bri_next h

end Sys2Proof.Machine
end

section
/-! PROOFS. EXIT and the end of a strand (R18, R248). -/

namespace Sys2Proof.Machine

/-! ### Exits of lanes (R248) -/

/-- The strand after an EXIT: the executing lanes are EXITED, in the interrupted code as well. -/
def exited (f : Form) (st : Strand) (u : Cur) : Strand :=
  modLanes (skipped f st u) (execMask f st u) fun la => { la with st := .exited, sst := .exited }

theorem exited_length {f : Form} {st : Strand} {u : Cur} (h : st.lanes.length = 32) : (exited f st u).lanes.length = 32 := by
  simp [exited, skipped, h]

/-- An EXIT changes the state of the executing lanes only. -/
theorem lane_exited_st {f : Form} {st : Strand} {u : Cur} (h : st.lanes.length = 32) {l : Nat} (hl : l < 32) :
    (lane (exited f st u) l).st = if executes f st u l then .exited else (lane st l).st := by
  have hs : (skipped f st u).lanes.length = 32 := by simp [skipped, h]
  rw [exited, lane_modLanes hs _ hl, inMask_execMask, lane_skipped h hl]
  cases executes f st u l with
  | true => rfl
  | false => cases inMask u.mask l <;> rfl

/-- EXIT ends the strand when it leaves no live lane; else the barriers see which lanes are left. -/
theorem exec_exit_next {f : Form} {s : State} {x : Core} {st : Strand} {u : Cur} (h : Issues (.exit f) f s x st u) (he : execMask f st u ≠ 0) :
    exec (.exit f) s = .next (if liveMask (exited f st u) = 0 then strandExit (withStrand s u (exited f st u)) u.core u.slot
      else settleBars (withStrand s u (exited f st u)) u.core u.slot) := by
  rw [exec_exit, execExit]
  refine runStrand_clean h he _ (congrArg clean ?_)
  simp only [exitLanes, modStrand_withStrand h.at_, getStrand_withStrand h.at_]
  rfl

/-! ### Barriers that a strand keeps out of -/

theorem mem_of_aget {α : Type} {l : List (Nat × α)} {k : Nat} {v : α} (h : aget l k = some v) : (k, v) ∈ l := by
  induction l with
  | nil => cases h
  | cons p t ih =>
    rw [aget] at h
    split_ifs at h with hk
    · cases h
      rw [← hk]
      exact List.mem_cons_self
    · exact List.mem_cons_of_mem _ (ih h)

/-- A lane that is READY or YIELDED keeps its strand out of every barrier. -/
theorem allParked_false {st : Strand} (h32 : st.lanes.length = 32) {l : Nat} (hl : l < 32)
    (hst : (lane st l).st = .ready ∨ (lane st l).st = .yielded) (w : Wait) : allParked st w = false := by
  have hlane : lane st l ∈ st.lanes := by
    rw [lane, List.getD_eq_getElem _ _ (by omega)]
    exact List.getElem_mem _
  have hout : ((lane st l).st == .exited || (lane st l).st == .parked w) = false := by
    rcases hst with e | e <;> rw [e] <;> rfl
  rw [allParked, List.all_eq_false.2 ⟨_, hlane, by simp [hout]⟩, Bool.and_false]

/-- No barrier changes for a strand that keeps out of each. -/
theorem settleBars_of_out {s : State} {c sl : Nat} {x : Core} {st : Strand} (hx : getCore s c = some x) (hs : aget x.strands sl = some st)
    (hout : ∀ w, allParked st w = false) : settleBars s c sl = s := by
  have hbar (b : Nat) : barArrive s c sl b = s := by
    simp [barArrive, hx, hs, hout]
  have hgbar (b : Nat) : gbarArrive s c b = s := by
    have hall : (x.strands.all fun p => allParked p.2 (.gbar b) && !hasStr x p.2) = false :=
      List.all_eq_false.2 ⟨_, mem_of_aget hs, by simp [hout]⟩
    simp only [gbarArrive, hx]
    cases gangOf s x with
    | none => rfl
    | some g => simp [hall]
  have hbars := List.foldl_fixed' (f := fun s b => barArrive s c sl b) hbar (List.range 16)
  have hgbars := List.foldl_fixed' (f := fun s b => gbarArrive s c b) hgbar (List.range 4)
  simp only [settleBars, hbars, hgbars]

/-- EXIT that leaves a lane: the third clause of O18. -/
theorem exit_rule : StrandRule .exit (fun f _ _ st u => staysOut f st u) (fun f s _ st u =>
    withStrand s u (modLanes (skipped f st u) (execMask f st u) fun la => { la with st := .exited, sst := .exited })) := by
  intro f s x st u h he hout
  obtain ⟨l, hl, hex, hst⟩ := hout
  have h32 := (st.wf_iff.1 h.canon).1
  have hkeep : (lane (exited f st u) l).st = (lane st l).st := by rw [lane_exited_st h32 hl, hex]; rfl
  have hlive : liveMask (exited f st u) ≠ 0 := by
    refine mask_ne_zero.2 ⟨l, ?_⟩
    rw [liveMask, inMask_maskOf _ hl, hkeep]
    rcases hst with e | e <;> rw [e] <;> rfl
  rw [exec_exit_next h he, if_neg hlive]
  rw [← hkeep] at hst
  exact congrArg _ (settleBars_of_out (getCore_withStrand h.at_ _) (aget_aput_same _ _ _) (allParked_false (exited_length h32) hl hst))

/-! ### The end of a strand (R18) -/

/-- No strand stands in the slot. -/
def SlotFree (s : State) (c sl : Nat) : Prop := getStrand s c sl = none

theorem SlotFree.fire {s : State} {c sl : Nat} (h : SlotFree s c sl) (n : EvName) (a b : Nat) : SlotFree (fire s n a b) c sl := h

theorem SlotFree.setCore {s : State} {c sl d : Nat} (h : SlotFree s c sl) {x y : Core} (hx : getCore s d = some x)
    (hy : aget x.strands sl = none → aget y.strands sl = none) : SlotFree (setCore s d y) c sl := by
  unfold SlotFree getStrand at *
  by_cases hc : c = d
  · subst hc
    rw [hx] at h
    rw [getCore_setCore_same]
    exact hy h
  · rwa [getCore_setCore_ne s hc]

theorem SlotFree.modCore {s : State} {c sl : Nat} (h : SlotFree s c sl) (d : Nat) {g : Core → Core}
    (hg : ∀ y, aget y.strands sl = none → aget (g y).strands sl = none) : SlotFree (modCore s d g) c sl := by
  cases hd : getCore s d with
  | none => rwa [Machine.modCore, amod_none hd]
  | some y =>
    rw [modCore_eq_setCore hd]
    exact h.setCore hd (hg y)

/-- A change of a core that leaves its strands alone. -/
theorem SlotFree.modCore_strands {s : State} {c sl : Nat} (h : SlotFree s c sl) (d : Nat) {g : Core → Core}
    (hg : ∀ y, (g y).strands = y.strands) : SlotFree (Machine.modCore s d g) c sl :=
  h.modCore d fun y hy => by rwa [hg y]

theorem SlotFree.foldl {α : Type} {c sl : Nat} {g : State → α → State} (hg : ∀ s a, SlotFree s c sl → SlotFree (g s a) c sl) (l : List α)
    {s : State} (h : SlotFree s c sl) : SlotFree (l.foldl g s) c sl :=
  List.foldlRecOn l g h fun s hs a _ => hg s a hs

theorem aget_map {α β : Type} (l : List (Nat × α)) (g : Nat × α → β) (k : Nat) :
    aget (l.map fun p => (p.1, g p)) k = (aget l k).map fun v => g (k, v) := by
  induction l with
  | nil => rfl
  | cons p t ih =>
    rw [List.map_cons, aget, aget]
    split_ifs with hk
    · rw [← hk]; rfl
    · exact ih

theorem SlotFree.freeFrame {s : State} {c sl : Nat} (h : SlotFree s c sl) (d : Nat) (f : Frame) : SlotFree (freeFrame s d f) c sl := by
  unfold Machine.freeFrame
  split_ifs
  · exact SlotFree.fire (h.modCore_strands d fun _ => by rfl) _ _ _
  · exact h

theorem SlotFree.barComplete {s : State} {c sl : Nat} (h : SlotFree s c sl) (d b : Nat) : SlotFree (barComplete s d b) c sl := by
  unfold Machine.barComplete
  split
  · exact h
  · rename_i x hx
    dsimp only
    split_ifs
    · exact (h.setCore hx fun hy => by rw [aget_map, hy]; rfl).fire _ _ _
    · exact h

theorem SlotFree.gbarComplete {s : State} {c sl : Nat} (h : SlotFree s c sl) (d b : Nat) : SlotFree (gbarComplete s d b) c sl := by
  unfold Machine.gbarComplete
  split
  · exact h
  · rename_i x hx
    split
    · exact h
    · dsimp only
      split_ifs
      · exact h.setCore hx fun hy => by rw [aget_map, hy]; rfl
      · exact (h.setCore hx fun hy => by rw [aget_map, hy]; rfl).fire _ _ _
      · exact h

theorem SlotFree.gbarCount {s : State} {c sl : Nat} (h : SlotFree s c sl) (d b wg : Nat) : SlotFree (gbarCount s d b wg) c sl :=
  SlotFree.gbarComplete (h.modCore_strands d fun _ => by rfl) d b

theorem SlotFree.lowerBars {s : State} {c sl : Nat} (h : SlotFree s c sl) (d : Nat) (arrived : Option Nat) :
    SlotFree (lowerBars s d arrived) c sl := by
  refine SlotFree.foldl (fun s b hs => ?_) _ h
  split_ifs
  · exact hs
  · refine (hs.modCore d fun y hy => ?_).barComplete d b
    dsimp only
    split_ifs <;> exact hy

theorem SlotFree.gbarArrive {s : State} {c sl : Nat} (h : SlotFree s c sl) (d b : Nat) : SlotFree (gbarArrive s d b) c sl := by
  unfold Machine.gbarArrive
  split
  · exact h
  · split
    · exact h
    · dsimp only
      split_ifs
      · exact SlotFree.gbarCount (SlotFree.foldl (fun _ _ hs => by exact hs) _ h) d b _
      · exact h

theorem SlotFree.closeSeg {s : State} {c sl : Nat} (h : SlotFree s c sl) (d : Nat) : SlotFree (closeSeg s d) c sl := by
  unfold Machine.closeSeg
  split
  · split_ifs
    · exact h.modCore_strands d fun _ => by rfl
    · exact h
  · exact h

theorem SlotFree.tryLead {s : State} {c sl : Nat} (h : SlotFree s c sl) (d : Nat) : SlotFree (tryLead s d) c sl := by
  unfold Machine.tryLead
  split
  · exact h
  · split
    · split_ifs
      · exact SlotFree.closeSeg (h.modCore_strands d fun _ => by rfl) d
      · exact h
      · exact SlotFree.fire (h.modCore_strands d fun _ => by rfl) _ _ _
    · exact h

theorem SlotFree.tryPhase {s : State} {c sl : Nat} (h : SlotFree s c sl) (d : Nat) : SlotFree (tryPhase s d) c sl := by
  unfold Machine.tryPhase
  split
  · exact h
  · split_ifs
    · exact SlotFree.tryLead (h.modCore_strands d fun _ => by rfl) d
    · exact h

theorem SlotFree.wgExit {s : State} {c sl : Nat} (h : SlotFree s c sl) (d : Nat) : SlotFree (wgExit s d) c sl := by
  have bars (g : Gang) {s : State} (hs : SlotFree s c sl) :
      SlotFree (g.cores.foldl (fun s d => (List.range 4).foldl (fun s b => Machine.gbarComplete s d b) s) s) c sl :=
    SlotFree.foldl (fun _ d hs => SlotFree.foldl (fun _ b hs => hs.gbarComplete d b) _ hs) _ hs
  unfold Machine.wgExit
  split
  · exact h
  · split
    · exact h
    · dsimp only
      split_ifs
      · exact SlotFree.foldl (fun _ d hs => hs.tryLead d) _ (bars _ h)
      · exact bars _ h

/-- The strand that ends leaves its slot, where its core lists the slot once. -/
theorem strandExit_slotFree {s : State} {c sl : Nat} {x : Core} {st : Strand} (hx : getCore s c = some x) (hs : aget x.strands sl = some st)
    (hd : st.due = []) (hfree : aget (adel x.strands sl) sl = none) : SlotFree (strandExit s c sl) c sl := by
  have hdel : SlotFree (modCore s c fun x => { x with strands := adel x.strands sl }) c sl := by
    unfold SlotFree getStrand
    rw [getCore_modCore_same hx]
    exact hfree
  have hflush : flushDue s c sl x [] = s := rfl
  simp only [strandExit, hx, hs, hd, hflush]
  have hhandler : SlotFree (match st.handler with
      | some h => fire (modCore s c fun x => { x with strands := adel x.strands sl }) .frameFree c h.fid
      | none => modCore s c fun x => { x with strands := adel x.strands sl }) c sl := by
    split
    · exact hdel.fire _ _ _
    · exact hdel
  have hframes := SlotFree.foldl (fun _ f hs => hs.freeFrame c f) st.frames hhandler
  have hbars := SlotFree.foldl (fun _ b hs => hs.gbarArrive c b) (List.range 4) ((hframes.fire .strandExit c sl).lowerBars c st.arrived)
  refine SlotFree.tryPhase ?_ c
  split_ifs
  · exact hbars.wgExit c
  · exact hbars

theorem aget_none_of_lt {α : Type} {l : List (Nat × α)} {k : Nat} (h : ∀ p ∈ l, k < p.1) : aget l k = none := by
  induction l with
  | nil => rfl
  | cons p t ih =>
    obtain ⟨hp, ht⟩ := List.forall_mem_cons.1 h
    rw [aget, if_neg (by omega), ih ht]

/-- Where keys rise, a key that is put and taken away again is not listed. -/
theorem aget_adel_aput {α : Type} {l : List (Nat × α)} (h : rising l = true) (k : Nat) (v : α) : aget (adel (aput l k v) k) k = none := by
  induction l with
  | nil => simp [aput, adel, aget]
  | cons p t ih =>
    obtain ⟨a, w⟩ := p
    simp only [rising, List.map_cons, decide_eq_true_eq, List.pairwise_cons, List.forall_mem_map] at h ih
    obtain ⟨hlt, ht⟩ := h
    rw [aput]
    split_ifs with hk hlt'
    · rw [adel, if_pos rfl]
      exact aget_none_of_lt fun p hp => hk ▸ hlt p hp
    · rw [adel, if_pos rfl]
      refine aget_none_of_lt (List.forall_mem_cons.2 ⟨hlt', fun p hp => ?_⟩)
      exact hlt'.trans (hlt p hp)
    · rw [adel, if_neg hk, aget, if_neg hk]
      exact ih ht

/-- The last clause of O18 where it holds: the slots of the core stand in order (`Core.wf`), and no due record waits. -/
theorem exit_last_frees_slot {f : Form} {s : State} {x : Core} {st : Strand} {u : Cur} (h : Issues (.exit f) f s x st u)
    (he : execMask f st u ≠ 0) (hslots : rising x.strands = true) (hd : st.due = [])
    (hall : ∀ l, l < 32 → (lane st l).st ≠ .exited → executes f st u l = true) :
    ∃ t, exec (.exit f) s = .next t ∧ getStrand t u.core u.slot = none := by
  have h32 := (st.wf_iff.1 h.canon).1
  have hlive : liveMask (exited f st u) = 0 := by
    refine mask_ext fun l hl => ?_
    rw [liveMask, inMask_maskOf _ hl, inMask_zero, lane_exited_st h32 hl]
    by_cases hex : executes f st u l = true
    · rw [if_pos hex]; rfl
    · rw [if_neg hex, not_not.1 (mt (hall l hl) hex)]; rfl
  refine ⟨_, exec_exit_next h he, ?_⟩
  rw [if_pos hlive]
  exact strandExit_slotFree (getCore_withStrand h.at_ _) (aget_aput_same _ _ _) hd (aget_adel_aput hslots _ _)

/-! ### A core that lists a slot twice -/

/-- EXIT in every lane. -/
def exitForm : Form :=
  { len := 0, gp := 7, gn := false, dst := 0, sa := 0, sb := 0, sc := 0, kca := false, kcb := false, kcc := false, dk := false, hold := 0,
    md := 0, aux := 0, lit := 0 }

/-- A strand that has just been created, at an EXIT in every lane. -/
def exitStrand : Strand := newStrand 0 0 1 [0] 0x10000 0 0 0
def exitCur : Cur := { core := 0, slot := 0, pc := 0x10000, mask := BitVec.allOnes 32, w0 := 0xE0000100, ilen := 1, mm1 := 0, mm2 := 0 }

/-- A device whose one core lists these strands by slot. -/
def exitCore (l : List (Nat × Strand)) : Core := newCore 0 0 l 0 0
def exitState (l : List (Nat × Strand)) : State := { State.reset with cores := [(0, exitCore l)], cur := some exitCur }

theorem exitState_issues {l : List (Nat × Strand)} (h : aget l 0 = some exitStrand) :
    Issues (.exit exitForm) exitForm (exitState l) (exitCore l) exitStrand exitCur where
  at_ := by
    simp [issuer, exitState, exitCur, exitCore, newCore, getCore, aget, h]
  wf := by decide
  fits := ⟨_, rfl, by decide⟩
  clean := rfl
  canon := by decide
  runs := .inl rfl
  idle := rfl
  guards := fun _ _ => rfl

/-- A core that lists the slot once loses the strand. -/
theorem exit_slotOnce : ∃ t, exec (.exit exitForm) (exitState [(0, exitStrand)]) = .next t ∧ getStrand t exitCur.core exitCur.slot = none :=
  exit_last_frees_slot (exitState_issues rfl) (by decide) rfl rfl (by decide)

/-- A core that lists the slot twice loses the first entry only: `Core.wf` shuts it out, and `Issues` does not. -/
theorem exit_slotTwice : ∃ t, exec (.exit exitForm) (exitState [(0, exitStrand), (0, exitStrand)]) = .next t ∧
    getStrand t exitCur.core exitCur.slot = some exitStrand :=
  ⟨_, exec_exit_next (exitState_issues rfl) (by decide), by decide⟩

/-- Refutes O18: its last clause asks nothing of the core, and where the core lists the slot twice the end of the strand leaves the
second entry. The other clauses hold (`bra_rule`, `bri_rule`, `exit_rule`), and so does this one where slots stand in order
(`exit_last_frees_slot`). -/
theorem not_branchesAndExits : ¬ Obligations.BranchesAndExits := by
  unfold Obligations.BranchesAndExits
  rintro ⟨-, -, -, hlast⟩
  obtain ⟨t, ht, hfree⟩ := hlast exitForm (exitState [(0, exitStrand), (0, exitStrand)]) _ exitStrand exitCur (exitState_issues rfl)
    (by decide) rfl (by decide)
  obtain ⟨t', ht', hleft⟩ := exit_slotTwice
  cases ht.symm.trans ht'
  cases hfree.symm.trans hleft

end Sys2Proof.Machine
end
